-- ==== Sys2Proof/Word.lean ====
section
/-! DEFINITION. The word types of the device (00 R3) and the sparse map that every indexed item of state is held in. -/
namespace Sys2Proof

/-- A dword: registers, addresses, the program counter (00 R3). -/
abbrev Word := BitVec 64

/-- A word of 32 bits: instruction words, vector lanes (00 R3). -/
abbrev W32 := BitVec 32

/-- A byte (00 R3). -/
abbrev Byte := BitVec 8

/-- A sparse map from indexes to values. `mput` (Machine/Bits.lean) keeps keys rising strictly; what an unlisted key
reads as is given to `mget` by the item that uses the map. -/
abbrev SMap (α : Type) := List (Nat × α)

end Sys2Proof
end

