-- ==== Sys2Proof/Machine/Bits.lean ====
section
/-! DEFINITION. Bit fields, sign extension, byte order (00 R3) and the operations of the sparse map. -/
namespace Sys2Proof.Machine

/-- Bits hi down to lo of a number (the slice of 00 R3). -/
def natBits (x hi lo : Nat) : Nat := (x >>> lo) % 2 ^ (hi - lo + 1)

/-- Bit i of a number. -/
def natBit (x i : Nat) : Bool := (x >>> i) % 2 == 1

/-- x with bits hi down to lo replaced by the low bits of v. -/
def natSetBits (x hi lo v : Nat) : Nat :=
  x - natBits x hi lo * 2 ^ lo + (v % 2 ^ (hi - lo + 1)) * 2 ^ lo

/-- Bits hi down to lo of a bit vector, as a number. -/
def fld {n : Nat} (x : BitVec n) (hi lo : Nat) : Nat := natBits x.toNat hi lo

/-- Bit i of a bit vector. -/
def bitOf {n : Nat} (x : BitVec n) (i : Nat) : Bool := x.getLsbD i

/-- A bit vector of w bits sign-extended to a dword. -/
def sext64 {n : Nat} (x : BitVec n) : Word := x.signExtend 64

/-- A bit vector zero-extended to a dword. -/
def zext64 {n : Nat} (x : BitVec n) : Word := x.setWidth 64

/-- The number held little-endian in bytes (00 R3). -/
def leNat : List Byte → Nat
  | [] => 0
  | b :: r => b.toNat + 256 * leNat r

/-- The n bytes of a number, the lowest address first (00 R3). -/
def leBytes : Nat → Nat → List Byte
  | 0, _ => []
  | n + 1, x => BitVec.ofNat 8 x :: leBytes n (x / 256)

/-- The number of set bits among bits n-1 down to 0. -/
def popCount : Nat → Nat → Nat
  | 0, _ => 0
  | n + 1, x => x % 2 + popCount n (x / 2)

/-- The position of the k-th set bit of x at or above position i, with fuel. -/
def nthSetBit : Nat → Nat → Nat → Nat → Nat
  | 0, _, _, i => i
  | fuel + 1, x, k, i =>
    if natBit x i then (if k = 0 then i else nthSetBit fuel x (k - 1) (i + 1))
    else nthSetBit fuel x k (i + 1)

/-- ceil(a / b). -/
def ceilDiv (a b : Nat) : Nat := (a + b - 1) / b

/-- 1 for true. -/
def b2n (b : Bool) : Nat := if b then 1 else 0

/-- The value at a key; `d` is what an unlisted key reads as. -/
def mget {α : Type} (d : α) : SMap α → Nat → α
  | [], _ => d
  | (k, v) :: r, i => if i = k then v else mget d r i

/-- Write a key, keeping keys rising. -/
def mput {α : Type} : SMap α → Nat → α → SMap α
  | [], i, x => [(i, x)]
  | (k, v) :: r, i, x =>
    if i < k then (i, x) :: (k, v) :: r
    else if i = k then (i, x) :: r
    else (k, v) :: mput r i x

/-- The value at a key, if the key is listed. -/
def mfind {α : Type} : SMap α → Nat → Option α
  | [], _ => none
  | (k, v) :: r, i => if i = k then some v else mfind r i

/-- Unlist a key. -/
def mdel {α : Type} (m : SMap α) (i : Nat) : SMap α := m.filter fun e => e.1 ≠ i

/-- Drop the entries of keys lo to hi - 1. -/
def mclear {α : Type} (m : SMap α) (lo hi : Nat) : SMap α :=
  m.filter fun e => e.1 < lo || hi ≤ e.1

/-- Every key of the list is above b and keys rise strictly. -/
def mabove {α : Type} : Nat → SMap α → Bool
  | _, [] => true
  | b, (k, _) :: r => decide (b < k) && mabove k r

/-- Keys rise strictly. -/
def mwf {α : Type} : SMap α → Bool
  | [] => true
  | (k, _) :: r => mabove k r

/-- The keys listed. -/
def mkeys {α : Type} (m : SMap α) : List Nat := m.map Prod.fst

/-- Fold over 0, 1, …, n - 1. -/
def upTo {α : Type} : Nat → (Nat → α → α) → α → α
  | 0, _, a => a
  | n + 1, f, a => f n (upTo n f a)

/-- The list 0, 1, …, n - 1. -/
def below (n : Nat) : List Nat := List.range n

/-- Replace the n-th element of a list. -/
def setNth {α : Type} : List α → Nat → α → List α
  | [], _, _ => []
  | _ :: r, 0, x => x :: r
  | a :: r, n + 1, x => a :: setNth r n x

/-- Drop the n-th element of a list. -/
def dropNth {α : Type} : List α → Nat → List α
  | [], _ => []
  | _ :: r, 0 => r
  | a :: r, n + 1 => a :: dropNth r n

/-- The index of the first element that satisfies p. -/
def firstIdx {α : Type} (p : α → Bool) : List α → Option Nat
  | [] => none
  | a :: r => if p a then some 0 else (firstIdx p r).map (· + 1)

/-- The first number from i on, of the next `fuel` ones, that satisfies p. -/
def firstFrom : Nat → Nat → (Nat → Bool) → Option Nat
  | 0, _, _ => none
  | fuel + 1, i, p => if p i then some i else firstFrom fuel (i + 1) p

/-- The first number below n that satisfies p. -/
def firstBelow (n : Nat) (p : Nat → Bool) : Option Nat := firstFrom n 0 p

/-- The smallest element of a list of numbers. -/
def minOf : List Nat → Option Nat
  | [] => none
  | a :: r => match minOf r with
    | none => some a
    | some b => some (if a ≤ b then a else b)

/-- The sum of a list of numbers. -/
def sumOf : List Nat → Nat
  | [] => 0
  | a :: r => a + sumOf r

end Sys2Proof.Machine
end

