-- ==== Sys2Proof/Syntax.lean ====
section
/-! DEFINITION. The steps of the device: one constructor of `Instr` per row of spec/opcode_table.json. Rows that are words
carry the fields of the word; rows of classes 1 to 5 carry the fields of the amended 80-bit engine word (03 R78); rows that
are events carry what the event brings from outside the slot. -/
namespace Sys2Proof

/-- The engines that hold a command queue (01 R18, 13 R295). -/
inductive Engine where
  | ld | st | vx | mx | cp | sy
deriving DecidableEq, Repr

/-- Conditions of CMP and CMPI (05 R119). -/
inductive Cc where
  | eq | ne | lt | ltn | le | len | gt | gtn | ge | gen
deriving DecidableEq, Repr

/-- Conditions of VCMP (06 R147). -/
inductive VCc where
  | eq | ne | lt | le | gt | ge | un
deriving DecidableEq, Repr

/-- Sizes of LDC and STC (03 R72, 09 R227). -/
inductive CSize where
  | b | h | w | d | bn | hn | wn
deriving DecidableEq, Repr

/-- Operations of AMO and VAMO (03 R69, R88). -/
inductive AmoOp where
  | add | swap | cas | min | max | and | or | xor
deriving DecidableEq, Repr

/-- Scopes (08 R200). -/
inductive Scope where
  | t | d | p | f
deriving DecidableEq, Repr

/-- Kinds of FENCE (03 R69, 08 R201). -/
inductive FenceKind where
  | ls | rel | acq | sc | nm
deriving DecidableEq, Repr

/-- Element types of VX (03 R87). -/
inductive VTy where
  | f32 | f16 | bf16 | i32 | n32
deriving DecidableEq, Repr

/-- Rounding modes (02 R49). -/
inductive Rm where
  | rne | rtz | rup | rdn | sr
deriving DecidableEq, Repr

/-- Element formats with a code below 14 (02 R40). -/
inductive Fmt where
  | i8 | i16 | i32 | i64 | n8 | n16 | n32 | n64 | fp32 | fp16 | bf16 | e4m3 | e5m2 | c4
deriving DecidableEq, Repr

/-- Element sizes of classes 3 and 4 and of CPYS (09 R213, 11 R253). -/
inductive ESize where
  | w | h | b
deriving DecidableEq, Repr

/-- Packed widths of VPACK and VUNPACK (06 R150). -/
inductive PWidth where
  | w16 | w8 | w4
deriving DecidableEq, Repr

/-- Types of VAMO (03 R88). -/
inductive ATy where
  | f32 | i32 | n32
deriving DecidableEq, Repr

/-- Shift amount of VSHL, VSHR, VSHA: a register or an immediate (06 R146). -/
inductive VShift where
  | reg (b : BitVec 5)
  | imm (n : BitVec 5)
deriving DecidableEq, Repr

/-- Scope codes of TLBI (17 R375). -/
inductive TlbiScope where
  | buf | ctx | vf | all
deriving DecidableEq, Repr

/-- Kinds of YIELDL (19 R397). -/
inductive YKind where
  | future | data | room | counter
deriving DecidableEq, Repr

/-- Selectors of TKTGET that are not refused at run time, and those that are (19 R401). -/
abbrev TktSel := BitVec 3

/-- The fields of an engine word that every command has (03 R78): producer distance, tags, latency bound, guard. -/
structure Ctl where
  pd : BitVec 4
  ta : Option (BitVec 4)
  tc0 : Option (BitVec 4)
  tc1 : Option (BitVec 4)
  lb : BitVec 4
  guard : BitVec 3
deriving DecidableEq, Repr

/-- Address form of a class 3 or 4 command (09 R214). -/
inductive AddrForm where
  | off (amt : BitVec 8)
  | postInc (amt : BitVec 8)
  | reg (b : BitVec 5)
deriving DecidableEq, Repr

/-- Outcomes of ENQR (14 R320). -/
inductive EnqrOutcome where
  | ok | full | gone | denied
deriving DecidableEq, Repr

/-- A PCIe function: the PF of a port, or a VF by its id (21 R423). -/
inductive Fn where
  | pf (portB : Bool)
  | vf (id : BitVec 9)
deriving DecidableEq, Repr

/-- The controls and plain registers of the management page that a host write reaches (23 R459). -/
inductive MgmtReg where
  | refused | evtDie | evtIndex | readOnly
deriving DecidableEq, Repr

/-- Events that move a VF to ERROR (21 R436). -/
inductive TdispCause where
  | configWrite | sessionLoss | linkDown | fabricFailed
deriving DecidableEq, Repr

/-- A unit of the season machine: a bank of a tile, or a DRAM region of a stack (07 R184). -/
inductive SeasonUnit where
  | bank (tile : Nat) (bank : Nat)
  | region (stack : Nat) (region : Nat)
deriving DecidableEq, Repr

/-- What a scrub finds in the sector or word it reads (23 R454). -/
inductive ScrubFind where
  | clean | correctable | uncorrectable
deriving DecidableEq, Repr

/-- The fields of a stack-link message header that a base die acts on (12 R290). -/
structure LinkHdr where
  flags : BitVec 2
  stk : BitVec 4
  key : BitVec 10
  tag : BitVec 12
  uaddr : BitVec 30
deriving DecidableEq, Repr

/-- The fields of a ring slot's header (22 R444) other than VALID, CLASS and OP, which the constructor names. -/
structure SlotHdr where
  pass2 : Bool
  ret : Bool
  srcNode : BitVec 12
  dstNode : BitVec 12
  srcDie : BitVec 3
  seq : BitVec 16
  dvf : BitVec 9
  dgen : BitVec 12
  remWin : BitVec 12
  offset : BitVec 40
  tenant : BitVec 8
  qtag : Option (BitVec 13)
  reqId : BitVec 16
  mask : BitVec 64
deriving DecidableEq, Repr

/-- The payload beat of a WRITE (22 R444), with a mark for each half of it whose bytes come from a poisoned source (11 R257; log 81). -/
structure Beat where
  bytes : BitVec 512
  poison : BitVec 2 := 0#2
deriving DecidableEq, Repr

/-- The capacity report of a stack (12 R293). -/
structure CapReport where
  height : BitVec 8
  lgroups : BitVec 4
  channels : BitVec 6
  pcs : BitVec 2
  banks : BitVec 5
  rows : BitVec 15
  rowBytes : BitVec 12
  regions : BitVec 16
  rate : BitVec 8
  spares : BitVec 8
  nmSlots : BitVec 16
  keys : BitVec 12
  temp : BitVec 8
  stepping : BitVec 8
deriving DecidableEq, Repr

/-- The steps of the device, in the order of spec/opcode_table.json. The docstring of a constructor names its rule. -/
inductive Instr where
  /-- ADD: 05 R113 to R115. -/
  | add (d a b : BitVec 5)
  /-- SUB: 05 R113 to R115. -/
  | sub (d a b : BitVec 5)
  /-- MUL: 05 R113 to R115. -/
  | mul (d a b : BitVec 5)
  /-- MULH: 05 R113 to R115. -/
  | mulh (d a b : BitVec 5)
  /-- MULHN: 05 R113 to R115. -/
  | mulhn (d a b : BitVec 5)
  /-- DIV: 05 R113 to R115. -/
  | div (d a b : BitVec 5)
  /-- DIVN: 05 R113 to R115. -/
  | divn (d a b : BitVec 5)
  /-- REM: 05 R113 to R115. -/
  | rem (d a b : BitVec 5)
  /-- REMN: 05 R113 to R115. -/
  | remn (d a b : BitVec 5)
  /-- AND: 05 R113 to R115. -/
  | and (d a b : BitVec 5)
  /-- OR: 05 R113 to R115. -/
  | or (d a b : BitVec 5)
  /-- XOR: 05 R113 to R115. -/
  | xor (d a b : BitVec 5)
  /-- SHL: 05 R113 to R115. -/
  | shl (d a b : BitVec 5)
  /-- SHR: 05 R113 to R115. -/
  | shr (d a b : BitVec 5)
  /-- SHA: 05 R113 to R115. -/
  | sha (d a b : BitVec 5)
  /-- MIN: 05 R113 to R115. -/
  | min (d a b : BitVec 5)
  /-- MAX: 05 R113 to R115. -/
  | max (d a b : BitVec 5)
  /-- MINN: 05 R113 to R115. -/
  | minn (d a b : BitVec 5)
  /-- MAXN: 05 R113 to R115. -/
  | maxn (d a b : BitVec 5)
  /-- CLZ: 05 R113. -/
  | clz (d a : BitVec 5)
  /-- CTZ: 05 R113. -/
  | ctz (d a : BitVec 5)
  /-- POPC: 05 R113. -/
  | popc (d a : BitVec 5)
  /-- BSWAP: 05 R113. -/
  | bswap (d a : BitVec 5)
  /-- SEL: 05 R121. -/
  | sel (n : BitVec 3) (d a b : BitVec 5)
  /-- CMP: 05 R119. -/
  | cmp (cc : Cc) (d : BitVec 3) (a b : BitVec 5)
  /-- PAND: 05 R120. -/
  | pand (d a b : BitVec 3)
  /-- POR: 05 R120. -/
  | por (d a b : BitVec 3)
  /-- PXOR: 05 R120. -/
  | pxor (d a b : BitVec 3)
  /-- PNOT: 05 R120. -/
  | pnot (d a : BitVec 3)
  /-- BUFA: 05 R122. -/
  | bufa (d a b : BitVec 5)
  /-- BUFX: 05 R122. -/
  | bufx (d a : BitVec 5)
  /-- BUFO: 05 R122. -/
  | bufo (d a : BitVec 5)
  /-- ADDI: 05 R116. -/
  | addi (d a : BitVec 5) (imm : BitVec 12)
  /-- ANDI: 05 R116. -/
  | andi (d a : BitVec 5) (imm : BitVec 12)
  /-- ORI: 05 R116. -/
  | ori (d a : BitVec 5) (imm : BitVec 12)
  /-- XORI: 05 R116. -/
  | xori (d a : BitVec 5) (imm : BitVec 12)
  /-- SHLI: 05 R116. -/
  | shli (d a : BitVec 5) (n : BitVec 6)
  /-- SHRI: 05 R116. -/
  | shri (d a : BitVec 5) (n : BitVec 6)
  /-- SHAI: 05 R116. -/
  | shai (d a : BitVec 5) (n : BitVec 6)
  /-- CMPI: 05 R119. -/
  | cmpi (cc : Cc) (d : BitVec 3) (a : BitVec 5) (imm : BitVec 12)
  /-- LUI: 05 R117. -/
  | lui (d : BitVec 5) (imm : BitVec 19)
  /-- JAL: 05 R125. -/
  | jal (d : BitVec 5) (off : BitVec 19)
  /-- J: 05 R124. -/
  | j (off : BitVec 19)
  /-- BR: 05 R124. -/
  | br (p : BitVec 3) (off : BitVec 19)
  /-- JALR: 05 R126. -/
  | jalr (d a : BitVec 5) (imm : BitVec 12)
  /-- MOVX: 05 R128. -/
  | movx (d a : BitVec 5) (imm : BitVec 12)
  /-- MOVXS: 05 R129. -/
  | movxs (d a : BitVec 5)
  /-- LDC: 09 R227. -/
  | ldc (sz : CSize) (d a : BitVec 5) (imm : BitVec 12)
  /-- LDC_LONG: 09 R227, long form. -/
  | ldcLong (sz : CSize) (d a : BitVec 5) (disp : W32)
  /-- STC: 09 R227. -/
  | stc (sz : CSize) (d a : BitVec 5) (imm : BitVec 12)
  /-- STC_LONG: 09 R227, long form. -/
  | stcLong (sz : CSize) (d a : BitVec 5) (disp : W32)
  /-- AMO: 09 R228. -/
  | amo (op : AmoOp) (dword : Bool) (scope : Scope) (d a b : BitVec 5)
  /-- FENCE: 08 R201, 09 R229. -/
  | fence (kind : FenceKind) (scope : Scope)
  /-- REGION: 03 R83, 05 R130. -/
  | region (scoreboard : Bool)
  /-- REGION_RESUME: 03 R83: the drain of REGION is over and dispatch resumes. -/
  | regionResume
  /-- SYSR: 04 R105, 05 R132. -/
  | sysr (d : BitVec 5) (name : BitVec 12) (idx : BitVec 5)
  /-- SYSW: 04 R105, 05 R132. -/
  | sysw (a : BitVec 5) (name : BitVec 12) (idx : BitVec 5)
  /-- ARB_MODE_TAKE_EFFECT: 01 R27. -/
  | arbModeTakeEffect
  /-- TRAP: 05 R133. -/
  | trap (n : BitVec 12)
  /-- ERET: 05 R134 to R138. -/
  | eret
  /-- YIELD: 05 R134 to R138. -/
  | yieldQ
  /-- ENDJ: 05 R134 to R138. -/
  | endj
  /-- NOP: 05 R134 to R138. -/
  | nop
  /-- LIW: 05 R118. -/
  | liw (d : BitVec 5) (imm : Word)
  /-- TDEF: 03 R89. -/
  | tdef (cls : BitVec 3) (index : BitVec 6) (word : BitVec 80)
  /-- TBW: 17 R367. -/
  | tbw (d a b : BitVec 5) (code : BitVec 7)
  /-- TBR: 17 R367. -/
  | tbr (d a b : BitVec 5) (code : BitVec 7)
  /-- TLBI: 17 R375. -/
  | tlbi (scope : TlbiScope) (a : BitVec 5)
  /-- SHARDW: 17 R367; owner = table 0x07. -/
  | shardw (d a b : BitVec 5) (owner : Bool)
  /-- SHARDR: 17 R376. -/
  | shardr (d a b : BitVec 5)
  /-- CURW: 17 R367. -/
  | curw (d a b : BitVec 5)
  /-- CTXW: 17 R367; queue = table 0x16. -/
  | ctxw (d a b : BitVec 5) (queue : Bool)
  /-- FMMUW: 17 R367; mmu = table 0x05. -/
  | fmmuw (d a b : BitVec 5) (mmu : Bool)
  /-- KEYW: 17 R367. -/
  | keyw (d a b : BitVec 5)
  /-- PROTW: 17 R367. -/
  | protw (d a b : BitVec 5)
  /-- TABLE_WRITE_IN_FORCE: 15 R330: the n-th pending table write comes in force. -/
  | tableWriteInForce (n : Nat)
  /-- ENQ: 14 R317. -/
  | enq (d : BitVec 3) (a b : BitVec 5) (ind : Bool)
  /-- DEQ: 14 R317. -/
  | deq (d a b : BitVec 5) (ind : Bool) (p : BitVec 3)
  /-- PEEK: 14 R317. -/
  | peek (d a b : BitVec 5) (ind : Bool) (p : BitVec 3)
  /-- ENQR: 14 R320. -/
  | enqr (d : BitVec 3) (a b : BitVec 5) (c : BitVec 4)
  /-- ENQR_OUTCOME: 14 R320: the oldest returned outcome is counted. -/
  | enqrOutcome
  /-- QSTAT: 14 R319. -/
  | qstat (d a : BitVec 5)
  /-- TOKP: 14 R321. -/
  | tokp (eng fifo : BitVec 3) (out : Bool)
  /-- RNDV: 14 R322. -/
  | rndv
  /-- RNDV_RETIRE: 14 R322. -/
  | rndvRetire
  /-- SYNC: 14 R324. -/
  | sync (a : BitVec 5)
  /-- SYNC_W: 14 R324. -/
  | syncW
  /-- ARRIVE: 14 R324. -/
  | arrive (a : BitVec 5)
  /-- PHASE_CLOSE: 14 R324, R325: the phase of the team's domain closes. -/
  | phaseClose (team : Nat)
  /-- WAITC: 14 R327. -/
  | waitc (d : BitVec 3) (a : BitVec 5) (id : BitVec 8)
  /-- WAITC_SATISFIED: 14 R327. -/
  | waitcSatisfied
  /-- SPAWN: 19 R394. -/
  | spawn (d a : BitVec 5)
  /-- REF: 19 R395, R396. -/
  | refF (d : BitVec 3) (a : BitVec 5)
  /-- DROP: 19 R395, R396. -/
  | dropF (d : BitVec 3) (a : BitVec 5)
  /-- AWAIT: 19 R395, R396. -/
  | await (d : BitVec 3) (a : BitVec 5)
  /-- AWAITL: 19 R395, R396. -/
  | awaitl (d : BitVec 3) (a : BitVec 5)
  /-- AWAITL_END: 19 R396. -/
  | awaitlEnd
  /-- RPOINT: 19 R398. -/
  | rpoint
  /-- YIELDL: 19 R397. -/
  | yieldl (kind : YKind) (a b : BitVec 5)
  /-- YIELDL_READY: 19 R397. -/
  | yieldlReady
  /-- TKTSET: 19 R401. -/
  | tktset (d a b : BitVec 5)
  /-- TKTGET: 19 R401. -/
  | tktget (d a : BitVec 5) (sel : TktSel)
  /-- DRAW: 19 R402. -/
  | draw (d a : BitVec 5)
  /-- CTRSET: 19 R403. -/
  | ctrset (a b : BitVec 5)
  /-- CTRGET: 19 R403. -/
  | ctrget (d a : BitVec 5)
  /-- CTRADD: 19 R403. -/
  | ctradd (a b : BitVec 5)
  /-- PATCH_WORD_DISPATCH: 03 R74 to R77, R90. -/
  | patchWordDispatch (cls : BitVec 3) (index : BitVec 6) (sel : BitVec 4) (pop push last : Bool) (value : BitVec 16)
  /-- COVERED_RESULT_LANDING: 03 R80, R81: lanes of the n-th pending result land. -/
  | coveredResultLanding (n : Nat) (lanes : Word)
  /-- VADD: 06 R143, R145. -/
  | vadd (k : Ctl) (t : VTy) (rm : Rm) (sat : Bool) (d : BitVec 5) (m : BitVec 3) (a b : BitVec 5)
  /-- VSUB: 06 R143, R145. -/
  | vsub (k : Ctl) (t : VTy) (rm : Rm) (sat : Bool) (d : BitVec 5) (m : BitVec 3) (a b : BitVec 5)
  /-- VMUL: 06 R143, R145. -/
  | vmul (k : Ctl) (t : VTy) (rm : Rm) (sat : Bool) (d : BitVec 5) (m : BitVec 3) (a b : BitVec 5)
  /-- VFMA: 06 R143. -/
  | vfma (k : Ctl) (t : VTy) (rm : Rm) (d : BitVec 5) (m : BitVec 3) (a b c : BitVec 5)
  /-- VFMS: 06 R143. -/
  | vfms (k : Ctl) (t : VTy) (rm : Rm) (d : BitVec 5) (m : BitVec 3) (a b c : BitVec 5)
  /-- VFNMA: 06 R143. -/
  | vfnma (k : Ctl) (t : VTy) (rm : Rm) (d : BitVec 5) (m : BitVec 3) (a b c : BitVec 5)
  /-- VDIV: 06 R143. -/
  | vdiv (k : Ctl) (t : VTy) (rm : Rm) (d : BitVec 5) (m : BitVec 3) (a b : BitVec 5)
  /-- VSQRT: 06 R143. -/
  | vsqrt (k : Ctl) (t : VTy) (rm : Rm) (d : BitVec 5) (m : BitVec 3) (a : BitVec 5)
  /-- VEXP2: 06 R143. -/
  | vexp2 (k : Ctl) (rm : Rm) (d : BitVec 5) (m : BitVec 3) (a : BitVec 5)
  /-- VLOG2: 06 R143. -/
  | vlog2 (k : Ctl) (rm : Rm) (d : BitVec 5) (m : BitVec 3) (a : BitVec 5)
  /-- VMIN: 06 R144, R145. -/
  | vmin (k : Ctl) (t : VTy) (d : BitVec 5) (m : BitVec 3) (a b : BitVec 5)
  /-- VMAX: 06 R144, R145. -/
  | vmax (k : Ctl) (t : VTy) (d : BitVec 5) (m : BitVec 3) (a b : BitVec 5)
  /-- VABS: 06 R144, R145. -/
  | vabs (k : Ctl) (t : VTy) (sat : Bool) (d : BitVec 5) (m : BitVec 3) (a : BitVec 5)
  /-- VNEG: 06 R144, R145. -/
  | vneg (k : Ctl) (t : VTy) (sat : Bool) (d : BitVec 5) (m : BitVec 3) (a : BitVec 5)
  /-- VAND: 06 R146. -/
  | vand (k : Ctl) (d : BitVec 5) (m : BitVec 3) (a b : BitVec 5)
  /-- VOR: 06 R146. -/
  | vor (k : Ctl) (d : BitVec 5) (m : BitVec 3) (a b : BitVec 5)
  /-- VXOR: 06 R146. -/
  | vxor (k : Ctl) (d : BitVec 5) (m : BitVec 3) (a b : BitVec 5)
  /-- VSHL: 06 R146. -/
  | vshl (k : Ctl) (d : BitVec 5) (m : BitVec 3) (a : BitVec 5) (n : VShift)
  /-- VSHR: 06 R146. -/
  | vshr (k : Ctl) (d : BitVec 5) (m : BitVec 3) (a : BitVec 5) (n : VShift)
  /-- VSHA: 06 R146. -/
  | vsha (k : Ctl) (d : BitVec 5) (m : BitVec 3) (a : BitVec 5) (n : VShift)
  /-- VMULH: 06 R145. -/
  | vmulh (k : Ctl) (t : VTy) (d : BitVec 5) (m : BitVec 3) (a b : BitVec 5)
  /-- VCMP: 06 R147. -/
  | vcmp (k : Ctl) (t : VTy) (cc : VCc) (d m : BitVec 3) (a b : BitVec 5)
  /-- VSEL: 06 R148. -/
  | vsel (k : Ctl) (d : BitVec 5) (m : BitVec 3) (a b : BitVec 5) (c : BitVec 3)
  /-- KAND: 06 R148. -/
  | kand (k : Ctl) (d a b : BitVec 3)
  /-- KOR: 06 R148. -/
  | kor (k : Ctl) (d a b : BitVec 3)
  /-- KXOR: 06 R148. -/
  | kxor (k : Ctl) (d a b : BitVec 3)
  /-- KNOT: 06 R148. -/
  | knot (k : Ctl) (d a : BitVec 3)
  /-- KPOPC: 06 R148. -/
  | kpopc (k : Ctl) (d : BitVec 5) (m a : BitVec 3)
  /-- KFIRST: 06 R148. -/
  | kfirst (k : Ctl) (d a : BitVec 3)
  /-- VCVT: 06 R149. -/
  | vcvt (k : Ctl) (src dst : Fmt) (rm : Rm) (d : BitVec 5) (m : BitVec 3) (a b : BitVec 5)
  /-- VPACK: 06 R150. -/
  | vpack (k : Ctl) (w : PWidth) (d : BitVec 5) (m : BitVec 3) (a b : BitVec 5)
  /-- VUNPACK: 06 R151. -/
  | vunpack (k : Ctl) (w : PWidth) (part : BitVec 3) (sx : Bool) (d : BitVec 5) (m : BitVec 3) (a : BitVec 5)
  /-- VLUT: 06 R152. -/
  | vlut (k : Ctl) (cb part : BitVec 3) (wide : Bool) (d : BitVec 5) (m : BitVec 3) (a : BitVec 5)
  /-- VSCALE: 06 R153. -/
  | vscale (k : Ctl) (fmt : Fmt) (d : BitVec 5) (m : BitVec 3) (a b : BitVec 5)
  /-- VREDSUM: 06 R154. -/
  | vredsum (k : Ctl) (t : VTy) (d : BitVec 5) (m : BitVec 3) (a : BitVec 5)
  /-- VREDMAX: 06 R154. -/
  | vredmax (k : Ctl) (t : VTy) (d : BitVec 5) (m : BitVec 3) (a : BitVec 5)
  /-- VREDMIN: 06 R154. -/
  | vredmin (k : Ctl) (t : VTy) (d : BitVec 5) (m : BitVec 3) (a : BitVec 5)
  /-- VSCAN: 06 R154. -/
  | vscan (k : Ctl) (t : VTy) (d : BitVec 5) (m : BitVec 3) (a : BitVec 5)
  /-- VSORT: 06 R155. -/
  | vsort (k : Ctl) (t : VTy) (desc : Bool) (d : BitVec 5) (m : BitVec 3) (a b c : BitVec 5)
  /-- VPERM: 06 R156. -/
  | vperm (k : Ctl) (d : BitVec 5) (m : BitVec 3) (a b : BitVec 5)
  /-- VBCAST: 06 R156. -/
  | vbcast (k : Ctl) (d : BitVec 5) (m : BitVec 3) (a : BitVec 5) (lane : BitVec 6)
  /-- VGET: 06 R156. -/
  | vget (k : Ctl) (d : BitVec 5) (m : BitVec 3) (a : BitVec 5) (lane : BitVec 6)
  /-- VPUT: 06 R156. -/
  | vput (k : Ctl) (d : BitVec 5) (m : BitVec 3) (a : BitVec 5) (lane : BitVec 6)
  /-- VIOTA: 06 R156. -/
  | viota (k : Ctl) (d : BitVec 5) (m : BitVec 3) (base : BitVec 12)
  /-- VRAND: 06 R158. -/
  | vrand (k : Ctl) (d : BitVec 5) (m : BitVec 3)
  /-- VMOV: 06 R156. -/
  | vmov (k : Ctl) (d : BitVec 5) (m : BitVec 3) (a : BitVec 5)
  /-- VMOVI: 06 R156. -/
  | vmovi (k : Ctl) (d : BitVec 5) (m : BitVec 3) (imm : W32)
  /-- VSPILL: 06 R159. -/
  | vspill (k : Ctl) (a id : BitVec 5)
  /-- VFILL: 06 R160. -/
  | vfill (k : Ctl) (d id : BitVec 5)
  /-- MMA: 10 R239, R244. -/
  | mma (k : Ctl) (pt : BitVec 2) (z : BitVec 4) (q : Bool) (a b c : BitVec 5) (kk : BitVec 12)
  /-- MMAZ: 10 R239, R244. -/
  | mmaz (k : Ctl) (pt : BitVec 2) (z : BitVec 4) (q : Bool) (a b c : BitVec 5) (kk : BitVec 12)
  /-- MMAP: 10 R239, R244. -/
  | mmap (k : Ctl) (pt : BitVec 2) (z : BitVec 4) (q : Bool) (a b c : BitVec 5) (kk : BitVec 12)
  /-- MRET: 10 R240. -/
  | mret (k : Ctl) (c : BitVec 5)
  /-- MDRAIN: 10 R248. -/
  | mdrain (k : Ctl) (res drop free : Bool) (d : BitVec 5) (z : BitVec 4) (r c : BitVec 5) (rate : BitVec 8)
  /-- MZERO: 10 R246. -/
  | mzero (k : Ctl) (z : BitVec 4) (c : BitVec 5)
  /-- MLDCB: 10 R247. -/
  | mldcb (k : Ctl) (pt : BitVec 2) (cba cbb : BitVec 3) (c : BitVec 5)
  /-- MSTAT: 10 R249. -/
  | mstat (k : Ctl) (nz : Bool) (g : BitVec 3) (z mask : BitVec 4) (c : BitVec 5)
  /-- MPARK: 10 R250. -/
  | mpark (k : Ctl) (id f l c : BitVec 5)
  /-- MUNPARK: 10 R250. -/
  | munpark (k : Ctl) (id f l c : BitVec 5)
  /-- STAMP_REACHED: 01 R30: at DCC = s the head MX command starts or misses. -/
  | stampReached
  /-- ARBITER_DRAW: 01 R32. -/
  | arbiterDraw (e : Engine)
  /-- QUANTUM_END: 01 R35. -/
  | quantumEnd (e : Engine)
  /-- LD: 09 R219. -/
  | ld (k : Ctl) (sz : ESize) (sx q : Bool) (d : BitVec 5) (m : BitVec 3) (a : BitVec 5) (am : AddrForm)
  /-- LDB: 09 R219. -/
  | ldb (k : Ctl) (sz : ESize) (sx q : Bool) (d : BitVec 5) (m : BitVec 3) (a : BitVec 5) (am : AddrForm)
  /-- LDG: 09 R220. -/
  | ldg (k : Ctl) (sz : ESize) (sx q : Bool) (d : BitVec 5) (m : BitVec 3) (a : BitVec 5) (buf : Bool) (b : BitVec 5) (am : AddrForm)
  /-- LDF: 09 R221. -/
  | ldf (k : Ctl) (sz : ESize) (sx q : Bool) (d : BitVec 5) (m : BitVec 3) (a : BitVec 5) (am : AddrForm)
  /-- LDS: 09 R222. -/
  | lds (k : Ctl) (sz : ESize) (sx q : Bool) (d : BitVec 5) (m : BitVec 3) (a : BitVec 5) (b : BitVec 5) (rank : BitVec 2)
  /-- MARK: 08 R197, 09 R225; onSt = the class 4 word. -/
  | mark (onSt : Bool) (lb : BitVec 4)
  /-- MARK_RETIRE: 08 R197. -/
  | markRetire
  /-- ST: 09 R219. -/
  | st (k : Ctl) (sz : ESize) (d : BitVec 5) (m : BitVec 3) (a : BitVec 5) (am : AddrForm)
  /-- STB: 09 R219. -/
  | stb (k : Ctl) (sz : ESize) (d : BitVec 5) (m : BitVec 3) (a : BitVec 5) (am : AddrForm)
  /-- STG: 09 R220. -/
  | stg (k : Ctl) (sz : ESize) (d : BitVec 5) (m : BitVec 3) (a : BitVec 5) (buf : Bool) (b : BitVec 5) (am : AddrForm)
  /-- STF: 09 R221. -/
  | stf (k : Ctl) (sz : ESize) (d : BitVec 5) (m : BitVec 3) (a : BitVec 5) (am : AddrForm)
  /-- STN4: 09 R223. -/
  | stn4 (k : Ctl) (d : BitVec 5) (m : BitVec 3) (a : BitVec 5) (buf : Bool) (am : AddrForm)
  /-- VAMO: 09 R224. -/
  | vamo (k : Ctl) (op : AmoOp) (t : ATy) (d : BitVec 5) (m : BitVec 3) (a b : BitVec 5) (c : BitVec 3) (buf : Bool) (am : AddrForm)
  /-- LOAD_DATA_HEAD: 09 R217. -/
  | loadDataHead
  /-- STORE_PERFORMED: 08 R191. -/
  | storePerformed (n : Nat) (lanes : Word)
  /-- LOAD_PERFORMED: 08 R191. -/
  | loadPerformed (n : Nat) (lanes : Word)
  /-- STORE_REPLAY: 13 R303. -/
  | storeReplay
  /-- CPY: 11 R253, R256. -/
  | cpy (k : Ctl) (dv cv sv : Bool) (d a n : BitVec 5) (id : BitVec 8) (inc : BitVec 4)
  /-- CPY2: 11 R253, R256. -/
  | cpy2 (k : Ctl) (dv cv sv : Bool) (d a n m : BitVec 5) (id : BitVec 8) (inc : BitVec 4)
  /-- CPYS: 11 R256. -/
  | cpys (k : Ctl) (sz : ESize) (d a n f : BitVec 5) (id : BitVec 8) (inc : BitVec 4)
  /-- CPYF: 11 R256. -/
  | cpyf (k : Ctl) (fs dv sv : Bool) (d a n : BitVec 5) (id : BitVec 8) (inc : BitVec 4)
  /-- FILL: 11 R256. -/
  | fill (k : Ctl) (dv : Bool) (d n v : BitVec 5) (id : BitVec 8) (inc : BitVec 4)
  /-- FILL_DISCARD: 07 R186, 11 R256. -/
  | fillDiscard (k : Ctl) (m : BitVec 5) (id : BitVec 8) (inc : BitVec 4)
  /-- COPY_UNIT: 11 R255: the next unit of the n-th journal entry. -/
  | copyUnit (n : Nat)
  /-- CP_COMPLETION: 11 R252. -/
  | cpCompletion (n : Nat)
  /-- NMAXPY: 11 R260. -/
  | nmaxpy (k : Ctl) (y x a n : BitVec 5) (id : BitVec 8) (inc : BitVec 4)
  /-- NMSCALE: 11 R260. -/
  | nmscale (k : Ctl) (y a n : BitVec 5) (id : BitVec 8) (inc : BitVec 4)
  /-- NMFADE: 11 R260. -/
  | nmfade (k : Ctl) (w g p n : BitVec 5) (id : BitVec 8) (inc : BitVec 4)
  /-- NMSUM: 11 R261. -/
  | nmsum (k : Ctl) (r x n : BitVec 5) (id : BitVec 8) (inc : BitVec 4)
  /-- NMFILL: 11 R260. -/
  | nmfill (k : Ctl) (y v n : BitVec 5) (id : BitVec 8) (inc : BitVec 4)
  /-- NMCHK: 11 R262. -/
  | nmchk (k : Ctl) (y n : BitVec 5) (id : BitVec 8) (inc : BitVec 4)
  /-- NMFENCE: 11 R263. -/
  | nmfence (k : Ctl) (id : BitVec 8) (inc : BitVec 4)
  /-- NM_COMMAND: 12 R292: the n-th piece on the stack links reaches its base die. -/
  | nmCommand (n : Nat)
  /-- NMSUM_PARTIAL_COMBINE: 11 R261. -/
  | nmsumPartialCombine (n : Nat)
  /-- NM_STATUS: 12 R291. -/
  | nmStatus (n : Nat)
  /-- TASK_ENTRY: 16 R351. -/
  | taskEntry (die : BitVec 3)
  /-- PREDECESSOR_FINISH: 16 R353. -/
  | predecessorFinish (die : BitVec 3) (n : BitVec 11)
  /-- TEAM_PLACEMENT: 01 R21, 16 R354, R363. -/
  | teamPlacement (die : BitVec 3)
  /-- STARVATION_EXPIRY: 16 R364. -/
  | starvationExpiry (die : BitVec 3)
  /-- PREEMPT_REQUEST: 20 R412. -/
  | preemptRequest (team : Nat)
  /-- PREEMPTION_CUT: 20 R412. -/
  | preemptionCut
  /-- ITER_OVERRUN: 20 R413. -/
  | iterOverrun
  /-- TEAM_SWAP_OUT: 20 R415. -/
  | teamSwapOut (team : Nat)
  /-- TEAM_SWAP_IN: 20 R415. -/
  | teamSwapIn (team : Nat)
  /-- JOB_END: 05 R136. -/
  | jobEnd
  /-- TASK_RECLAIM: 19 R399. -/
  | taskReclaim
  /-- TRAP_ENTRY: 20 R406. -/
  | trapEntry
  /-- CONTEXT_SWITCH: 20 R418: saves the slot and restores the one saved at CSA address incoming. -/
  | contextSwitch (incoming : Word)
  /-- QUEUE_SWAP_OUT: 13 R310: room is wanted for a queue of the tenant. -/
  | queueSwapOut (die : BitVec 3) (tenant : BitVec 8)
  /-- QUEUE_SWAP_IN: 13 R310. -/
  | queueSwapIn (die : BitVec 3)
  /-- SEASON_IDLE_EXPIRY: 07 R185. -/
  | seasonIdleExpiry (u : SeasonUnit)
  /-- WAKE_COMPLETE: 07 R185. -/
  | wakeComplete (u : SeasonUnit)
  /-- HOLD_EXPIRY: 07 R187. -/
  | holdExpiry
  /-- HOST_KICK: 13 R311, 21 R430. -/
  | hostKick (fn : Fn) (q : BitVec 4) (tail : W32)
  /-- CQHEAD_WRITE: 21 R432. -/
  | cqheadWrite (fn : Fn) (q : BitVec 4) (head : W32)
  /-- STOPPED_CLEAR: 21 R430. -/
  | stoppedClear (fn : Fn) (q : BitVec 4)
  /-- INVOKE: 21 R435: the front end takes the queue's next command. -/
  | invoke (fn : Fn) (q : BitVec 4)
  /-- MODEL_LOAD: 21 R433; accept = the plug-in's decision. -/
  | modelLoad (fn : Fn) (q : BitVec 4) (accept : Bool)
  /-- MODEL_UNLOAD: 21 R433. -/
  | modelUnload (fn : Fn) (q : BitVec 4)
  /-- COMPLETION_ENTRY_WRITE: 21 R432. -/
  | completionEntryWrite (fn : Fn) (q : BitVec 4)
  /-- HOST_WIN_MEM_ACCESS: 21 R424. -/
  | hostWinMemAccess (fn : Fn) (va : Word) (len : BitVec 4) (write : Bool) (data : Word)
  /-- SEMAPHORE_REQUEST: 21 R426: the ports whose REQ = 1 writes arrive in this cycle. -/
  | semaphoreRequest (portA portB : Bool) (n : BitVec 6)
  /-- SEMAPHORE_RELEASE: 21 R426. -/
  | semaphoreRelease (portB : Bool) (n : BitVec 6)
  /-- RESET: 23 R459. -/
  | reset (portB : Bool)
  /-- FWUPD: 21 R439; verifies = the signature check's outcome. -/
  | fwupd (portB : Bool) (verifies : Bool)
  /-- POWER_LIMIT_WRITE: 23 R457, R459. -/
  | powerLimitWrite (portB : Bool) (v : BitVec 16)
  /-- EVT_DATA_WRITE: 23 R459. -/
  | evtDataWrite (v : BitVec 48)
  /-- REGISTER_WRITE: 00 R5, 23 R459. -/
  | registerWrite (reg : MgmtReg) (v : W32)
  /-- PORT_LINK_DOWN: 21 R425. -/
  | portLinkDown (portB : Bool)
  /-- LOCK_INTERFACE_REQUEST: 21 R436. -/
  | lockInterfaceRequest (vf : BitVec 9)
  /-- START_INTERFACE_REQUEST: 21 R436. -/
  | startInterfaceRequest (vf : BitVec 9) (nonce : BitVec 256)
  /-- STOP_INTERFACE_REQUEST: 21 R437. -/
  | stopInterfaceRequest (vf : BitVec 9)
  /-- GET_DEVICE_INTERFACE_REPORT: 21 R438. -/
  | getDeviceInterfaceReport (vf : BitVec 9) (nonce : BitVec 256)
  /-- TDISP_ERROR_EVENT: 21 R436, R437. -/
  | tdispErrorEvent (vf : BitVec 9) (cause : TdispCause)
  /-- GET_VERSION: 21 R440. -/
  | getVersion (portB : Bool)
  /-- GET_CAPABILITIES: 21 R440. -/
  | getCapabilities (portB : Bool)
  /-- NEGOTIATE_ALGORITHMS: 21 R440. -/
  | negotiateAlgorithms (portB : Bool)
  /-- GET_DIGESTS: 21 R440. -/
  | getDigests (portB : Bool)
  /-- GET_CERTIFICATE: 21 R440. -/
  | getCertificate (portB : Bool)
  /-- CHALLENGE: 21 R440. -/
  | challenge (portB : Bool)
  /-- GET_MEASUREMENTS: 21 R440. -/
  | getMeasurements (portB : Bool) (index : BitVec 8)
  /-- KEY_EXCHANGE: 21 R440. -/
  | keyExchange (portB : Bool)
  /-- FINISH: 21 R440. -/
  | finish (portB : Bool) (verifies : Bool)
  /-- PACKAGE_RESET: 23 R458; failStep = the step that fails, 0 for none. -/
  | packageReset (failStep : BitVec 4)
  /-- QUEUE_RESET: 20 R420. -/
  | queueReset (fn : Fn) (q : BitVec 4)
  /-- QUEUE_RESET_COMPLETE: 20 R420. -/
  | queueResetComplete (fn : Fn) (q : BitVec 4)
  /-- VF_TEARDOWN: 20 R421. -/
  | vfTeardown (vf : BitVec 9)
  /-- TEARDOWN_CIRCUITS_COMPLETE: 20 R421. -/
  | teardownCircuitsComplete (vf : BitVec 9)
  /-- POWER_WINDOW: 23 R457: the window's average power. -/
  | powerWindow (watts : BitVec 16)
  /-- SCRUB: 23 R454: the sector or word that holds memory key. -/
  | scrub (key : Nat) (found : ScrubFind)
  /-- CHANNEL_RETRAIN: 12 R276. -/
  | channelRetrain (stack : BitVec 4) (chan : BitVec 5) (temp : BitVec 8) (trains : Bool)
  /-- LOCKSTEP_MISMATCH: 23 R456. -/
  | lockstepMismatch (die : BitVec 3)
  /-- PLUGIN_TIMEOUT: 21 R428. -/
  | pluginTimeout (fn : Fn) (q : BitVec 4)
  /-- READ64: 12 R291. -/
  | read64 (h : LinkHdr)
  /-- WRITE64: 12 R271. -/
  | write64 (h : LinkHdr) (mask : Word) (data : BitVec 512)
  /-- DATA64: 12 R291: the oldest read response returns. -/
  | data64 (stack : BitVec 4)
  /-- WACK: 12 R291. -/
  | wack (stack : BitVec 4)
  /-- SEASON_MAP_UPDATE: 12 R283, R291: the oldest map update on the link arrives. -/
  | seasonMapUpdate (stack : BitVec 4)
  /-- POISON_REPORT: 12 R278. -/
  | poisonReport (stack : BitVec 4)
  /-- CAPACITY_REQUEST: 12 R293. -/
  | capacityRequest (stack : BitVec 4)
  /-- CAPACITY_REPORT: 12 R294. -/
  | capacityReport (stack : BitVec 4) (r : CapReport)
  /-- ALERT: 12 R273, R274: oldest = history index of the failing command, parityAgain = how often its reissue fails. -/
  | alert (stack : BitVec 4) (pc : BitVec 6) (oldest : BitVec 5) (parityAgain : BitVec 3)
  /-- FLIT_CRC_FAIL: 12 R288. -/
  | flitCrcFail (stack : BitVec 4)
  /-- INTEGRITY_TAG_FAILURE: 12 R289. -/
  | integrityTagFailure (stack : BitVec 4)
  /-- STACK_RING_LINK_DOWN: 12 R285: the link from HS-stack to the next. -/
  | stackRingLinkDown (stack : BitVec 4)
  /-- PACKAGE_RING_LINK_DOWN: 01 R10. -/
  | packageRingLinkDown (die : BitVec 3) (ccw : Bool)
  /-- ZOZAN_PORT_FAILURE: 22 R442. -/
  | zozanPortFailure (station : BitVec 2) (port : BitVec 4)
  /-- SLOT_WRITE: 22 R449, R446, R451. -/
  | slotWrite (station : BitVec 2) (h : SlotHdr) (data : Beat)
  /-- SLOT_READ: 22 R449, R451. -/
  | slotRead (station : BitVec 2) (h : SlotHdr)
  /-- SLOT_ENQR: 14 R320, 22 R451. -/
  | slotEnqr (station : BitVec 2) (h : SlotHdr) (handle : W32) (data : Word)
  /-- SLOT_DATA: 22 R447. -/
  | slotData (station : BitVec 2) (h : SlotHdr) (data : BitVec 512) (poison : BitVec 2)
  /-- SLOT_WACK: 22 R447. -/
  | slotWack (station : BitVec 2) (h : SlotHdr)
  /-- SLOT_OUTCOME: 14 R320. -/
  | slotOutcome (station : BitVec 2) (h : SlotHdr) (o : EnqrOutcome)
  /-- SLOT_FAULT: 22 R447. -/
  | slotFault (station : BitVec 2) (h : SlotHdr) (code : BitVec 16)
  /-- SLOT_GONE: 22 R451. -/
  | slotGone (station : BitVec 2) (h : SlotHdr)
  /-- SLOT_DRAIN: 22 R452. -/
  | slotDrain (station : BitVec 2) (h : SlotHdr)
  /-- SLOT_ALLOW: 22 R450. -/
  | slotAllow (station : BitVec 2) (h : SlotHdr)
  /-- SLOT_REINJECT: 22 R449. -/
  | slotReinject (station : BitVec 2)
  /-- SLOT_CRC_REPLAY: 22 R448. -/
  | slotCrcReplay (station : BitVec 2) (port : BitVec 4) (seq : BitVec 16)
  /-- RESERVED_ENCODING: 03 R90, 05 R112. -/
  | reservedEncoding (word : W32)
  /-- FETCH_FAULT: 05 R127. -/
  | fetchFault (code : BitVec 16) (addr : Word)
  /-- VF_ENABLE: 21 R423. -/
  | vfEnable (portB : Bool)
  /-- PORT_LINK_UP: 21 R423. -/
  | portLinkUp (portB : Bool) (tenant : BitVec 8)
  /-- HOST_QUEUE_CREATE: 21 R429. -/
  | hostQueueCreate (fn : Fn) (q : BitVec 4) (byPf : Bool) (rec : BitVec 128)
  /-- RACK_RING_LINK_DOWN: 22 R442. -/
  | rackRingLinkDown (station : BitVec 2) (ccw : Bool)
  /-- STACK_LINK_PROTOCOL_ERROR: 12 R290. -/
  | stackLinkProtocolError (stack : BitVec 4)
  /-- SLOT_PROTOCOL_ERROR: 22 R444. -/
  | slotProtocolError (station : BitVec 2) (port : BitVec 4)
  /-- SPARE_TILE_TAKEOVER: 23 R455. -/
  | spareTileTakeover (die : BitVec 3) (tile : BitVec 6) (spare : Bool)
deriving DecidableEq, Repr

end Sys2Proof
end

