-- ==== Sys2Proof/Decode.lean ====
section
/-! DEFINITION. The decoder of instruction words (03 R66 to R75), of amended engine words (03 R78 to R88, R90 check 4) and
the encoder, both written from the same encoding tables. Decoding is total and rejects by name. -/
namespace Sys2Proof

/-- Why a word is rejected (03 R69, R70, R72, R90). -/
inductive DecErr where
  /-- an opcode, function, type or select value that no row lists -/
  | reserved
  /-- a non-zero bit in a field the instruction does not use -/
  | unusedField
  /-- a field holds a value the instruction reserves -/
  | reservedValue
  /-- the extension words of a long form are missing -/
  | needsExtension
deriving DecidableEq, Repr

abbrev Dec := Except DecErr

/-- Reject by name unless the condition holds. -/
def need (c : Bool) (e : DecErr) : Dec Unit := if c then .ok () else .error e

/-! ### Fields of the 32-bit formats (03 R68, R70, R72, R74) -/

/-- Format RRR (03 R68). -/
structure Rrr where
  cls : BitVec 3
  op : BitVec 7
  d : BitVec 5
  a : BitVec 5
  b : BitVec 5
  fn : BitVec 7
deriving DecidableEq, Repr

def Rrr.split (w : W32) : Rrr :=
  ⟨w.extractLsb' 29 3, w.extractLsb' 22 7, w.extractLsb' 17 5, w.extractLsb' 12 5, w.extractLsb' 7 5, w.extractLsb' 0 7⟩

def Rrr.join (f : Rrr) : W32 := f.cls ++ f.op ++ f.d ++ f.a ++ f.b ++ f.fn

/-- Formats I and M (03 R68). -/
def joinI (op : BitVec 7) (d a : BitVec 5) (imm : BitVec 12) : W32 := (0#3) ++ op ++ d ++ a ++ imm
def immOf (w : W32) : BitVec 12 := w.extractLsb' 0 12

/-- Format U: 28:24 opcode, 23:22 imm<18:17>, d, imm<16:0> (03 R68). -/
def joinU (op : BitVec 5) (d : BitVec 5) (imm : BitVec 19) : W32 :=
  (0#3) ++ op ++ imm.extractLsb' 17 2 ++ d ++ imm.extractLsb' 0 17
def immU (w : W32) : BitVec 19 := w.extractLsb' 22 2 ++ w.extractLsb' 0 17

/-- Format B: predicate and signed word offset (03 R68). -/
def joinB (op : BitVec 7) (p : BitVec 3) (off : BitVec 19) : W32 := (0#3) ++ op ++ p ++ off
def predB (w : W32) : BitVec 3 := w.extractLsb' 19 3
def offB (w : W32) : BitVec 19 := w.extractLsb' 0 19

/-- Format SYS: register, 12-bit name, sub-function (03 R68). -/
def joinSys (op : BitVec 7) (r : BitVec 5) (name : BitVec 12) (sub : BitVec 5) : W32 := (0#3) ++ op ++ r ++ name ++ sub
def nameSys (w : W32) : BitVec 12 := w.extractLsb' 5 12
def subSys (w : W32) : BitVec 5 := w.extractLsb' 0 5

/-- Class 6 (03 R70). -/
structure Sy6 where
  op : BitVec 6
  a : BitVec 5
  b : BitVec 5
  d : BitVec 5
  imm : BitVec 8
deriving DecidableEq, Repr

def Sy6.split (w : W32) : Sy6 :=
  ⟨w.extractLsb' 23 6, w.extractLsb' 18 5, w.extractLsb' 13 5, w.extractLsb' 8 5, w.extractLsb' 0 8⟩

def Sy6.join (f : Sy6) : W32 := (6#3) ++ f.op ++ f.a ++ f.b ++ f.d ++ f.imm

/-- The 80-bit engine word (03 R78). -/
structure EWord where
  op : BitVec 10
  pd : BitVec 4
  ta : BitVec 5
  tc0 : BitVec 5
  tc1 : BitVec 5
  lb : BitVec 4
  guard : BitVec 3
  d : BitVec 8
  a : BitVec 8
  b : BitVec 8
  c : BitVec 8
  m : BitVec 12
deriving DecidableEq, Repr

def EWord.split (w : BitVec 80) : EWord :=
  { op := w.extractLsb' 70 10, pd := w.extractLsb' 66 4, ta := w.extractLsb' 61 5, tc0 := w.extractLsb' 56 5,
    tc1 := w.extractLsb' 51 5, lb := w.extractLsb' 47 4, guard := w.extractLsb' 44 3, d := w.extractLsb' 36 8,
    a := w.extractLsb' 28 8, b := w.extractLsb' 20 8, c := w.extractLsb' 12 8, m := w.extractLsb' 0 12 }

def EWord.join (f : EWord) : BitVec 80 :=
  f.op ++ f.pd ++ f.ta ++ f.tc0 ++ f.tc1 ++ f.lb ++ f.guard ++ f.d ++ f.a ++ f.b ++ f.c ++ f.m

/-! ### Small field codes -/

def lo5 (x : BitVec 8) : BitVec 5 := x.extractLsb' 0 5
def lo4 (x : BitVec 8) : BitVec 4 := x.extractLsb' 0 4
def lo3 (x : BitVec 8) : BitVec 3 := x.extractLsb' 0 3
def hi3 (x : BitVec 8) : BitVec 3 := x.extractLsb' 5 3
def byte5 (x : BitVec 5) : BitVec 8 := x.setWidth 8
def byte3 (x : BitVec 3) : BitVec 8 := x.setWidth 8
def boolOf {n : Nat} (x : BitVec n) (i : Nat) : Bool := x.getLsbD i
def bit1 (b : Bool) : BitVec 1 := BitVec.ofBool b

/-- An operand byte that names one register: bits 7:5 zero (03 R79). -/
def reg5 (x : BitVec 8) : Dec (BitVec 5) := if hi3 x = 0#3 then .ok (lo5 x) else .error .unusedField

/-- An operand byte that names one of eight registers: bits 7:3 zero (06 R139). -/
def reg3 (x : BitVec 8) : Dec (BitVec 3) := if x.extractLsb' 3 5 = 0#5 then .ok (lo3 x) else .error .unusedField

def Cc.ofCode : Nat → Option Cc
  | 0 => some .eq | 1 => some .ne | 2 => some .lt | 3 => some .ltn | 4 => some .le
  | 5 => some .len | 6 => some .gt | 7 => some .gtn | 8 => some .ge | 9 => some .gen | _ => none

def Cc.code : Cc → Nat
  | .eq => 0 | .ne => 1 | .lt => 2 | .ltn => 3 | .le => 4 | .len => 5 | .gt => 6 | .gtn => 7 | .ge => 8 | .gen => 9

def VCc.ofCode : Nat → Option VCc
  | 0 => some .eq | 1 => some .ne | 2 => some .lt | 4 => some .le | 6 => some .gt | 8 => some .ge | 10 => some .un | _ => none

def VCc.code : VCc → Nat
  | .eq => 0 | .ne => 1 | .lt => 2 | .le => 4 | .gt => 6 | .ge => 8 | .un => 10

def CSize.ofCode : Nat → Option CSize
  | 0 => some .b | 1 => some .h | 2 => some .w | 3 => some .d | 4 => some .bn | 5 => some .hn | 6 => some .wn | _ => none

def CSize.code : CSize → Nat
  | .b => 0 | .h => 1 | .w => 2 | .d => 3 | .bn => 4 | .hn => 5 | .wn => 6

/-- The sizes that STC takes (03 R72). -/
def CSize.forStore : CSize → Bool
  | .b | .h | .w | .d => true
  | .bn | .hn | .wn => false

def AmoOp.ofCode : Nat → Option AmoOp
  | 0 => some .add | 1 => some .swap | 2 => some .cas | 3 => some .min | 4 => some .max | 5 => some .and | 6 => some .or
  | 7 => some .xor | _ => none

def AmoOp.code : AmoOp → Nat
  | .add => 0 | .swap => 1 | .cas => 2 | .min => 3 | .max => 4 | .and => 5 | .or => 6 | .xor => 7

def Scope.ofCode : Nat → Option Scope
  | 0 => some .t | 1 => some .d | 2 => some .p | 3 => some .f | _ => none

def Scope.code : Scope → Nat
  | .t => 0 | .d => 1 | .p => 2 | .f => 3

def FenceKind.ofCode : Nat → Option FenceKind
  | 0 => some .ls | 1 => some .rel | 2 => some .acq | 3 => some .sc | 4 => some .nm | _ => none

def FenceKind.code : FenceKind → Nat
  | .ls => 0 | .rel => 1 | .acq => 2 | .sc => 3 | .nm => 4

def VTy.ofCode : Nat → Option VTy
  | 0 => some .f32 | 1 => some .f16 | 2 => some .bf16 | 3 => some .i32 | 4 => some .n32 | _ => none

def VTy.code : VTy → Nat
  | .f32 => 0 | .f16 => 1 | .bf16 => 2 | .i32 => 3 | .n32 => 4

/-- The floating-point types (03 R87). -/
def VTy.isFp : VTy → Bool
  | .f32 | .f16 | .bf16 => true
  | .i32 | .n32 => false

def Rm.ofCode : Nat → Option Rm
  | 0 => some .rne | 1 => some .rtz | 2 => some .rup | 3 => some .rdn | 4 => some .sr | _ => none

def Rm.code : Rm → Nat
  | .rne => 0 | .rtz => 1 | .rup => 2 | .rdn => 3 | .sr => 4

def Fmt.ofCode : Nat → Option Fmt
  | 0 => some .i8 | 1 => some .i16 | 2 => some .i32 | 3 => some .i64 | 4 => some .n8 | 5 => some .n16 | 6 => some .n32
  | 7 => some .n64 | 8 => some .fp32 | 9 => some .fp16 | 10 => some .bf16 | 11 => some .e4m3 | 12 => some .e5m2
  | 13 => some .c4 | _ => none

def Fmt.code : Fmt → Nat
  | .i8 => 0 | .i16 => 1 | .i32 => 2 | .i64 => 3 | .n8 => 4 | .n16 => 5 | .n32 => 6 | .n64 => 7 | .fp32 => 8 | .fp16 => 9
  | .bf16 => 10 | .e4m3 => 11 | .e5m2 => 12 | .c4 => 13

def ESize.ofCode : Nat → Option ESize
  | 0 => some .w | 1 => some .h | 2 => some .b | _ => none

def ESize.code : ESize → Nat
  | .w => 0 | .h => 1 | .b => 2

def PWidth.ofCode : Nat → Option PWidth
  | 0 => some .w16 | 1 => some .w8 | 2 => some .w4 | _ => none

def PWidth.code : PWidth → Nat
  | .w16 => 0 | .w8 => 1 | .w4 => 2

def ATy.ofCode : Nat → Option ATy
  | 0 => some .f32 | 3 => some .i32 | 4 => some .n32 | _ => none

def ATy.code : ATy → Nat
  | .f32 => 0 | .i32 => 3 | .n32 => 4

def TlbiScope.ofCode : Nat → Option TlbiScope
  | 0 => some .buf | 1 => some .ctx | 2 => some .vf | 3 => some .all | _ => none

def TlbiScope.code : TlbiScope → Nat
  | .buf => 0 | .ctx => 1 | .vf => 2 | .all => 3

def YKind.ofCode : Nat → Option YKind
  | 0 => some .future | 1 => some .data | 2 => some .room | 3 => some .counter | _ => none

def YKind.code : YKind → Nat
  | .future => 0 | .data => 1 | .room => 2 | .counter => 3

/-- A code that a row lists, or a rejection by name. -/
def listed {α : Type} (o : Option α) : Dec α :=
  match o with
  | some x => .ok x
  | none => .error .reservedValue

/-- The VAMO opcodes that 03 R88 admits. -/
def vamoAdmits : AmoOp → ATy → Bool
  | .add, .f32 | .add, .i32 => true
  | .swap, .i32 | .cas, .i32 | .and, .i32 | .or, .i32 | .xor, .i32 => true
  | .min, .i32 | .min, .n32 | .max, .i32 | .max, .n32 => true
  | _, _ => false

/-- The parts of a VUNPACK width (06 R151). -/
def PWidth.parts : PWidth → Nat
  | .w16 => 2 | .w8 => 4 | .w4 => 8

/-! ### Class 0 (03 R69) -/

/-- Opcode 0x01: the three-register and unary integer forms. -/
def decodeInt (f : Rrr) : Dec Instr :=
  let d := f.d; let a := f.a; let b := f.b
  match f.fn.toNat with
  | 0x00 => .ok (.add d a b) | 0x01 => .ok (.sub d a b) | 0x02 => .ok (.mul d a b) | 0x03 => .ok (.mulh d a b)
  | 0x04 => .ok (.mulhn d a b) | 0x05 => .ok (.div d a b) | 0x06 => .ok (.divn d a b) | 0x07 => .ok (.rem d a b)
  | 0x08 => .ok (.remn d a b) | 0x09 => .ok (.and d a b) | 0x0A => .ok (.or d a b) | 0x0B => .ok (.xor d a b)
  | 0x0C => .ok (.shl d a b) | 0x0D => .ok (.shr d a b) | 0x0E => .ok (.sha d a b) | 0x0F => .ok (.min d a b)
  | 0x10 => .ok (.max d a b) | 0x11 => .ok (.minn d a b) | 0x12 => .ok (.maxn d a b)
  | 0x20 => if b = 0#5 then .ok (.clz d a) else .error .unusedField
  | 0x21 => if b = 0#5 then .ok (.ctz d a) else .error .unusedField
  | 0x22 => if b = 0#5 then .ok (.popc d a) else .error .unusedField
  | 0x23 => if b = 0#5 then .ok (.bswap d a) else .error .unusedField
  | _ => .error .reserved

/-- Opcode 0x04: predicate logic; bits 4:3 of d, a and b unused. -/
def decodePred (f : Rrr) : Dec Instr :=
  if f.d.extractLsb' 3 2 ≠ 0#2 ∨ f.a.extractLsb' 3 2 ≠ 0#2 ∨ f.b.extractLsb' 3 2 ≠ 0#2 then .error .unusedField
  else
    let d := f.d.extractLsb' 0 3; let a := f.a.extractLsb' 0 3; let b := f.b.extractLsb' 0 3
    match f.fn.toNat with
    | 0 => .ok (.pand d a b) | 1 => .ok (.por d a b) | 2 => .ok (.pxor d a b)
    | 3 => if b = 0#3 then .ok (.pnot d a) else .error .unusedField
    | _ => .error .reserved

/-- Opcode 0x05: buffer addresses (05 R122). -/
def decodeBuf (f : Rrr) : Dec Instr :=
  match f.fn.toNat with
  | 0 => .ok (.bufa f.d f.a f.b)
  | 1 => if f.b = 0#5 then .ok (.bufx f.d f.a) else .error .unusedField
  | 2 => if f.b = 0#5 then .ok (.bufo f.d f.a) else .error .unusedField
  | _ => .error .reserved

/-- A shift-immediate form: imm12<11:6> zero (05 R116). -/
def shiftImm (w : W32) (mk : BitVec 6 → Instr) : Dec Instr :=
  if w.extractLsb' 6 6 = 0#6 then .ok (mk (w.extractLsb' 0 6)) else .error .reservedValue

/-- CMPI: d names P0 to P7 (03 R69). -/
def decodeCmpi (w : W32) (cc : Cc) : Dec Instr :=
  let f := Rrr.split w
  if f.d.extractLsb' 3 2 = 0#2 then .ok (.cmpi cc (f.d.extractLsb' 0 3) f.a (immOf w)) else .error .unusedField

/-- The table instructions, opcodes 0x60 to 0x69 (17 R367). -/
def decodeTable (op : Nat) (f : Rrr) : Dec Instr :=
  let fn := f.fn.toNat
  match op with
  | 0x60 => if fn < 0x18 then .ok (.tbw f.d f.a f.b f.fn) else .error .reserved
  | 0x61 => if fn < 0x18 then .ok (.tbr f.d f.a f.b f.fn) else .error .reserved
  | 0x62 =>
    if f.d ≠ 0#5 ∨ f.b ≠ 0#5 then .error .unusedField
    else match TlbiScope.ofCode fn with
      | some .all => if f.a = 0#5 then .ok (.tlbi .all f.a) else .error .unusedField
      | some s => .ok (.tlbi s f.a)
      | none => .error .reserved
  | 0x63 => if fn = 6 then .ok (.shardw f.d f.a f.b false) else if fn = 7 then .ok (.shardw f.d f.a f.b true) else .error .reserved
  | 0x64 => if fn = 0 then .ok (.shardr f.d f.a f.b) else .error .reserved
  | 0x65 => if fn = 0x11 then .ok (.curw f.d f.a f.b) else .error .reserved
  | 0x66 => if fn = 0x10 then .ok (.ctxw f.d f.a f.b false) else if fn = 0x16 then .ok (.ctxw f.d f.a f.b true) else .error .reserved
  | 0x67 => if fn = 4 then .ok (.fmmuw f.d f.a f.b false) else if fn = 5 then .ok (.fmmuw f.d f.a f.b true) else .error .reserved
  | 0x68 => if fn = 8 then .ok (.keyw f.d f.a f.b) else .error .reserved
  | 0x69 => if fn = 9 then .ok (.protw f.d f.a f.b) else .error .reserved
  | _ => .error .reserved

/-- A word of class 0 (03 R69). -/
def decode0 (w : W32) : Dec Instr :=
  let f := Rrr.split w
  let imm := immOf w
  match f.op.toNat with
  | 0x01 => decodeInt f
  | 0x02 => if f.fn.extractLsb' 3 4 = 0#4 then .ok (.sel (f.fn.extractLsb' 0 3) f.d f.a f.b) else .error .unusedField
  | 0x03 =>
    if f.d.extractLsb' 3 2 ≠ 0#2 ∨ f.fn.extractLsb' 4 3 ≠ 0#3 then .error .unusedField
    else match Cc.ofCode (f.fn.extractLsb' 0 4).toNat with
      | some cc => .ok (.cmp cc (f.d.extractLsb' 0 3) f.a f.b)
      | none => .error .reserved
  | 0x04 => decodePred f
  | 0x05 => decodeBuf f
  | 0x08 => .ok (.addi f.d f.a imm) | 0x09 => .ok (.andi f.d f.a imm)
  | 0x0A => .ok (.ori f.d f.a imm) | 0x0B => .ok (.xori f.d f.a imm)
  | 0x0C => shiftImm w (.shli f.d f.a) | 0x0D => shiftImm w (.shri f.d f.a) | 0x0E => shiftImm w (.shai f.d f.a)
  | 0x10 => decodeCmpi w .eq | 0x11 => decodeCmpi w .ne | 0x12 => decodeCmpi w .lt | 0x13 => decodeCmpi w .ltn
  | 0x14 => decodeCmpi w .le | 0x15 => decodeCmpi w .len | 0x16 => decodeCmpi w .gt | 0x17 => decodeCmpi w .gtn
  | 0x18 => decodeCmpi w .ge | 0x19 => decodeCmpi w .gen
  | 0x20 | 0x21 | 0x22 | 0x23 => .ok (.lui f.d (immU w))
  | 0x24 | 0x25 | 0x26 | 0x27 => .ok (.jal f.d (immU w))
  | 0x28 => if predB w = 0#3 then .ok (.j (offB w)) else .error .unusedField
  | 0x29 => .ok (.br (predB w) (offB w))
  | 0x2A => .ok (.jalr f.d f.a imm)
  | 0x30 => .ok (.movx f.d f.a imm)
  | 0x31 => if f.b = 0#5 ∧ f.fn = 0#7 then .ok (.movxs f.d f.a) else .error .unusedField
  | 0x38 => .ok (.ldc .b f.d f.a imm) | 0x39 => .ok (.ldc .h f.d f.a imm) | 0x3A => .ok (.ldc .w f.d f.a imm)
  | 0x3B => .ok (.ldc .d f.d f.a imm) | 0x3C => .ok (.ldc .bn f.d f.a imm) | 0x3D => .ok (.ldc .hn f.d f.a imm)
  | 0x3E => .ok (.ldc .wn f.d f.a imm)
  | 0x40 => .ok (.stc .b f.d f.a imm) | 0x41 => .ok (.stc .h f.d f.a imm) | 0x42 => .ok (.stc .w f.d f.a imm)
  | 0x43 => .ok (.stc .d f.d f.a imm)
  | 0x44 =>
    if boolOf f.fn 6 then .error .unusedField
    else do
      let op ← listed (AmoOp.ofCode (f.fn.extractLsb' 0 3).toNat)
      let sc ← listed (Scope.ofCode (f.fn.extractLsb' 4 2).toNat)
      .ok (.amo op (boolOf f.fn 3) sc f.d f.a f.b)
  | 0x48 =>
    if w.extractLsb' 7 15 ≠ 0#15 ∨ w.extractLsb' 3 2 ≠ 0#2 then .error .unusedField
    else do
      let k ← listed (FenceKind.ofCode (w.extractLsb' 0 3).toNat)
      let sc ← listed (Scope.ofCode (w.extractLsb' 5 2).toNat)
      .ok (.fence k sc)
  | 0x50 => if w.extractLsb' 1 21 = 0#21 then .ok (.region (boolOf w 0)) else .error .unusedField
  | 0x58 => .ok (.sysr f.d (nameSys w) (subSys w))
  | 0x59 => .ok (.sysw f.d (nameSys w) (subSys w))
  | 0x5A => if f.d = 0#5 ∧ subSys w = 0#5 then .ok (.trap (nameSys w)) else .error .unusedField
  | 0x5B => if w.extractLsb' 0 22 = 0#22 then .ok .eret else .error .unusedField
  | 0x5C => if w.extractLsb' 0 22 = 0#22 then .ok .yieldQ else .error .unusedField
  | 0x5D => if w.extractLsb' 0 22 = 0#22 then .ok .endj else .error .unusedField
  | 0x5F => if w.extractLsb' 0 22 = 0#22 then .ok .nop else .error .unusedField
  | 0x60 | 0x61 | 0x62 | 0x63 | 0x64 | 0x65 | 0x66 | 0x67 | 0x68 | 0x69 => decodeTable f.op.toNat f
  | _ => .error .reserved

/-! ### Class 6 (03 R70, R71; 14 R315; 19 R392) -/

/-- A destination P register in bits 10:8: bits 12:11 zero (03 R70). -/
def pDest (d : BitVec 5) : Dec (BitVec 3) :=
  if d.extractLsb' 3 2 = 0#2 then .ok (d.extractLsb' 0 3) else .error .unusedField

/-- A word of class 6. -/
def decode6 (w : W32) : Dec Instr := do
  let f := Sy6.split w
  let z := fun (c : Bool) => need c .unusedField
  match f.op.toNat with
  | 0x01 => do let d ← pDest f.d; z (f.imm &&& 0xF7#8 == 0#8); .ok (.enq d f.a f.b (boolOf f.imm 3))
  | 0x02 => do z (f.imm.extractLsb' 4 4 == 0#4 && (boolOf f.imm 3 || f.b == 0#5)); .ok (.deq f.d f.a f.b (boolOf f.imm 3) (lo3 f.imm))
  | 0x03 => do z (f.imm.extractLsb' 4 4 == 0#4 && (boolOf f.imm 3 || f.b == 0#5)); .ok (.peek f.d f.a f.b (boolOf f.imm 3) (lo3 f.imm))
  | 0x04 => do let d ← pDest f.d; z (f.imm.extractLsb' 4 4 == 0#4); .ok (.enqr d f.a f.b (lo4 f.imm))
  | 0x05 => do z (f.b == 0#5 && f.imm == 0#8); .ok (.qstat f.d f.a)
  | 0x06 => do
    z (f.a == 0#5 && f.b == 0#5 && f.d == 0#5 && !boolOf f.imm 0)
    .ok (.tokp (hi3 f.imm) (f.imm.extractLsb' 2 3) (boolOf f.imm 1))
  | 0x07 => do z (f.a == 0#5 && f.b == 0#5 && f.d == 0#5 && f.imm == 0#8); .ok .rndv
  | 0x08 => do
    z (f.b == 0#5 && f.d == 0#5 && f.imm.extractLsb' 1 7 == 0#7)
    if boolOf f.imm 0 then do z (f.a == 0#5); .ok .syncW else .ok (.sync f.a)
  | 0x09 => do z (f.b == 0#5 && f.d == 0#5 && f.imm == 0#8); .ok (.arrive f.a)
  | 0x0A => do let d ← pDest f.d; z (f.b == 0#5); .ok (.waitc d f.a f.imm)
  | 0x10 => do z (f.b == 0#5 && f.imm == 0#8); .ok (.spawn f.d f.a)
  | 0x11 => do let d ← pDest f.d; z (f.b == 0#5 && f.imm == 0#8); .ok (.refF d f.a)
  | 0x12 => do let d ← pDest f.d; z (f.b == 0#5 && f.imm == 0#8); .ok (.dropF d f.a)
  | 0x13 => do let d ← pDest f.d; z (f.b == 0#5 && f.imm == 0#8); .ok (.await d f.a)
  | 0x14 => do let d ← pDest f.d; z (f.b == 0#5 && f.imm == 0#8); .ok (.awaitl d f.a)
  | 0x15 => do z (f.a == 0#5 && f.b == 0#5 && f.d == 0#5 && f.imm == 0#8); .ok .rpoint
  | 0x16 => do
    z (f.d == 0#5 && f.imm.extractLsb' 2 6 == 0#6)
    let k ← listed (YKind.ofCode (f.imm.extractLsb' 0 2).toNat)
    .ok (.yieldl k f.a f.b)
  | 0x18 => do z (f.imm == 0#8); .ok (.tktset f.d f.a f.b)
  | 0x19 => do z (f.b == 0#5 && f.imm.extractLsb' 3 5 == 0#5); .ok (.tktget f.d f.a (lo3 f.imm))
  | 0x1A => do z (f.b == 0#5 && f.imm == 0#8); .ok (.draw f.d f.a)
  | 0x1C => do z (f.d == 0#5 && f.imm == 0#8); .ok (.ctrset f.a f.b)
  | 0x1D => do z (f.b == 0#5 && f.imm == 0#8); .ok (.ctrget f.d f.a)
  | 0x1E => do z (f.d == 0#5 && f.imm == 0#8); .ok (.ctradd f.a f.b)
  | _ => .error .reserved

/-! ### Class 7 (03 R72) -/

/-- The number of words of the instruction that a class 7 head starts, or its rejection: the head alone decides it. -/
def headWords (h : W32) : Dec Nat :=
  match (h.extractLsb' 25 4).toNat with
  | 1 => if h.extractLsb' 0 20 = 0#20 then .ok 3 else .error .unusedField
  | 2 =>
    let c := (h.extractLsb' 22 3).toNat
    if 1 ≤ c ∧ c ≤ 5 then .ok 3 else .error .reservedValue
  | 3 =>
    if h.extractLsb' 0 12 ≠ 0#12 then .error .unusedField
    else if (CSize.ofCode (h.extractLsb' 12 3).toNat).isSome then .ok 2 else .error .reservedValue
  | 4 =>
    if h.extractLsb' 0 12 ≠ 0#12 then .error .unusedField
    else if (h.extractLsb' 12 3).toNat ≤ 3 then .ok 2 else .error .reservedValue
  | _ => .error .reserved

/-- A long form from its head and extension words; the head has passed `headWords`. -/
def decode7 (h x1 x2 : W32) : Dec Instr :=
  match (h.extractLsb' 25 4).toNat with
  | 1 => .ok (.liw (h.extractLsb' 20 5) (x2 ++ x1))
  | 2 => .ok (.tdef (h.extractLsb' 22 3) (h.extractLsb' 16 6) (h.extractLsb' 0 16 ++ x2 ++ x1))
  | 3 => do
    let s ← listed (CSize.ofCode (h.extractLsb' 12 3).toNat)
    .ok (.ldcLong s (h.extractLsb' 20 5) (h.extractLsb' 15 5) x1)
  | 4 => do
    let s ← listed (CSize.ofCode (h.extractLsb' 12 3).toNat)
    .ok (.stcLong s (h.extractLsb' 20 5) (h.extractLsb' 15 5) x1)
  | _ => .error .reserved

/-- The number of words an instruction occupies, from its head word (03 R66, R72). -/
def wordsOf (w : W32) : Dec Nat := if w.extractLsb' 29 3 = 7#3 then headWords w else .ok 1

/-- The instruction that a head word and the two words after it hold (03 R66). Words beyond `wordsOf` are not read. -/
def decodeWords (w x1 x2 : W32) : Dec Instr :=
  match (w.extractLsb' 29 3).toNat with
  | 0 => decode0 w
  | 6 => decode6 w
  | 7 => do
    let _ ← headWords w
    decode7 w x1 x2
  | _ =>
    .ok (.patchWordDispatch (w.extractLsb' 29 3) (w.extractLsb' 23 6) (w.extractLsb' 19 4)
      (boolOf w 18) (boolOf w 17) (boolOf w 16) (w.extractLsb' 0 16))

/-- The 32-bit words that little-endian bytes hold. -/
def wordsOfBytes : List Byte → List W32
  | a :: b :: c :: d :: r => (d ++ c ++ b ++ a) :: wordsOfBytes r
  | _ => []

/-- Decode the instruction at the start of a list of bytes; answers it and the number of bytes it occupies. -/
def decodeBytes (bs : List Byte) : Dec (Instr × Nat) :=
  match wordsOfBytes bs with
  | [] => .error .needsExtension
  | w :: r => do
    let n ← wordsOf w
    if r.length + 1 < n then .error .needsExtension
    else do
      let i ← decodeWords w (r.getD 0 0#32) (r.getD 1 0#32)
      .ok (i, 4 * n)

/-- The instruction read from an instruction whose bits are w, bit 0 the least significant bit of the first word. -/
def decodeTableWord (nbits w : Nat) : Option Instr :=
  let v := w % 2 ^ nbits
  match decodeBytes (Machine.leBytes 12 v) with
  | .ok (i, _) => some i
  | .error _ => none

/-! ### Amended engine words (03 R78, R79, R87, R88; R90 check 4) -/

/-- A tag field: bit 4 valid, bits 3:0 the tag, zero when not valid (03 R79). -/
def tagField (x : BitVec 5) : Dec (Option (BitVec 4)) :=
  if boolOf x 4 then .ok (some (x.extractLsb' 0 4)) else if x = 0#5 then .ok none else .error .reservedValue

def tagBits : Option (BitVec 4) → BitVec 5
  | some t => (1#1) ++ t
  | none => 0#5

/-- The fields every command has; a TC1 without TC0 is rejected (03 R79). -/
def decodeCtl (e : EWord) : Dec Ctl := do
  let ta ← tagField e.ta
  let tc0 ← tagField e.tc0
  let tc1 ← tagField e.tc1
  if tc1.isSome ∧ tc0.isNone then .error .reservedValue
  else .ok ⟨e.pd, ta, tc0, tc1, e.lb, e.guard⟩

/-- The rounding field of the floating-point instructions: modifier<2:0>, codes 0 to 3, the rest zero (02 R49, 06 R140). -/
def rmField (m : BitVec 12) : Dec Rm :=
  if m.extractLsb' 3 9 ≠ 0#9 then .error .unusedField
  else match Rm.ofCode (m.extractLsb' 0 3).toNat with
    | some .sr => .error .reservedValue
    | some r => .ok r
    | none => .error .reservedValue

/-- The SAT field of the integer instructions: modifier<3>, the rest zero (06 R140). -/
def satField (m : BitVec 12) : Dec Bool :=
  if m &&& 0xFF7#12 = 0#12 then .ok (boolOf m 3) else .error .unusedField

/-- Rounding for floating-point types, SAT for integer types. -/
def arithField (t : VTy) (m : BitVec 12) : Dec (Rm × Bool) :=
  if t.isFp then do let r ← rmField m; .ok (r, false) else do let s ← satField m; .ok (.rne, s)

/-- The mask and V destination of a D byte (06 R139). -/
def vMask (x : BitVec 8) : BitVec 3 := hi3 x

/-- Shift forms (06 R146). -/
def shiftField (b : BitVec 8) (m : BitVec 12) : Dec VShift :=
  if boolOf m 11 then
    if m.extractLsb' 5 6 ≠ 0#6 ∨ b ≠ 0#8 then .error .unusedField else .ok (.imm (m.extractLsb' 0 5))
  else if m ≠ 0#12 then .error .unusedField
  else do let r ← reg5 b; .ok (.reg r)

/-- An amended word of class 1 (03 R87, 06 R140). -/
def decodeVx (e : EWord) : Dec Instr := do
  let k ← decodeCtl e
  let z := fun (c : Bool) => need c .unusedField
  let ty ← match VTy.ofCode (e.op.extractLsb' 0 3).toNat with
    | some t => Except.ok t
    | none => .error .reserved
  let d := lo5 e.d
  let mk := vMask e.d
  let fp := need ty.isFp .reserved
  let unt := need (ty == VTy.f32) .reserved
  match (e.op.extractLsb' 3 7).toNat with
  | 1 => do let (r, s) ← arithField ty e.m; let a ← reg5 e.a; let b ← reg5 e.b; z (e.c == 0#8); .ok (.vadd k ty r s d mk a b)
  | 2 => do let (r, s) ← arithField ty e.m; let a ← reg5 e.a; let b ← reg5 e.b; z (e.c == 0#8); .ok (.vsub k ty r s d mk a b)
  | 3 => do let (r, s) ← arithField ty e.m; let a ← reg5 e.a; let b ← reg5 e.b; z (e.c == 0#8); .ok (.vmul k ty r s d mk a b)
  | 4 => do fp; let r ← rmField e.m; let a ← reg5 e.a; let b ← reg5 e.b; let c ← reg5 e.c; .ok (.vfma k ty r d mk a b c)
  | 5 => do fp; let r ← rmField e.m; let a ← reg5 e.a; let b ← reg5 e.b; let c ← reg5 e.c; .ok (.vfms k ty r d mk a b c)
  | 6 => do fp; let r ← rmField e.m; let a ← reg5 e.a; let b ← reg5 e.b; let c ← reg5 e.c; .ok (.vfnma k ty r d mk a b c)
  | 7 => do fp; let r ← rmField e.m; let a ← reg5 e.a; let b ← reg5 e.b; z (e.c == 0#8); .ok (.vdiv k ty r d mk a b)
  | 8 => do fp; let r ← rmField e.m; let a ← reg5 e.a; z (e.b == 0#8 && e.c == 0#8); .ok (.vsqrt k ty r d mk a)
  | 9 => do let a ← reg5 e.a; let b ← reg5 e.b; z (e.c == 0#8 && e.m == 0#12); .ok (.vmin k ty d mk a b)
  | 10 => do let a ← reg5 e.a; let b ← reg5 e.b; z (e.c == 0#8 && e.m == 0#12); .ok (.vmax k ty d mk a b)
  | 11 => do
    need (ty != VTy.n32) .reserved
    let s ← if ty.isFp then do z (e.m == 0#12); Except.ok false else satField e.m
    let a ← reg5 e.a; z (e.b == 0#8 && e.c == 0#8); .ok (.vabs k ty s d mk a)
  | 12 => do
    need (ty != VTy.n32) .reserved
    let s ← if ty.isFp then do z (e.m == 0#12); Except.ok false else satField e.m
    let a ← reg5 e.a; z (e.b == 0#8 && e.c == 0#8); .ok (.vneg k ty s d mk a)
  | 13 => do unt; let r ← rmField e.m; let a ← reg5 e.a; z (e.b == 0#8 && e.c == 0#8); .ok (.vexp2 k r d mk a)
  | 14 => do unt; let r ← rmField e.m; let a ← reg5 e.a; z (e.b == 0#8 && e.c == 0#8); .ok (.vlog2 k r d mk a)
  | 16 => do unt; let a ← reg5 e.a; let b ← reg5 e.b; z (e.c == 0#8 && e.m == 0#12); .ok (.vand k d mk a b)
  | 17 => do unt; let a ← reg5 e.a; let b ← reg5 e.b; z (e.c == 0#8 && e.m == 0#12); .ok (.vor k d mk a b)
  | 18 => do unt; let a ← reg5 e.a; let b ← reg5 e.b; z (e.c == 0#8 && e.m == 0#12); .ok (.vxor k d mk a b)
  | 19 => do unt; let n ← shiftField e.b e.m; let a ← reg5 e.a; z (e.c == 0#8); .ok (.vshl k d mk a n)
  | 20 => do unt; let n ← shiftField e.b e.m; let a ← reg5 e.a; z (e.c == 0#8); .ok (.vshr k d mk a n)
  | 21 => do unt; let n ← shiftField e.b e.m; let a ← reg5 e.a; z (e.c == 0#8); .ok (.vsha k d mk a n)
  | 22 => do need (!ty.isFp) .reserved; let a ← reg5 e.a; let b ← reg5 e.b; z (e.c == 0#8 && e.m == 0#12); .ok (.vmulh k ty d mk a b)
  | 24 => do
    z (e.d.extractLsb' 3 2 == 0#2 && e.c == 0#8 && e.m.extractLsb' 4 8 == 0#8)
    let a ← reg5 e.a; let b ← reg5 e.b
    let cc ← listed (VCc.ofCode (e.m.extractLsb' 0 4).toNat)
    need (cc != VCc.un || ty.isFp) .reservedValue
    .ok (.vcmp k ty cc (lo3 e.d) mk a b)
  | 25 => do unt; let a ← reg5 e.a; let b ← reg5 e.b; let c ← reg3 e.c; z (e.m == 0#12); .ok (.vsel k d mk a b c)
  | 26 => do unt; let q ← reg3 e.d; let a ← reg3 e.a; let b ← reg3 e.b; z (e.c == 0#8 && e.m == 0#12); .ok (.kand k q a b)
  | 27 => do unt; let q ← reg3 e.d; let a ← reg3 e.a; let b ← reg3 e.b; z (e.c == 0#8 && e.m == 0#12); .ok (.kor k q a b)
  | 28 => do unt; let q ← reg3 e.d; let a ← reg3 e.a; let b ← reg3 e.b; z (e.c == 0#8 && e.m == 0#12); .ok (.kxor k q a b)
  | 29 => do unt; let q ← reg3 e.d; let a ← reg3 e.a; z (e.b == 0#8 && e.c == 0#8 && e.m == 0#12); .ok (.knot k q a)
  | 30 => do unt; let a ← reg3 e.a; z (e.b == 0#8 && e.c == 0#8 && e.m == 0#12); .ok (.kpopc k d mk a)
  | 31 => do unt; let q ← reg3 e.d; let a ← reg3 e.a; z (e.b == 0#8 && e.c == 0#8 && e.m == 0#12); .ok (.kfirst k q a)
  | 32 => do
    unt
    let src ← listed (Fmt.ofCode (e.m.extractLsb' 0 4).toNat)
    let dst ← listed (Fmt.ofCode (e.m.extractLsb' 4 4).toNat)
    let r ← listed (Rm.ofCode (e.m.extractLsb' 8 3).toNat)
    z (!boolOf e.m 11 && e.c == 0#8)
    need (src != .i64 && src != .n64 && src != .c4 && dst != .i64 && dst != .n64 && dst != .c4) .reservedValue
    need (r != .sr || decide (8 ≤ dst.code)) .reservedValue
    let a ← reg5 e.a
    let b ← if r == .sr then reg5 e.b else if e.b = 0#8 then Except.ok 0#5 else .error .unusedField
    .ok (.vcvt k src dst r d mk a b)
  | 33 => do
    unt; z (e.c == 0#8 && e.m.extractLsb' 2 10 == 0#10)
    let w ← listed (PWidth.ofCode (e.m.extractLsb' 0 2).toNat)
    let a ← reg5 e.a; let b ← reg5 e.b; .ok (.vpack k w d mk a b)
  | 34 => do
    unt; z (e.b == 0#8 && e.c == 0#8 && e.m.extractLsb' 6 6 == 0#6)
    let w ← listed (PWidth.ofCode (e.m.extractLsb' 0 2).toNat)
    let p := e.m.extractLsb' 2 3
    need (decide (p.toNat < w.parts)) .reservedValue
    let a ← reg5 e.a; .ok (.vunpack k w p (boolOf e.m 5) d mk a)
  | 35 => do
    unt; z (e.b == 0#8 && e.c == 0#8 && e.m.extractLsb' 7 5 == 0#5)
    let a ← reg5 e.a; .ok (.vlut k (e.m.extractLsb' 0 3) (e.m.extractLsb' 3 3) (boolOf e.m 6) d mk a)
  | 36 => do
    unt; z (e.c == 0#8 && e.m.extractLsb' 4 8 == 0#8)
    let f ← listed (Fmt.ofCode (e.m.extractLsb' 0 4).toNat)
    need (decide (8 ≤ f.code ∧ f.code ≤ 12)) .reservedValue
    let a ← reg5 e.a; let b ← reg5 e.b; .ok (.vscale k f d mk a b)
  | 40 => do let a ← reg5 e.a; z (e.b == 0#8 && e.c == 0#8 && e.m == 0#12); .ok (.vredsum k ty d mk a)
  | 41 => do let a ← reg5 e.a; z (e.b == 0#8 && e.c == 0#8 && e.m == 0#12); .ok (.vredmax k ty d mk a)
  | 42 => do let a ← reg5 e.a; z (e.b == 0#8 && e.c == 0#8 && e.m == 0#12); .ok (.vredmin k ty d mk a)
  | 43 => do let a ← reg5 e.a; z (e.b == 0#8 && e.c == 0#8 && e.m == 0#12); .ok (.vscan k ty d mk a)
  | 44 => do
    z (e.m.extractLsb' 1 11 == 0#11)
    let a ← reg5 e.a; let b ← reg5 e.b; let c ← reg5 e.c
    need (d != c) .reservedValue
    .ok (.vsort k ty (boolOf e.m 0) d mk a b c)
  | 45 => do unt; let a ← reg5 e.a; let b ← reg5 e.b; z (e.c == 0#8 && e.m == 0#12); .ok (.vperm k d mk a b)
  | 46 => do unt; let a ← reg5 e.a; z (e.b == 0#8 && e.c == 0#8 && e.m.extractLsb' 6 6 == 0#6); .ok (.vbcast k d mk a (e.m.extractLsb' 0 6))
  | 47 => do unt; z (e.a == 0#8 && e.b == 0#8 && e.c == 0#8); .ok (.viota k d mk e.m)
  | 48 => do unt; z (e.a == 0#8 && e.b == 0#8 && e.c == 0#8 && e.m == 0#12); .ok (.vrand k d mk)
  | 56 => do unt; let a ← reg5 e.a; z (e.b == 0#8 && e.c == 0#8 && e.m == 0#12); .ok (.vmov k d mk a)
  | 57 => do unt; z (e.m.extractLsb' 8 4 == 0#4); .ok (.vmovi k d mk (e.a ++ e.b ++ e.c ++ e.m.extractLsb' 0 8))
  | 58 => do unt; let a ← reg5 e.a; z (e.b == 0#8 && e.c == 0#8 && e.m.extractLsb' 6 6 == 0#6); .ok (.vget k d mk a (e.m.extractLsb' 0 6))
  | 59 => do unt; let a ← reg5 e.a; z (e.b == 0#8 && e.c == 0#8 && e.m.extractLsb' 6 6 == 0#6); .ok (.vput k d mk a (e.m.extractLsb' 0 6))
  | 60 => do unt; let a ← reg5 e.a; z (e.d == 0#8 && e.b == 0#8 && e.c == 0#8 && e.m.extractLsb' 5 7 == 0#7); .ok (.vspill k a (e.m.extractLsb' 0 5))
  | 61 => do unt; let q ← reg5 e.d; z (e.a == 0#8 && e.b == 0#8 && e.c == 0#8 && e.m.extractLsb' 5 7 == 0#7); .ok (.vfill k q (e.m.extractLsb' 0 5))
  | _ => .error .reserved

/-- The operand fields of MMA, MMAZ and MMAP (10 R233). -/
def decodeMma (e : EWord) (mk : BitVec 2 → BitVec 4 → Bool → BitVec 5 → BitVec 5 → BitVec 5 → BitVec 12 → Instr) : Dec Instr := do
  need (e.d.extractLsb' 6 2 == 0#2 && e.a.extractLsb' 5 2 == 0#2) .unusedField
  let q := boolOf e.a 7
  need (!q || lo5 e.a == 0#5) .unusedField
  let b ← reg5 e.b; let c ← reg5 e.c
  .ok (mk (e.d.extractLsb' 4 2) (lo4 e.d) q (lo5 e.a) b c e.m)

/-- An amended word of class 2 (03 R88, 10 R233). -/
def decodeMx (e : EWord) : Dec Instr := do
  let k ← decodeCtl e
  let z := fun (c : Bool) => need c .unusedField
  let c ← reg5 e.c
  match e.op.toNat with
  | 1 => decodeMma e (.mma k)
  | 2 => decodeMma e (.mmaz k)
  | 3 => decodeMma e (.mmap k)
  | 4 => do z (e.d == 0#8 && e.a == 0#8 && e.b == 0#8 && e.m == 0#12); .ok (.mret k c)
  | 5 => do
    let d ← reg5 e.d; let r ← reg5 e.b
    let res := boolOf e.m 11; let drop := boolOf e.m 10; let rate := e.m.extractLsb' 0 8
    z (e.a.extractLsb' 4 4 == 0#4 && !boolOf e.m 8 && (res || r == 0#5) && (drop || rate == 0#8))
    .ok (.mdrain k res drop (boolOf e.m 9) d (lo4 e.a) r c rate)
  | 6 => do z (e.d.extractLsb' 4 4 == 0#4 && e.a == 0#8 && e.b == 0#8 && e.m == 0#12); .ok (.mzero k (lo4 e.d) c)
  | 7 => do
    z (e.d == 0#8 && e.a == 0#8 && e.b == 0#8 && e.m &&& 0x88C#12 == 0#12)
    .ok (.mldcb k (e.m.extractLsb' 0 2) (e.m.extractLsb' 4 3) (e.m.extractLsb' 8 3) c)
  | 8 => do
    let g ← reg3 e.d
    z (e.a.extractLsb' 4 4 == 0#4 && e.b == 0#8 && e.m.extractLsb' 5 7 == 0#7)
    .ok (.mstat k (boolOf e.m 4) g (lo4 e.a) (e.m.extractLsb' 0 4) c)
  | 9 => do
    let f ← reg5 e.a; let l ← reg5 e.b
    z (e.d == 0#8 && e.m.extractLsb' 5 7 == 0#7)
    need (decide (f ≤ l)) .reservedValue
    .ok (.mpark k (e.m.extractLsb' 0 5) f l c)
  | 10 => do
    let f ← reg5 e.a; let l ← reg5 e.b
    z (e.d == 0#8 && e.m.extractLsb' 5 7 == 0#7)
    need (decide (f ≤ l)) .reservedValue
    .ok (.munpark k (e.m.extractLsb' 0 5) f l c)
  | _ => .error .reserved

/-- AM, AMT and the B operand of a contiguous or single-register access (09 R213, R214). `reg2` admits AM = 2; `bUsed`
says that B holds a second operand of the instruction, so that AM = 2 is not admitted. -/
def addrField (e : EWord) (reg2 bUsed : Bool) : Dec AddrForm :=
  let amt := e.m.extractLsb' 2 8
  match (e.m.extractLsb' 10 2).toNat with
  | 0 => if bUsed ∨ e.b = 0#8 then .ok (.off amt) else .error .unusedField
  | 1 => if bUsed ∨ e.b = 0#8 then .ok (.postInc amt) else .error .unusedField
  | 2 => if !reg2 then .error .reservedValue else if amt ≠ 0#8 then .error .unusedField else do let b ← reg5 e.b; .ok (.reg b)
  | _ => .error .reservedValue

/-- The destination of a load: Q, or Vd (09 R213). -/
def loadDest (x : BitVec 8) : Dec (Bool × BitVec 5) :=
  if boolOf x 7 then (if x.extractLsb' 0 7 = 0#7 then .ok (true, 0#5) else .error .unusedField)
  else do let d ← reg5 x; .ok (false, d)

/-- Size and SX of a load; SX with size W is rejected (09 R218). -/
def loadSize (e : EWord) : Dec (ESize × Bool) := do
  let sz ← listed (ESize.ofCode (e.m.extractLsb' 0 2).toNat)
  let sx := boolOf e.c 3
  need (!(sx && sz == .w)) .reservedValue
  .ok (sz, sx)

/-- The MARK word: guard 7 and every other field but LB zero (09 R225). -/
def markWord (e : EWord) : Bool :=
  e.pd == 0#4 && e.ta == 0#5 && e.tc0 == 0#5 && e.tc1 == 0#5 && e.guard == 7#3 && e.d == 0#8 && e.a == 0#8 && e.b == 0#8 &&
    e.c == 0#8 && e.m == 0#12

/-- An amended word of class 3 (09 R213, R218). -/
def decodeLd (e : EWord) : Dec Instr := do
  let k ← decodeCtl e
  let z := fun (c : Bool) => need c .unusedField
  let m := lo3 e.c
  match e.op.toNat with
  | 1 => do
    let (q, d) ← loadDest e.d; let a ← reg5 e.a; let (sz, sx) ← loadSize e; z (e.c.extractLsb' 4 4 == 0#4)
    let am ← addrField e false false; .ok (.ld k sz sx q d m a am)
  | 2 => do
    let (q, d) ← loadDest e.d; let a ← reg5 e.a; let (sz, sx) ← loadSize e; z (e.c.extractLsb' 4 4 == 0#4)
    let am ← addrField e true false; .ok (.ldb k sz sx q d m a am)
  | 3 => do
    let (q, d) ← loadDest e.d; let a ← reg5 e.a; let (sz, sx) ← loadSize e; z (e.c.extractLsb' 5 3 == 0#3)
    let b ← reg5 e.b; let am ← addrField e false true; .ok (.ldg k sz sx q d m a (boolOf e.c 4) b am)
  | 4 => do
    let (q, d) ← loadDest e.d; let a ← reg5 e.a; let (sz, sx) ← loadSize e; z (e.c.extractLsb' 4 4 == 0#4)
    let am ← addrField e true false; .ok (.ldf k sz sx q d m a am)
  | 5 => do
    let (q, d) ← loadDest e.d; let a ← reg5 e.a; let (sz, sx) ← loadSize e; let b ← reg5 e.b
    z (e.c.extractLsb' 4 4 == 0#4 && e.m.extractLsb' 2 8 == 0#8)
    let r := e.m.extractLsb' 10 2
    need (decide (b.toNat + r.toNat ≤ 31)) .reservedValue
    .ok (.lds k sz sx q d m a b r)
  | 0x10 => do z (markWord e); .ok (.mark false e.lb)
  | _ => .error .reserved

/-- An amended word of class 4 (03 R88, 09 R213, R218, R224). -/
def decodeSt (e : EWord) : Dec Instr := do
  let k ← decodeCtl e
  let z := fun (c : Bool) => need c .unusedField
  let m := lo3 e.c
  let size := ESize.ofCode (e.m.extractLsb' 0 2).toNat
  let op := e.op.toNat
  if 0x40 ≤ op ∧ op ≤ 0x7F then do
    let o ← listed (AmoOp.ofCode ((op - 0x40) / 8))
    let t ← match ATy.ofCode (op % 8) with
      | some t => Except.ok t
      | none => .error .reserved
    need (vamoAdmits o t) .reserved
    let d ← reg5 e.d; let a ← reg5 e.a; let b ← reg5 e.b
    need (size == some .w) .reservedValue
    z (!boolOf e.c 3 && (o == .cas || hi3 e.c == 0#3))
    let am ← addrField e false true
    .ok (.vamo k o t d m a b (hi3 e.c) (boolOf e.c 4) am)
  else match op with
  | 1 => do
    let d ← reg5 e.d; let a ← reg5 e.a; let sz ← listed size; z (e.c.extractLsb' 3 5 == 0#5)
    let am ← addrField e false false; .ok (.st k sz d m a am)
  | 2 => do
    let d ← reg5 e.d; let a ← reg5 e.a; let sz ← listed size; z (e.c.extractLsb' 3 5 == 0#5)
    let am ← addrField e true false; .ok (.stb k sz d m a am)
  | 3 => do
    let d ← reg5 e.d; let a ← reg5 e.a; let b ← reg5 e.b; let sz ← listed size; z (!boolOf e.c 3 && hi3 e.c == 0#3)
    let am ← addrField e false true; .ok (.stg k sz d m a (boolOf e.c 4) b am)
  | 4 => do
    let d ← reg5 e.d; let a ← reg5 e.a; let sz ← listed size; z (e.c.extractLsb' 3 5 == 0#5)
    let am ← addrField e true false; .ok (.stf k sz d m a am)
  | 5 => do
    let d ← reg5 e.d; let a ← reg5 e.a; need (size == some .b) .reservedValue; z (!boolOf e.c 3 && hi3 e.c == 0#3)
    let am ← addrField e false false; .ok (.stn4 k d m a (boolOf e.c 4) am)
  | 0x10 => do z (markWord e); .ok (.mark true e.lb)
  | _ => .error .reserved

/-- An amended word of class 5 (11 R251, R253, R260). -/
def decodeCp (e : EWord) : Dec Instr := do
  let k ← decodeCtl e
  let z := fun (c : Bool) => need c .unusedField
  let id := e.m.extractLsb' 4 8
  let inc := e.m.extractLsb' 0 4
  let dv := boolOf e.d 5
  let sv := boolOf e.a 5
  match e.op.toNat with
  | 1 => do
    let n ← reg5 e.b; z (e.d.extractLsb' 6 2 == 0#2 && !boolOf e.a 7 && e.c == 0#8)
    need (!(boolOf e.a 6 && (dv || sv))) .reservedValue
    .ok (.cpy k dv (boolOf e.a 6) sv (lo5 e.d) (lo5 e.a) n id inc)
  | 2 => do
    let n ← reg5 e.b; let m ← reg5 e.c; z (e.d.extractLsb' 6 2 == 0#2 && !boolOf e.a 7)
    need (!(boolOf e.a 6 && (dv || sv))) .reservedValue
    .ok (.cpy2 k dv (boolOf e.a 6) sv (lo5 e.d) (lo5 e.a) n m id inc)
  | 3 => do
    let d ← reg5 e.d; let n ← reg5 e.b; let f ← reg5 e.c; need (!sv) .reservedValue
    let sz ← listed (ESize.ofCode (e.a.extractLsb' 6 2).toNat)
    .ok (.cpys k sz d (lo5 e.a) n f id inc)
  | 4 => do
    let n ← reg5 e.b; z (e.d.extractLsb' 6 2 == 0#2 && e.c == 0#8); need (!boolOf e.a 6) .reservedValue
    .ok (.cpyf k (boolOf e.a 7) dv sv (lo5 e.d) (lo5 e.a) n id inc)
  | 5 => do
    let n ← reg5 e.b; let v ← reg5 e.c; z (e.a.extractLsb' 0 7 == 0#7)
    if boolOf e.a 7 then do z (e.d == 0#8 && e.c == 0#8); .ok (.fillDiscard k n id inc)
    else do z (e.d.extractLsb' 6 2 == 0#2); .ok (.fill k dv (lo5 e.d) n v id inc)
  | 0x10 => do let y ← reg5 e.d; let x ← reg5 e.a; let a ← reg5 e.b; let n ← reg5 e.c; .ok (.nmaxpy k y x a n id inc)
  | 0x11 => do let y ← reg5 e.d; z (e.a == 0#8); let a ← reg5 e.b; let n ← reg5 e.c; .ok (.nmscale k y a n id inc)
  | 0x12 => do let y ← reg5 e.d; let x ← reg5 e.a; let a ← reg5 e.b; let n ← reg5 e.c; .ok (.nmfade k y x a n id inc)
  | 0x13 => do let y ← reg5 e.d; let x ← reg5 e.a; z (e.b == 0#8); let n ← reg5 e.c; .ok (.nmsum k y x n id inc)
  | 0x14 => do let y ← reg5 e.d; z (e.a == 0#8); let v ← reg5 e.b; let n ← reg5 e.c; .ok (.nmfill k y v n id inc)
  | 0x15 => do let y ← reg5 e.d; z (e.a == 0#8 && e.b == 0#8); let n ← reg5 e.c; .ok (.nmchk k y n id inc)
  | 0x16 => do z (e.d == 0#8 && e.a == 0#8 && e.b == 0#8 && e.c == 0#8); .ok (.nmfence k id inc)
  | _ => .error .reserved

/-- The instruction that an amended engine word of a class holds. -/
def decodeEngine (cls : BitVec 3) (w : BitVec 80) : Dec Instr :=
  let e := EWord.split w
  match cls.toNat with
  | 1 => decodeVx e
  | 2 => decodeMx e
  | 3 => decodeLd e
  | 4 => decodeSt e
  | 5 => decodeCp e
  | _ => .error .reserved

/-- The engine that executes the words of a class (03 R66). -/
def classEngine (cls : BitVec 3) : Option Engine :=
  match cls.toNat with
  | 1 => some .vx | 2 => some .mx | 3 => some .ld | 4 => some .st | 5 => some .cp | 6 => some .sy | _ => none

/-! ### The encoder -/

/-- What a step is written as: instruction words, or an amended engine word of a class. -/
inductive Code where
  | words (ws : List W32)
  | engine (cls : BitVec 3) (w : BitVec 80)
deriving DecidableEq, Repr

def Ctl.word (k : Ctl) (op : Nat) (d a b c : BitVec 8) (m : BitVec 12) : BitVec 80 :=
  EWord.join { op := BitVec.ofNat 10 op, pd := k.pd, ta := tagBits k.ta, tc0 := tagBits k.tc0, tc1 := tagBits k.tc1,
               lb := k.lb, guard := k.guard, d := d, a := a, b := b, c := c, m := m }

/-- A word of class 1: op value and type (03 R87). -/
def vxWord (k : Ctl) (op : Nat) (t : VTy) (d a b c : BitVec 8) (m : BitVec 12) : Code :=
  .engine 1#3 (k.word (op * 8 + t.code) d a b c m)

def maskByte (m : BitVec 3) (d : BitVec 5) : BitVec 8 := m ++ d
def rmBits (r : Rm) : BitVec 12 := BitVec.ofNat 12 r.code
def satBits (s : Bool) : BitVec 12 := if s then 8#12 else 0#12
def arithBits (t : VTy) (r : Rm) (s : Bool) : BitVec 12 := if t.isFp then rmBits r else satBits s
def shiftBits : VShift → BitVec 8 × BitVec 12
  | .reg b => (byte5 b, 0#12)
  | .imm n => (0#8, 0x800#12 ||| n.setWidth 12)

/-- The word of MMA, MMAZ or MMAP (10 R233). -/
def mmaWord (k : Ctl) (op : Nat) (pt : BitVec 2) (z : BitVec 4) (q : Bool) (a b c : BitVec 5) (kk : BitVec 12) : Code :=
  .engine 2#3 (k.word op ((0#2) ++ pt ++ z) (bit1 q ++ (0#2) ++ a) (byte5 b) (byte5 c) kk)

/-- AM, AMT and the B byte of an address form (09 R214). -/
def AddrForm.bits : AddrForm → BitVec 2 × BitVec 8 × BitVec 8
  | .off n => (0#2, n, 0#8)
  | .postInc n => (1#2, n, 0#8)
  | .reg b => (2#2, 0#8, byte5 b)

def sizeBits (s : ESize) : BitVec 2 := BitVec.ofNat 2 s.code

/-- The word of a load (09 R213); `b` overrides the B byte. -/
def ldWord (k : Ctl) (op : Nat) (sz : ESize) (sx q : Bool) (d : BitVec 5) (m : BitVec 3) (a : BitVec 5) (buf : Bool)
    (am : AddrForm) (b : Option (BitVec 5)) : Code :=
  let (mode, amt, rb) := am.bits
  .engine 3#3 (k.word op (bit1 q ++ (0#2) ++ d) (byte5 a) (match b with | some b => byte5 b | none => rb)
    ((0#3) ++ bit1 buf ++ bit1 sx ++ m) (mode ++ amt ++ sizeBits sz))

/-- The word of a store (09 R213). -/
def stWord (k : Ctl) (op : Nat) (sz : ESize) (d : BitVec 5) (m : BitVec 3) (a : BitVec 5) (buf : Bool) (c : BitVec 3)
    (am : AddrForm) (b : Option (BitVec 5)) : Code :=
  let (mode, amt, rb) := am.bits
  .engine 4#3 (k.word op (byte5 d) (byte5 a) (match b with | some b => byte5 b | none => rb)
    (c ++ bit1 buf ++ (0#1) ++ m) (mode ++ amt ++ sizeBits sz))

/-- The word of a class 5 command: counter id and increment in the modifier (11 R251). -/
def cpWord (k : Ctl) (op : Nat) (d a b c : BitVec 8) (id : BitVec 8) (inc : BitVec 4) : Code :=
  .engine 5#3 (k.word op d a b c (id ++ inc))

def rrrWord (op fn : Nat) (d a b : BitVec 5) : Code :=
  .words [Rrr.join ⟨0#3, BitVec.ofNat 7 op, d, a, b, BitVec.ofNat 7 fn⟩]
def iWord (op : Nat) (d a : BitVec 5) (imm : BitVec 12) : Code := .words [joinI (BitVec.ofNat 7 op) d a imm]
def sysWord (op : Nat) (r : BitVec 5) (name : BitVec 12) (sub : BitVec 5) : Code :=
  .words [joinSys (BitVec.ofNat 7 op) r name sub]
def syWord (op : Nat) (a b d : BitVec 5) (imm : BitVec 8) : Code := .words [Sy6.join ⟨BitVec.ofNat 6 op, a, b, d, imm⟩]
def p5 (p : BitVec 3) : BitVec 5 := p.setWidth 5
def queueImm (ind : Bool) (p : BitVec 3) : BitVec 8 := (0#4) ++ bit1 ind ++ p

/-- The head word of a long memory form (03 R72). -/
def longHead (op : Nat) (d a : BitVec 5) (s : CSize) : W32 :=
  (7#3) ++ (0#0) ++ BitVec.ofNat 4 op ++ d ++ a ++ BitVec.ofNat 3 s.code ++ (0#12)

/-- The words of an instruction, from the encoding tables of 03, 06, 09, 10, 11, 14, 17 and 19; none for an event. -/
def encode : Instr → Option Code
  | .add d a b => rrrWord 1 0x00 d a b
  | .sub d a b => rrrWord 1 0x01 d a b
  | .mul d a b => rrrWord 1 0x02 d a b
  | .mulh d a b => rrrWord 1 0x03 d a b
  | .mulhn d a b => rrrWord 1 0x04 d a b
  | .div d a b => rrrWord 1 0x05 d a b
  | .divn d a b => rrrWord 1 0x06 d a b
  | .rem d a b => rrrWord 1 0x07 d a b
  | .remn d a b => rrrWord 1 0x08 d a b
  | .and d a b => rrrWord 1 0x09 d a b
  | .or d a b => rrrWord 1 0x0A d a b
  | .xor d a b => rrrWord 1 0x0B d a b
  | .shl d a b => rrrWord 1 0x0C d a b
  | .shr d a b => rrrWord 1 0x0D d a b
  | .sha d a b => rrrWord 1 0x0E d a b
  | .min d a b => rrrWord 1 0x0F d a b
  | .max d a b => rrrWord 1 0x10 d a b
  | .minn d a b => rrrWord 1 0x11 d a b
  | .maxn d a b => rrrWord 1 0x12 d a b
  | .clz d a => rrrWord 1 0x20 d a 0#5
  | .ctz d a => rrrWord 1 0x21 d a 0#5
  | .popc d a => rrrWord 1 0x22 d a 0#5
  | .bswap d a => rrrWord 1 0x23 d a 0#5
  | .sel n d a b => rrrWord 2 n.toNat d a b
  | .cmp cc d a b => rrrWord 3 cc.code (p5 d) a b
  | .pand d a b => rrrWord 4 0 (p5 d) (p5 a) (p5 b)
  | .por d a b => rrrWord 4 1 (p5 d) (p5 a) (p5 b)
  | .pxor d a b => rrrWord 4 2 (p5 d) (p5 a) (p5 b)
  | .pnot d a => rrrWord 4 3 (p5 d) (p5 a) 0#5
  | .bufa d a b => rrrWord 5 0 d a b
  | .bufx d a => rrrWord 5 1 d a 0#5
  | .bufo d a => rrrWord 5 2 d a 0#5
  | .addi d a imm => iWord 0x08 d a imm
  | .andi d a imm => iWord 0x09 d a imm
  | .ori d a imm => iWord 0x0A d a imm
  | .xori d a imm => iWord 0x0B d a imm
  | .shli d a n => iWord 0x0C d a ((0#6) ++ n)
  | .shri d a n => iWord 0x0D d a ((0#6) ++ n)
  | .shai d a n => iWord 0x0E d a ((0#6) ++ n)
  | .cmpi cc d a imm => iWord (0x10 + cc.code) (p5 d) a imm
  | .lui d imm => some (.words [joinU 8#5 d imm])
  | .jal d off => some (.words [joinU 9#5 d off])
  | .j off => some (.words [joinB 0x28#7 0#3 off])
  | .br p off => some (.words [joinB 0x29#7 p off])
  | .jalr d a imm => iWord 0x2A d a imm
  | .movx d a imm => iWord 0x30 d a imm
  | .movxs d a => rrrWord 0x31 0 d a 0#5
  | .ldc s d a imm => iWord (0x38 + s.code) d a imm
  | .ldcLong s d a disp => some (.words [longHead 3 d a s, disp])
  | .stc s d a imm => iWord (0x40 + s.code) d a imm
  | .stcLong s d a disp => some (.words [longHead 4 d a s, disp])
  | .amo op dw sc d a b => rrrWord 0x44 (op.code + (if dw then 8 else 0) + 16 * sc.code) d a b
  | .fence k sc => sysWord 0x48 0#5 (BitVec.ofNat 12 sc.code) (BitVec.ofNat 5 k.code)
  | .region sb => sysWord 0x50 0#5 0#12 (if sb then 1#5 else 0#5)
  | .sysr d name idx => sysWord 0x58 d name idx
  | .sysw a name idx => sysWord 0x59 a name idx
  | .trap n => sysWord 0x5A 0#5 n 0#5
  | .eret => sysWord 0x5B 0#5 0#12 0#5
  | .yieldQ => sysWord 0x5C 0#5 0#12 0#5
  | .endj => sysWord 0x5D 0#5 0#12 0#5
  | .nop => sysWord 0x5F 0#5 0#12 0#5
  | .liw d imm => some (.words [(7#3) ++ (1#4) ++ d ++ (0#20), imm.extractLsb' 0 32, imm.extractLsb' 32 32])
  | .tdef cls index w =>
    some (.words [(7#3) ++ (2#4) ++ cls ++ index ++ w.extractLsb' 64 16, w.extractLsb' 0 32, w.extractLsb' 32 32])
  | .tbw d a b c => rrrWord 0x60 c.toNat d a b
  | .tbr d a b c => rrrWord 0x61 c.toNat d a b
  | .tlbi sc a => rrrWord 0x62 sc.code 0#5 a 0#5
  | .shardw d a b o => rrrWord 0x63 (if o then 7 else 6) d a b
  | .shardr d a b => rrrWord 0x64 0 d a b
  | .curw d a b => rrrWord 0x65 0x11 d a b
  | .ctxw d a b q => rrrWord 0x66 (if q then 0x16 else 0x10) d a b
  | .fmmuw d a b m => rrrWord 0x67 (if m then 5 else 4) d a b
  | .keyw d a b => rrrWord 0x68 8 d a b
  | .protw d a b => rrrWord 0x69 9 d a b
  | .enq d a b ind => syWord 0x01 a b (p5 d) (queueImm ind 0#3)
  | .deq d a b ind p => syWord 0x02 a b d (queueImm ind p)
  | .peek d a b ind p => syWord 0x03 a b d (queueImm ind p)
  | .enqr d a b c => syWord 0x04 a b (p5 d) (c.setWidth 8)
  | .qstat d a => syWord 0x05 a 0#5 d 0#8
  | .tokp eng fifo out => syWord 0x06 0#5 0#5 0#5 (eng ++ fifo ++ bit1 out ++ (0#1))
  | .rndv => syWord 0x07 0#5 0#5 0#5 0#8
  | .sync a => syWord 0x08 a 0#5 0#5 0#8
  | .syncW => syWord 0x08 0#5 0#5 0#5 1#8
  | .arrive a => syWord 0x09 a 0#5 0#5 0#8
  | .waitc d a id => syWord 0x0A a 0#5 (p5 d) id
  | .spawn d a => syWord 0x10 a 0#5 d 0#8
  | .refF d a => syWord 0x11 a 0#5 (p5 d) 0#8
  | .dropF d a => syWord 0x12 a 0#5 (p5 d) 0#8
  | .await d a => syWord 0x13 a 0#5 (p5 d) 0#8
  | .awaitl d a => syWord 0x14 a 0#5 (p5 d) 0#8
  | .rpoint => syWord 0x15 0#5 0#5 0#5 0#8
  | .yieldl k a b => syWord 0x16 a b 0#5 (BitVec.ofNat 8 k.code)
  | .tktset d a b => syWord 0x18 a b d 0#8
  | .tktget d a sel => syWord 0x19 a 0#5 d (sel.setWidth 8)
  | .draw d a => syWord 0x1A a 0#5 d 0#8
  | .ctrset a b => syWord 0x1C a b 0#5 0#8
  | .ctrget d a => syWord 0x1D a 0#5 d 0#8
  | .ctradd a b => syWord 0x1E a b 0#5 0#8
  | .patchWordDispatch cls index sel pop push last v =>
    some (.words [cls ++ index ++ sel ++ bit1 pop ++ bit1 push ++ bit1 last ++ v])
  | .vadd k t r s d m a b => vxWord k 1 t (maskByte m d) (byte5 a) (byte5 b) 0#8 (arithBits t r s)
  | .vsub k t r s d m a b => vxWord k 2 t (maskByte m d) (byte5 a) (byte5 b) 0#8 (arithBits t r s)
  | .vmul k t r s d m a b => vxWord k 3 t (maskByte m d) (byte5 a) (byte5 b) 0#8 (arithBits t r s)
  | .vfma k t r d m a b c => vxWord k 4 t (maskByte m d) (byte5 a) (byte5 b) (byte5 c) (rmBits r)
  | .vfms k t r d m a b c => vxWord k 5 t (maskByte m d) (byte5 a) (byte5 b) (byte5 c) (rmBits r)
  | .vfnma k t r d m a b c => vxWord k 6 t (maskByte m d) (byte5 a) (byte5 b) (byte5 c) (rmBits r)
  | .vdiv k t r d m a b => vxWord k 7 t (maskByte m d) (byte5 a) (byte5 b) 0#8 (rmBits r)
  | .vsqrt k t r d m a => vxWord k 8 t (maskByte m d) (byte5 a) 0#8 0#8 (rmBits r)
  | .vexp2 k r d m a => vxWord k 13 .f32 (maskByte m d) (byte5 a) 0#8 0#8 (rmBits r)
  | .vlog2 k r d m a => vxWord k 14 .f32 (maskByte m d) (byte5 a) 0#8 0#8 (rmBits r)
  | .vmin k t d m a b => vxWord k 9 t (maskByte m d) (byte5 a) (byte5 b) 0#8 0#12
  | .vmax k t d m a b => vxWord k 10 t (maskByte m d) (byte5 a) (byte5 b) 0#8 0#12
  | .vabs k t s d m a => vxWord k 11 t (maskByte m d) (byte5 a) 0#8 0#8 (satBits s)
  | .vneg k t s d m a => vxWord k 12 t (maskByte m d) (byte5 a) 0#8 0#8 (satBits s)
  | .vand k d m a b => vxWord k 16 .f32 (maskByte m d) (byte5 a) (byte5 b) 0#8 0#12
  | .vor k d m a b => vxWord k 17 .f32 (maskByte m d) (byte5 a) (byte5 b) 0#8 0#12
  | .vxor k d m a b => vxWord k 18 .f32 (maskByte m d) (byte5 a) (byte5 b) 0#8 0#12
  | .vshl k d m a n => vxWord k 19 .f32 (maskByte m d) (byte5 a) (shiftBits n).1 0#8 (shiftBits n).2
  | .vshr k d m a n => vxWord k 20 .f32 (maskByte m d) (byte5 a) (shiftBits n).1 0#8 (shiftBits n).2
  | .vsha k d m a n => vxWord k 21 .f32 (maskByte m d) (byte5 a) (shiftBits n).1 0#8 (shiftBits n).2
  | .vmulh k t d m a b => vxWord k 22 t (maskByte m d) (byte5 a) (byte5 b) 0#8 0#12
  | .vcmp k t cc d m a b => vxWord k 24 t (m ++ (0#2) ++ d) (byte5 a) (byte5 b) 0#8 (BitVec.ofNat 12 cc.code)
  | .vsel k d m a b c => vxWord k 25 .f32 (maskByte m d) (byte5 a) (byte5 b) (byte3 c) 0#12
  | .kand k d a b => vxWord k 26 .f32 (byte3 d) (byte3 a) (byte3 b) 0#8 0#12
  | .kor k d a b => vxWord k 27 .f32 (byte3 d) (byte3 a) (byte3 b) 0#8 0#12
  | .kxor k d a b => vxWord k 28 .f32 (byte3 d) (byte3 a) (byte3 b) 0#8 0#12
  | .knot k d a => vxWord k 29 .f32 (byte3 d) (byte3 a) 0#8 0#8 0#12
  | .kpopc k d m a => vxWord k 30 .f32 (maskByte m d) (byte3 a) 0#8 0#8 0#12
  | .kfirst k d a => vxWord k 31 .f32 (byte3 d) (byte3 a) 0#8 0#8 0#12
  | .vcvt k src dst r d m a b =>
    vxWord k 32 .f32 (maskByte m d) (byte5 a) (byte5 b) 0#8 (BitVec.ofNat 12 (src.code + 16 * dst.code + 256 * r.code))
  | .vpack k w d m a b => vxWord k 33 .f32 (maskByte m d) (byte5 a) (byte5 b) 0#8 (BitVec.ofNat 12 w.code)
  | .vunpack k w part sx d m a =>
    vxWord k 34 .f32 (maskByte m d) (byte5 a) 0#8 0#8 ((0#6) ++ bit1 sx ++ part ++ BitVec.ofNat 2 w.code)
  | .vlut k cb part wide d m a => vxWord k 35 .f32 (maskByte m d) (byte5 a) 0#8 0#8 ((0#5) ++ bit1 wide ++ part ++ cb)
  | .vscale k f d m a b => vxWord k 36 .f32 (maskByte m d) (byte5 a) (byte5 b) 0#8 (BitVec.ofNat 12 f.code)
  | .vredsum k t d m a => vxWord k 40 t (maskByte m d) (byte5 a) 0#8 0#8 0#12
  | .vredmax k t d m a => vxWord k 41 t (maskByte m d) (byte5 a) 0#8 0#8 0#12
  | .vredmin k t d m a => vxWord k 42 t (maskByte m d) (byte5 a) 0#8 0#8 0#12
  | .vscan k t d m a => vxWord k 43 t (maskByte m d) (byte5 a) 0#8 0#8 0#12
  | .vsort k t desc d m a b c => vxWord k 44 t (maskByte m d) (byte5 a) (byte5 b) (byte5 c) (if desc then 1#12 else 0#12)
  | .vperm k d m a b => vxWord k 45 .f32 (maskByte m d) (byte5 a) (byte5 b) 0#8 0#12
  | .vbcast k d m a l => vxWord k 46 .f32 (maskByte m d) (byte5 a) 0#8 0#8 (l.setWidth 12)
  | .viota k d m base => vxWord k 47 .f32 (maskByte m d) 0#8 0#8 0#8 base
  | .vrand k d m => vxWord k 48 .f32 (maskByte m d) 0#8 0#8 0#8 0#12
  | .vmov k d m a => vxWord k 56 .f32 (maskByte m d) (byte5 a) 0#8 0#8 0#12
  | .vmovi k d m imm =>
    vxWord k 57 .f32 (maskByte m d) (imm.extractLsb' 24 8) (imm.extractLsb' 16 8) (imm.extractLsb' 8 8)
      ((0#4) ++ imm.extractLsb' 0 8)
  | .vget k d m a l => vxWord k 58 .f32 (maskByte m d) (byte5 a) 0#8 0#8 (l.setWidth 12)
  | .vput k d m a l => vxWord k 59 .f32 (maskByte m d) (byte5 a) 0#8 0#8 (l.setWidth 12)
  | .vspill k a id => vxWord k 60 .f32 0#8 (byte5 a) 0#8 0#8 (id.setWidth 12)
  | .vfill k d id => vxWord k 61 .f32 (byte5 d) 0#8 0#8 0#8 (id.setWidth 12)
  | .mma k pt z q a b c kk => mmaWord k 1 pt z q a b c kk
  | .mmaz k pt z q a b c kk => mmaWord k 2 pt z q a b c kk
  | .mmap k pt z q a b c kk => mmaWord k 3 pt z q a b c kk
  | .mret k c => some (.engine 2#3 (k.word 4 0#8 0#8 0#8 (byte5 c) 0#12))
  | .mdrain k res drop free d z r c rate =>
    some (.engine 2#3 (k.word 5 (byte5 d) (z.setWidth 8) (byte5 r) (byte5 c)
      (bit1 res ++ bit1 drop ++ bit1 free ++ (0#1) ++ rate)))
  | .mzero k z c => some (.engine 2#3 (k.word 6 (z.setWidth 8) 0#8 0#8 (byte5 c) 0#12))
  | .mldcb k pt ca cb c =>
    some (.engine 2#3 (k.word 7 0#8 0#8 0#8 (byte5 c) ((0#1) ++ cb ++ (0#1) ++ ca ++ (0#2) ++ pt)))
  | .mstat k nz g z mask c =>
    some (.engine 2#3 (k.word 8 (byte3 g) (z.setWidth 8) 0#8 (byte5 c) ((0#7) ++ bit1 nz ++ mask)))
  | .mpark k id f l c => some (.engine 2#3 (k.word 9 0#8 (byte5 f) (byte5 l) (byte5 c) (id.setWidth 12)))
  | .munpark k id f l c => some (.engine 2#3 (k.word 10 0#8 (byte5 f) (byte5 l) (byte5 c) (id.setWidth 12)))
  | .ld k sz sx q d m a am => ldWord k 1 sz sx q d m a false am none
  | .ldb k sz sx q d m a am => ldWord k 2 sz sx q d m a false am none
  | .ldg k sz sx q d m a buf b am => ldWord k 3 sz sx q d m a buf am (some b)
  | .ldf k sz sx q d m a am => ldWord k 4 sz sx q d m a false am none
  | .lds k sz sx q d m a b r =>
    some (.engine 3#3 (k.word 5 (bit1 q ++ (0#2) ++ d) (byte5 a) (byte5 b) ((0#4) ++ bit1 sx ++ m)
      (r ++ (0#8) ++ sizeBits sz)))
  | .mark onSt lb =>
    some (.engine (if onSt then 4#3 else 3#3) (Ctl.word ⟨0#4, none, none, none, lb, 7#3⟩ 0x10 0#8 0#8 0#8 0#8 0#12))
  | .st k sz d m a am => stWord k 1 sz d m a false 0#3 am none
  | .stb k sz d m a am => stWord k 2 sz d m a false 0#3 am none
  | .stg k sz d m a buf b am => stWord k 3 sz d m a buf 0#3 am (some b)
  | .stf k sz d m a am => stWord k 4 sz d m a false 0#3 am none
  | .stn4 k d m a buf am => stWord k 5 .b d m a buf 0#3 am none
  | .vamo k op t d m a b c buf am => stWord k (0x40 + 8 * op.code + t.code) .w d m a buf c am (some b)
  | .cpy k dv cv sv d a n id inc =>
    cpWord k 1 ((0#2) ++ bit1 dv ++ d) ((0#1) ++ bit1 cv ++ bit1 sv ++ a) (byte5 n) 0#8 id inc
  | .cpy2 k dv cv sv d a n m id inc =>
    cpWord k 2 ((0#2) ++ bit1 dv ++ d) ((0#1) ++ bit1 cv ++ bit1 sv ++ a) (byte5 n) (byte5 m) id inc
  | .cpys k sz d a n f id inc => cpWord k 3 (byte5 d) (sizeBits sz ++ (0#1) ++ a) (byte5 n) (byte5 f) id inc
  | .cpyf k fs dv sv d a n id inc =>
    cpWord k 4 ((0#2) ++ bit1 dv ++ d) (bit1 fs ++ (0#1) ++ bit1 sv ++ a) (byte5 n) 0#8 id inc
  | .fill k dv d n v id inc => cpWord k 5 ((0#2) ++ bit1 dv ++ d) 0#8 (byte5 n) (byte5 v) id inc
  | .fillDiscard k m id inc => cpWord k 5 0#8 0x80#8 (byte5 m) 0#8 id inc
  | .nmaxpy k y x a n id inc => cpWord k 0x10 (byte5 y) (byte5 x) (byte5 a) (byte5 n) id inc
  | .nmscale k y a n id inc => cpWord k 0x11 (byte5 y) 0#8 (byte5 a) (byte5 n) id inc
  | .nmfade k w g p n id inc => cpWord k 0x12 (byte5 w) (byte5 g) (byte5 p) (byte5 n) id inc
  | .nmsum k r x n id inc => cpWord k 0x13 (byte5 r) (byte5 x) 0#8 (byte5 n) id inc
  | .nmfill k y v n id inc => cpWord k 0x14 (byte5 y) 0#8 (byte5 v) (byte5 n) id inc
  | .nmchk k y n id inc => cpWord k 0x15 (byte5 y) 0#8 0#8 (byte5 n) id inc
  | .nmfence k id inc => cpWord k 0x16 0#8 0#8 0#8 0#8 id inc
  | .regionResume | .arbModeTakeEffect | .tableWriteInForce _ | .enqrOutcome | .rndvRetire | .phaseClose _
  | .waitcSatisfied | .awaitlEnd | .yieldlReady | .coveredResultLanding _ _ | .stampReached | .arbiterDraw _
  | .quantumEnd _ | .markRetire | .loadDataHead | .storePerformed _ _ | .loadPerformed _ _ | .storeReplay
  | .copyUnit _ | .cpCompletion _ | .nmCommand _ | .nmsumPartialCombine _ | .nmStatus _ | .taskEntry _
  | .predecessorFinish _ _ | .teamPlacement _ | .starvationExpiry _ | .preemptRequest _ | .preemptionCut
  | .iterOverrun | .teamSwapOut _ | .teamSwapIn _ | .jobEnd | .taskReclaim | .trapEntry | .contextSwitch _
  | .queueSwapOut _ _ | .queueSwapIn _ | .seasonIdleExpiry _ | .wakeComplete _ | .holdExpiry | .hostKick _ _ _
  | .cqheadWrite _ _ _ | .stoppedClear _ _ | .invoke _ _ | .modelLoad _ _ _ | .modelUnload _ _
  | .completionEntryWrite _ _ | .hostWinMemAccess _ _ _ _ _ | .semaphoreRequest _ _ _ | .semaphoreRelease _ _
  | .reset _ | .fwupd _ _ | .powerLimitWrite _ _ | .evtDataWrite _ | .registerWrite _ _ | .portLinkDown _
  | .lockInterfaceRequest _ | .startInterfaceRequest _ _ | .stopInterfaceRequest _ | .getDeviceInterfaceReport _ _
  | .tdispErrorEvent _ _ | .getVersion _ | .getCapabilities _ | .negotiateAlgorithms _ | .getDigests _
  | .getCertificate _ | .challenge _ | .getMeasurements _ _ | .keyExchange _ | .finish _ _ | .packageReset _
  | .queueReset _ _ | .queueResetComplete _ _ | .vfTeardown _ | .teardownCircuitsComplete _ | .powerWindow _
  | .scrub _ _ | .channelRetrain _ _ _ _ | .lockstepMismatch _ | .pluginTimeout _ _ | .read64 _ | .write64 _ _ _
  | .data64 _ | .wack _ | .seasonMapUpdate _ | .poisonReport _ | .capacityRequest _ | .capacityReport _ _
  | .alert _ _ _ _ | .flitCrcFail _ | .integrityTagFailure _ | .stackRingLinkDown _ | .packageRingLinkDown _ _
  | .zozanPortFailure _ _ | .slotWrite _ _ _ | .slotRead _ _ | .slotEnqr _ _ _ _ | .slotData _ _ _ _ | .slotWack _ _
  | .slotOutcome _ _ _ | .slotFault _ _ _ | .slotGone _ _ | .slotDrain _ _ | .slotAllow _ _ | .slotReinject _
  | .slotCrcReplay _ _ _ | .reservedEncoding _ | .fetchFault _ _ | .vfEnable _ | .portLinkUp _ _
  | .hostQueueCreate _ _ _ _ | .rackRingLinkDown _ _ | .stackLinkProtocolError _ | .slotProtocolError _ _
  | .spareTileTakeover _ _ _ => none

/-- Decode what `encode` writes. -/
def decodeCode : Code → Dec Instr
  | .words [w] => decodeWords w 0#32 0#32
  | .words [w, x] => decodeWords w x 0#32
  | .words [w, x, y] => decodeWords w x y
  | .words _ => .error .needsExtension
  | .engine c w => decodeEngine c w

/-! ### Latency bounds (03 R80, 06 R140, 09 R213, 10 R234, 11 R251) -/

/-- The bound that an LB code names (03 R80). -/
def lbCycles (lb : BitVec 4) : Nat :=
  [1, 2, 3, 4, 6, 8, 12, 16, 24, 32, 48, 64, 96, 128, 192, 256].getD lb.toNat 256

/-- The minimum bound of a VX operation, by the op value of 03 R87 and its type (06 R140). -/
def vxBound (op : Nat) (t : VTy) : Nat :=
  match op with
  | 1 | 2 => if t.isFp then 4 else 2
  | 3 | 4 | 5 | 6 => 4
  | 7 | 8 => 24
  | 9 | 10 => 2
  | 13 | 14 => 16
  | 22 => 4
  | 24 | 30 | 33 | 34 | 35 | 45 | 58 | 59 => 2
  | 32 | 36 | 48 => 4
  | 40 => 12
  | 41 | 42 => 8
  | 43 => 16
  | 44 => 32
  | 61 => 96
  | _ => 1

/-- The minimum bound of an amended word of a class. -/
def minBound (cls : BitVec 3) (w : BitVec 80) : Nat :=
  let op := (EWord.split w).op.toNat
  match cls.toNat with
  | 1 => vxBound (op / 8) ((VTy.ofCode (op % 8)).getD .f32)
  | 2 => if op = 8 then 16 else 1
  | _ => 1

end Sys2Proof
end

