-- ==== Sys2Proof/Machine/Fp.lean ====
section
/-! DEFINITION. Number formats and exact arithmetic (02 R40 to R61): decoded values are exact dyadic numbers, every result is
rounded once from them. -/
namespace Sys2Proof.Machine

/-- A decoded value: NaN, an infinity, or (-1)^neg × m × 2^e; a zero keeps its sign (02 R42, R44, R45). -/
inductive Num where
  | nan
  | inf (neg : Bool)
  | fin (neg : Bool) (m : Nat) (e : Int)
deriving DecidableEq, Repr

def Num.zero : Num := .fin false 0 0
def Num.ofInt (i : Int) : Num := .fin (decide (i < 0)) i.natAbs 0
def Num.isNan : Num → Bool | .nan => true | _ => false
def Num.isInf : Num → Bool | .inf _ => true | _ => false
def Num.isZero : Num → Bool | .fin _ 0 _ => true | _ => false
def Num.isNeg : Num → Bool | .inf n => n | .fin n _ _ => n | .nan => false

def Num.neg : Num → Num
  | .nan => .nan
  | .inf n => .inf (!n)
  | .fin n m e => .fin (!n) m e

/-- The value scaled to units of 2^e0, e0 at most its exponent. -/
def scaled (neg : Bool) (m : Nat) (e e0 : Int) : Int :=
  let a : Int := (m * 2 ^ (e - e0).toNat : Nat)
  if neg then -a else a

/-- Exact sum; an exact zero of opposite signs is +0, or -0 under RDN (02 R45). -/
def Num.add (rdn : Bool) : Num → Num → Num
  | .nan, _ => .nan
  | _, .nan => .nan
  | .inf a, .inf b => if a = b then .inf a else .nan
  | .inf a, .fin .. => .inf a
  | .fin .., .inf b => .inf b
  | .fin na ma ea, .fin nb mb eb =>
    let e0 := min ea eb
    let r := scaled na ma ea e0 + scaled nb mb eb e0
    if r = 0 then .fin (if ma = 0 ∧ mb = 0 ∧ na = nb then na else rdn) 0 0
    else .fin (decide (r < 0)) r.natAbs e0

/-- Exact product (02 R45, 06 R143). -/
def Num.mul : Num → Num → Num
  | .nan, _ => .nan
  | _, .nan => .nan
  | .inf a, .inf b => .inf (a != b)
  | .inf a, .fin b m _ => if m = 0 then .nan else .inf (a != b)
  | .fin a m _, .inf b => if m = 0 then .nan else .inf (a != b)
  | .fin a ma ea, .fin b mb eb => .fin (a != b) (ma * mb) (ea + eb)

/-- Quotient to 64 bits and a sticky bit below them, which rounds as the exact quotient does (06 R143). -/
def Num.div : Num → Num → Num
  | .nan, _ => .nan
  | _, .nan => .nan
  | .inf _, .inf _ => .nan
  | .inf a, .fin b _ _ => .inf (a != b)
  | .fin a _ _, .inf b => .fin (a != b) 0 0
  | .fin a ma ea, .fin b mb eb =>
    if mb = 0 then (if ma = 0 then .nan else .inf (a != b))
    else if ma = 0 then .fin (a != b) 0 0
    else
      let k := 64 + Nat.log2 mb
      let q := ma * 2 ^ k / mb
      let st := if ma * 2 ^ k % mb = 0 then 0 else 1
      .fin (a != b) (2 * q + st) (ea - eb - k - 1)

/-- floor(√n) by bits from position b down; r is the root so far. -/
def isqrtGo : Nat → Nat → Nat → Nat
  | 0, n, r => if (r + 1) * (r + 1) ≤ n then r + 1 else r
  | b + 1, n, r =>
    let c := r + 2 ^ (b + 1)
    isqrtGo b n (if c * c ≤ n then c else r)

def isqrt (n : Nat) : Nat := isqrtGo (Nat.log2 n / 2 + 1) n 0

/-- Square root to at least 64 bits and a sticky bit below them (06 R143). -/
def Num.sqrt : Num → Num
  | .nan => .nan
  | .inf n => if n then .nan else .inf false
  | .fin n m e =>
    if m = 0 then .fin n 0 0
    else if n then .nan
    else
      let odd := e % 2 ≠ 0
      let m' := (if odd then 2 * m else m) * 2 ^ 128
      let e' := (if odd then e - 1 else e) / 2 - 64
      let r := isqrt m'
      let st := if r * r = m' then 0 else 1
      .fin false (2 * r + st) (e' - 1)

/-! ### Formats (02 R40, R42) -/

/-- Exponent bits, fraction bits, bias, largest finite magnitude as m × 2^e, whether the format has infinities. -/
structure FpFmt where
  ebits : Nat
  mbits : Nat
  bias : Int
  maxM : Nat
  maxE : Int
  hasInf : Bool
  canon : Nat
deriving DecidableEq, Repr

def f32Fmt : FpFmt := ⟨8, 23, 127, 2 ^ 24 - 1, 104, true, 0x7FC00000⟩
def f16Fmt : FpFmt := ⟨5, 10, 15, 2 ^ 11 - 1, 5, true, 0x7E00⟩
def bf16Fmt : FpFmt := ⟨8, 7, 127, 2 ^ 8 - 1, 120, true, 0x7FC0⟩
def e4m3Fmt : FpFmt := ⟨4, 3, 7, 14, 5, false, 0x7F⟩
def e5m2Fmt : FpFmt := ⟨5, 2, 15, 7, 13, true, 0x7E⟩

def FpFmt.width (f : FpFmt) : Nat := 1 + f.ebits + f.mbits

/-- The value of a pattern (02 R42). -/
def FpFmt.decode (f : FpFmt) (bits : Nat) : Num :=
  let s := natBit bits (f.ebits + f.mbits)
  let e := (bits / 2 ^ f.mbits) % 2 ^ f.ebits
  let fr := bits % 2 ^ f.mbits
  if e = 2 ^ f.ebits - 1 ∧ f.hasInf then (if fr = 0 then .inf s else .nan)
  else if e = 2 ^ f.ebits - 1 ∧ fr = 2 ^ f.mbits - 1 then .nan
  else if e = 0 then .fin s fr (1 - f.bias - f.mbits)
  else .fin s (2 ^ f.mbits + fr) (e - f.bias - f.mbits)

def FpFmt.signBit (f : FpFmt) (neg : Bool) : Nat := if neg then 2 ^ (f.ebits + f.mbits) else 0

/-- The pattern of ±L (02 R50). -/
def FpFmt.largest (f : FpFmt) (neg : Bool) : Nat :=
  f.signBit neg + (if f.hasInf then (2 ^ f.ebits - 1) * 2 ^ f.mbits - 1 else (2 ^ f.ebits - 1) * 2 ^ f.mbits + 2 ^ f.mbits - 2)

/-- The pattern of ±∞; ±448 in E4M3 (02 R50). -/
def FpFmt.infinity (f : FpFmt) (neg : Bool) : Nat :=
  if f.hasInf then f.signBit neg + (2 ^ f.ebits - 1) * 2 ^ f.mbits else f.largest neg

/-- Whether a magnitude that is cut at a quantum rounds up: `odd` is the last kept bit, `rem` the part cut off, `half` half
a quantum (02 R49). -/
def roundsUp (m : Rm) (neg odd : Bool) (rem half : Nat) : Bool :=
  match m with
  | .rne => decide (half < rem) || (decide (rem = half) && odd)
  | .rtz => false
  | .rup => !neg && decide (rem ≠ 0)
  | .rdn => neg && decide (rem ≠ 0)
  | .sr => false

/-- The quantum exponent of a finite non-zero magnitude m × 2^e (subnormals included). -/
def FpFmt.quantum (f : FpFmt) (m : Nat) (e : Int) : Int :=
  max ((Nat.log2 m : Int) + e - f.mbits) (1 - f.bias - f.mbits)

/-- m × 2^e cut at 2^q: the kept integer, the part cut off and half a quantum, both in units of 2^e (1 when e ≥ q). -/
def cutAt (m : Nat) (e q : Int) : Nat × Nat × Nat :=
  if q ≤ e then (m * 2 ^ (e - q).toNat, 0, 1)
  else
    let k := (q - e).toNat
    (m / 2 ^ k, m % 2 ^ k, 2 ^ (k - 1))

/-- The pattern of c × 2^q, c at most 2^(mbits+1), or the overflow result of the mode (02 R50). -/
def FpFmt.pack (f : FpFmt) (m : Rm) (neg : Bool) (c : Nat) (q : Int) : Nat :=
  let above := decide (q > f.maxE) && decide (c * 2 ^ (q - f.maxE).toNat > f.maxM) ||
    (decide (q ≤ f.maxE) && decide (c > f.maxM * 2 ^ (f.maxE - q).toNat))
  if above then
    match m with
    | .rne | .sr => f.infinity neg
    | .rtz => f.largest neg
    | .rup => if neg then f.largest neg else f.infinity neg
    | .rdn => if neg then f.infinity neg else f.largest neg
  else if c < 2 ^ f.mbits then f.signBit neg + c
  else
    let (c, q) := if c = 2 ^ (f.mbits + 1) then (2 ^ f.mbits, q + 1) else (c, q)
    f.signBit neg + (q + f.mbits + f.bias).toNat * 2 ^ f.mbits + (c - 2 ^ f.mbits)

/-- round_m(x, fmt) (02 R50); NaN is canonical (R44). -/
def FpFmt.round (f : FpFmt) (m : Rm) : Num → Nat
  | .nan => f.canon
  | .inf n => f.infinity n
  | .fin n 0 _ => f.signBit n
  | .fin n c e =>
    let q := f.quantum c e
    let (k, rem, half) := cutAt c e q
    f.pack m n (if roundsUp m n (k % 2 == 1) rem half then k + 1 else k) q

/-- The floating-point format of a code (02 R40). -/
def fpOf : Fmt → Option FpFmt
  | .fp32 => some f32Fmt
  | .fp16 => some f16Fmt
  | .bf16 => some bf16Fmt
  | .e4m3 => some e4m3Fmt
  | .e5m2 => some e5m2Fmt
  | _ => none

/-- Width of an element in bits (02 R40). -/
def fmtBits : Fmt → Nat
  | .i8 | .n8 | .e4m3 | .e5m2 => 8
  | .i16 | .n16 | .fp16 | .bf16 => 16
  | .i32 | .n32 | .fp32 => 32
  | .i64 | .n64 => 64
  | .c4 => 4

/-- The range of an integer format (02 R41). -/
def intRange : Fmt → Option (Int × Int)
  | .i8 => some (-2 ^ 7, 2 ^ 7 - 1) | .i16 => some (-2 ^ 15, 2 ^ 15 - 1) | .i32 => some (-2 ^ 31, 2 ^ 31 - 1)
  | .i64 => some (-2 ^ 63, 2 ^ 63 - 1) | .n8 => some (0, 2 ^ 8 - 1) | .n16 => some (0, 2 ^ 16 - 1)
  | .n32 => some (0, 2 ^ 32 - 1) | .n64 => some (0, 2 ^ 64 - 1)
  | _ => none

def isSigned : Fmt → Bool
  | .i8 | .i16 | .i32 | .i64 => true
  | _ => false

/-- A pattern of n bits read as two's complement. -/
def asInt (n bits : Nat) : Int :=
  let b := bits % 2 ^ n
  if 2 ^ (n - 1) ≤ b then (b : Int) - 2 ^ n else b

/-- The pattern of n bits of an integer (02 R41). -/
def wrapInt (n : Nat) (i : Int) : Nat := (i % (2 ^ n : Nat)).toNat

/-- decode(bits, fmt) for every format but C4 (02 R42, R53). -/
def decodeFmt (f : Fmt) (bits : Nat) : Num :=
  match fpOf f with
  | some g => g.decode bits
  | none => if isSigned f then .ofInt (asInt (fmtBits f) bits) else .ofInt (bits % 2 ^ fmtBits f : Nat)

def clampInt (lo hi i : Int) : Int := if i < lo then lo else if hi < i then hi else i

/-- Round a finite value to an integer by a mode. -/
def Num.toIntRounded (m : Rm) : Num → Int
  | .fin n c e =>
    let (k, rem, half) := cutAt c e 0
    let r := if roundsUp m n (k % 2 == 1) rem half then k + 1 else k
    if n then -(r : Int) else r
  | _ => 0

/-- convert(x, fmt, m) (02 R51): the pattern. -/
def convert (f : Fmt) (m : Rm) (x : Num) : Nat :=
  match fpOf f with
  | some g => g.round m x
  | none =>
    match intRange f with
    | some (lo, hi) =>
      match x with
      | .nan => 0
      | .inf n => wrapInt (fmtBits f) (if n then lo else hi)
      | x => wrapInt (fmtBits f) (clampInt lo hi (x.toIntRounded m))
    | none => 0

/-- Stochastic rounding of a finite value, not exactly representable, with random word u (02 R52). -/
def FpFmt.roundSr (f : FpFmt) (u : Nat) : Num → Nat
  | .fin n c e =>
    if c = 0 then f.signBit n
    else
      let q := f.quantum c e
      let (k, rem, half) := cutAt c e q
      if rem = 0 then f.round .rne (.fin n c e)
      else f.pack .rne n (if u < rem * 2 ^ 32 / (2 * half) then k + 1 else k) q
  | x => f.round .rne x

/-- Order of two values that are not NaN: by real value, zeros equal (06 R147). -/
def Num.lt : Num → Num → Bool
  | .nan, _ => false
  | _, .nan => false
  | .inf a, .inf b => a && !b
  | .inf a, .fin .. => a
  | .fin .., .inf b => !b
  | .fin na ma ea, .fin nb mb eb =>
    let e0 := min ea eb
    decide (scaled na ma ea e0 < scaled nb mb eb e0)

def Num.eq (a b : Num) : Bool := !a.isNan && !b.isNan && !a.lt b && !b.lt a

/-- The smaller of two (06 R144): NaN if either is; -0 below +0. -/
def Num.min (a b : Num) : Num :=
  if a.isNan || b.isNan then .nan
  else if a.lt b then a else if b.lt a then b else if a.isNeg then a else b

/-- The larger of two (06 R144). -/
def Num.max (a b : Num) : Num :=
  if a.isNan || b.isNan then .nan
  else if a.lt b then b else if b.lt a then a else if a.isNeg then b else a

/-! ### 2^x and log2 x (06 R143): fixed point with 320 fraction bits, and a sticky bit. UNVERIFIED for the hardest cases, log 8 -/

def fxBits : Nat := 320
def fxOne : Nat := 2 ^ fxBits

/-- Σ z^(2k+1) / (2k+1) for k below the number of terms: atanh z, with z and z² in fixed point. -/
def atanhGo : Nat → Nat → Nat → Nat → Nat
  | 0, _, _, _ => 0
  | t + 1, k, zp, z2 => zp / (2 * k + 1) + atanhGo t (k + 1) (zp * z2 / fxOne) z2

def atanhFx (z : Nat) : Nat := atanhGo 110 0 z (z * z / fxOne)

/-- ln 2 = 2 atanh(1/3). -/
def ln2Fx : Nat := 2 * atanhFx (fxOne / 3)

/-- Σ y^k / k!: e^y for 0 ≤ y < 1. -/
def expGo : Nat → Nat → Nat → Nat → Nat
  | 0, _, _, _ => 0
  | t + 1, k, term, y => term + expGo t (k + 1) (term * y / fxOne / (k + 1)) y

/-- 2^(f / 2^320) for a fraction f, in fixed point. -/
def exp2Fx (f : Nat) : Nat := expGo 80 0 fxOne (f * ln2Fx / fxOne)

/-- 2^x. -/
def Num.exp2 : Num → Num
  | .nan => .nan
  | .inf n => if n then .fin false 0 0 else .inf false
  | .fin n m e =>
    if m = 0 then .fin false 1 0
    else if (Nat.log2 m : Int) + e ≥ 10 then .fin false 1 (if n then -1000 else 1000)
    else
      -- x = i + f, with 0 ≤ f < 1 in units of 2^-320; e is at least -149 for an FP32 value
      let v : Int := if n then -((m * 2 ^ (e + fxBits).toNat : Nat) : Int) else ((m * 2 ^ (e + fxBits).toNat : Nat) : Int)
      let i := v / (fxOne : Int)
      let f := (v % (fxOne : Int)).toNat
      if f = 0 then .fin false 1 i else .fin false (2 * exp2Fx f + 1) (i - fxBits - 1)

/-- log2 x. -/
def Num.log2 : Num → Num
  | .nan => .nan
  | .inf n => if n then .nan else .inf false
  | .fin n m e =>
    if m = 0 then .inf true
    else if n then .nan
    else
      let k := Nat.log2 m
      let i : Int := k + e
      let x := m * 2 ^ (fxBits - k)
      if x = fxOne then .ofInt i
      else
        let z := (x - fxOne) * fxOne / (x + fxOne)
        let l := 2 * atanhFx z * fxOne / ln2Fx
        let v : Int := i * (fxOne : Int) + l
        .fin (decide (v < 0)) (if v < 0 then 2 * v.natAbs - 1 else 2 * v.natAbs + 1) (-(fxBits : Int) - 1)

/-! ### Scales and codebooks (02 R47, R48) -/

/-- The value of an E8M2 scale (02 R48). -/
def scaleNum (bits : Nat) : Num :=
  let e := (bits / 4) % 256
  let m := bits % 4
  if e = 255 then .nan else if e = 0 then .fin false m (-128) else .fin false (4 + m) ((e : Int) - 129)

/-- Entry i of a codebook of 16 BF16 patterns (02 R47, 16 R360). -/
def cbEntry (cb : BitVec 256) (i : Nat) : Nat := fld cb (16 * (i % 16) + 15) (16 * (i % 16))

/-! ### Matrix sums (02 R54 to R58) -/

/-- floor(log2 |x|) of a finite non-zero value. -/
def Num.topExp : Num → Option Int
  | .fin _ m e => if m = 0 then none else some ((Nat.log2 m : Int) + e)
  | _ => none

def maxTop : List Num → Option Int
  | [] => none
  | x :: r => match x.topExp, maxTop r with
    | none, b => b
    | a, none => a
    | some a, some b => some (max a b)

/-- The window sum of R56 in units of 2^(E-55), and the sticky bit. -/
def windowSum (E : Int) : List Num → Int × Bool
  | [] => (0, false)
  | .fin n m e :: r =>
    let (s, st) := windowSum E r
    let (k, rem, _) := cutAt m e (E - 55)
    (s + (if n then -(k : Int) else k), st || decide (rem ≠ 0))
  | _ :: r => windowSum E r

/-- group_sum (02 R56). -/
def groupSum (ps : List Num) : Num :=
  if ps.any Num.isNan || (ps.contains (.inf false) && ps.contains (.inf true)) then .nan
  else if ps.contains (.inf false) then .inf false
  else if ps.contains (.inf true) then .inf true
  else match maxTop ps with
    | none => .fin (ps.all Num.isNeg) 0 0
    | some E =>
      let (s, st) := windowSum E ps
      if s = 0 then .fin false 0 0
      else .fin (decide (s < 0)) (2 * s.natAbs + b2n st) (E - 56)

/-- The group value: group sum, times the scales where there are any, rounded to FP32 (02 R56, R57). -/
def groupValue (ps : List Num) (scales : Option (Num × Num)) : Num :=
  let v := groupSum ps
  let v := match scales with
    | none => v
    | some (sa, sb) => (v.mul sa).mul sb
  f32Fmt.decode (f32Fmt.round .rne v)

/-- acc := round_rne(acc + g, FP32) (02 R58). -/
def accAdd (acc : Nat) (g : Num) : Nat := f32Fmt.round .rne ((f32Fmt.decode acc).add false g)

/-! ### Praline (02 R62) and the winner rule (R64) -/

def pralineH (x : W32) : W32 :=
  let x := x ^^^ (x >>> 15)
  let x := x * 0x2C1B3C6D#32
  let x := x ^^^ (x >>> 12)
  let x := x * 0x297A2D39#32
  x ^^^ (x >>> 15)

/-- praline(K, C) (02 R62). -/
def praline (k c : Word) : W32 :=
  let a := pralineH (c.extractLsb' 0 32 ^^^ k.extractLsb' 0 32)
  pralineH (a + (c.extractLsb' 32 32 ^^^ k.extractLsb' 32 32))

/-- The index of the first candidate whose running sum exceeds w. -/
def winnerGo : List Nat → Nat → Nat → Nat → Nat
  | [], _, _, _ => 0
  | t :: r, run, w, i => if w < run + t then i else winnerGo r (run + t) w (i + 1)

/-- winner(c_0 … c_(n-1), draw): the index of the winner (02 R64). -/
def winner (tickets : List Nat) (draw : Nat) : Nat :=
  let total := sumOf tickets
  if total = 0 then 0 else winnerGo tickets 0 (draw * total / 2 ^ 32) 0

end Sys2Proof.Machine
end

