-- ==== Sys2Proof/Config.lean ====
section
/-! DEFINITION. What an implementation fixes and the free values: constants without a body, which no proof can evaluate. -/
namespace Sys2Proof

/-- Whether a translation made before a table write is in force reads the old entry (08 R203, 15 R330). The argument is
`State.freeCtr`. DESIGN CHOICE, log 5. -/
opaque Config.staleRead : Nat → Bool

/-- The bits that decrypting a sector under a key other than the one it was written under gives (12 R281): memory key of
the byte, the key it was written under, the key it is read under. DESIGN CHOICE, log 6. -/
opaque Config.wrongKeyByte : Nat → Nat → Nat → Byte

/-- Which of two permitted sources an overlapping copy byte receives (11 R256): true, the byte as the command found it.
The arguments are `State.freeCtr` and the memory key of the source byte. DESIGN CHOICE, log 5. -/
opaque Config.overlapOld : Nat → Nat → Bool

/-- The bytes of a hash, signature, ciphertext or nonce that the device makes, as a number of the given width in bits
(21 R438 to R440, 12 R289): a name of the item, the width, and `State.freeCtr`. DESIGN CHOICE, log 7. -/
opaque Config.secret : Nat → Nat → Nat → Nat

/-- A word that the spec leaves open: TRAP_INFO of a POISON for which no rule gives one (06 R160, 10 R250). The argument is
`State.freeCtr`. DESIGN CHOICE, log 5. -/
opaque Config.openWord : Nat → Word

/-- The ring positions at which packages are present on the rack rings, one bit each (22 R441): what a station learns at
bring-up. The argument is the station. DESIGN CHOICE, log 24. -/
opaque Config.rackMembers : Nat → Word

/-- The tenant that scheduler-level firmware gives the PF of a port at bring-up (21 R423, 23 R458). DESIGN CHOICE, log 24. -/
opaque Config.pfTenant : Bool → BitVec 8

/-- Whether two or more symbols in error of a stack sector are miscorrected, and so go undetected (12 R277): the arguments are `State.freeCtr` and the poison unit. DESIGN CHOICE, log 62. -/
opaque Config.undetected : Nat → Nat → Bool

/-- The byte that an undetected error gives (12 R277): `State.freeCtr` and the memory key. DESIGN CHOICE, log 62. -/
opaque Config.miscorrected : Nat → Nat → Byte

/-- Whether a PC's row bus carries a refresh in this cycle (12 R269, R273): `State.freeCtr`, the stack and the PC. The spec gives no
refresh interval. DESIGN CHOICE, log 63. -/
opaque Config.refreshDue : Nat → Nat → Nat → Bool

/-- What the stack bonded at HS-k reports of itself (12 R293), as the 128 bits of a report's body; the fields that change with its
state are taken from there. DESIGN CHOICE, log 64. -/
opaque Config.stackBody : Nat → BitVec 128

/-- Whether a channel of a stack can be trained at bring-up (12 R276): the stack and the channel. DESIGN CHOICE, log 64. -/
opaque Config.trains : Nat → Nat → Bool

/-- The near-memory microcode slots 8 to 15 of a stack that scheduler-level firmware loads at bring-up, one bit each (12 R286).
DESIGN CHOICE, log 64. -/
opaque Config.microcode : Nat → BitVec 16

/-- Where the members of a ring domain stand that are in other packages (14 R324): `State.freeCtr` and the team. DESIGN CHOICE, log
78. -/
opaque Config.farPhase : Nat → Nat → BitVec 2

end Sys2Proof
end

