-- ==== Sys2Proof/Machine/State.lean ====
section
/-! DEFINITION. The state of the package as plain data (01 R38, 04, 07, 10, 12 to 23) and its value after package reset.
Sparse maps hold what differs from reset; INVENTORY.md lists every item with its rule and reset value. -/
namespace Sys2Proof.Machine

/-- A fault as an operation of the model reports it before it becomes a trap: code and TRAP_INFO (20 R404). -/
structure Flt where
  code : Nat
  info : Nat
deriving DecidableEq, Repr

/-! ### Slot -/

/-- What an engine command queue entry holds (13 R295): an amended engine word, a class 6 word, or a MOVX write. -/
inductive Cmd where
  | eng (word : BitVec 80)
  | sy (i : Instr)
  | movx (d : BitVec 5) (val : Word)
deriving DecidableEq, Repr

/-- An entry of an engine command queue (13 R295, R296) with what is bound at dispatch: captured S values (03 R70, 11 R251),
token routes (03 R77), region mode (03 R83), PRALINE_SEED, STAMP_BASE and SLIP_DEPTH (04 R107). `ord` is the position in
program order, `pos` the position among the engine words of its stream (03 R84), `xOld` the X register that the post-increment
of an issued entry changes, with the value it read (09 R217). -/
structure Entry where
  cmd : Cmd
  pop : Bool := false
  push : Bool := false
  last : Bool := false
  popF : BitVec 3 := 0#3
  pushF : BitVec 3 := 0#3
  tag : Word := 0#64
  seq : W32 := 0#32
  ord : Nat := 0
  pos : Nat := 0
  caps : SMap Word := []
  scoreboard : Bool := false
  seed : Word := 0#64
  stampBase : Word := 0#64
  slip : Nat := 0
  issued : Bool := false
  xOld : Option (BitVec 5 × Word) := none
deriving DecidableEq, Repr

/-- A fault held after retirement (20 R405). -/
structure Latch where
  flt : Flt
  tag : Word
deriving DecidableEq, Repr

/-- One engine of a slot: command queue, the entry that has issued and is being executed (03 R67, 13 R297: MARK, a wait of SY),
sequence and retired numbers (13 R296), numbers retired out of turn, entries set aside by a cut (20 R409), stream PC (01 R18),
pending latch (20 R405), the number of engine words dispatched, and for the last words issued their position with the DCC value
c + L up to which a PD that names them waits (03 R84). -/
structure EngQ where
  entries : List Entry := []
  active : Option Entry := none
  seqNo : W32 := 0#32
  retired : W32 := 0#32
  early : List W32 := []
  aside : List Entry := []
  pc : Word := 0#64
  latch : Option Latch := none
  words : Nat := 0
  bounds : List (Nat × Nat) := []
deriving DecidableEq, Repr

/-- A register that a covered result names (03 R80, R81). -/
inductive Dest where
  | v (r : BitVec 5)
  | k (r : BitVec 3)
  | g (r : BitVec 3)
  | x (view : BitVec 2) (r : BitVec 5)
deriving DecidableEq, Repr

/-- A covered result and the lanes of it that have not landed (03 R81). -/
structure Result where
  dest : Dest
  val : BitVec 2048
  lanes : Word
deriving DecidableEq, Repr

/-- The results of an issued command that have not all landed; its tag clears and its token becomes visible with the last of
them (03 R77, R85). They land by the DCC value `due` at the latest (03 R80). -/
structure Landing where
  eng : Engine
  results : List Result
  ta : Option (BitVec 4)
  pushF : Option (BitVec 3)
  pos : Nat
  due : Nat
deriving DecidableEq, Repr

/-- One lane of a vector access: its address as the program forms it, its memory key (0 when remote), the key id that the
buffer names, and for an access through Zozan the window and offset (09 R219, R221). -/
structure LaneAcc where
  lane : Nat
  addr : Nat
  size : Nat
  key : Nat
  kid : Nat
  remote : Option (Nat × Nat) := none
deriving DecidableEq, Repr

/-- A load issued and not yet placed (08 R194, 09 R217). -/
structure LoadAcc where
  entry : Entry
  q : Bool
  d : BitVec 5
  sx : Bool
  mask : Word
  lanes : List LaneAcc
  data : BitVec 2048
  poison : Word
  poisonAddr : Nat
  flt : Option Flt
  fltLane : Nat := 0
deriving DecidableEq, Repr

/-- An entry of the load data queue or of the LD→MX data queue (13 R295, R300). -/
structure LoadData where
  d : BitVec 5
  mask : Word
  data : BitVec 2048
  poison : Word
  poisonAddr : Nat
  flt : Option Flt
  pushF : Option (BitVec 3)
  tag : Word
deriving DecidableEq, Repr

/-- What one lane of a store writes: e bytes, a nibble, or an atomic (09 R219, R223, R224). -/
inductive StoreKind where
  | plain
  | nibble (hi : Bool)
  | atomic (op : AmoOp) (t : ATy) (cmp : W32)
deriving DecidableEq, Repr

/-- One lane of a store. -/
structure StoreLane where
  acc : LaneAcc
  val : W32
  kind : StoreKind
deriving DecidableEq, Repr

/-- A store-queue command from its issue to its retirement, or parked (13 R295, R301, R303): the right it needs, the address
of the lowest lane that met an uncorrectable error, the phase its bytes count toward (14 R323), a fault that its target
returned (09 R221). -/
structure StoreAcc where
  entry : Entry
  lanes : List StoreLane
  right : Nat
  bad : Option Nat
  phase : W32
  flt : Option Flt := none
deriving DecidableEq, Repr

/-- A CP command in the issue journal (13 R304) with the X values read at issue, the unit that comes next (11 R255), whether a
fault stopped it, its pieces outstanding at base dies (11 R259), whether a unit met an uncorrectable error, its snapshot of
sharding tables (15 R341), the phase its bytes count toward (14 R323), and the bytes that it has overwritten, with their
poison, as it found them (11 R256). -/
structure CopyJob where
  instr : Instr
  entry : Entry
  xd : Word
  xs : Word
  unit : Nat
  stopped : Bool
  pieces : Nat
  err : Bool
  snap : List (Nat × Nat)
  phase : W32
  was : SMap (Byte × Bool) := []
deriving DecidableEq, Repr

/-- A fence in force for the words after position `ord` (08 R201). -/
structure Fence where
  ord : Nat
  kind : FenceKind
  scope : Scope
deriving DecidableEq, Repr

/-- What holds the dispatcher of a slot (03 R83, 14 R322, 05 R132). -/
inductive Hold where
  | free
  | region (scoreboard : Bool)
  | rndv
  | arb (window : Bool) (v : Word)
deriving DecidableEq, Repr

/-- Part of the task that the dispatcher runs (05 R136). -/
inductive Part where
  | idle | prologue | kernel | epilogue | ended
deriving DecidableEq, Repr

/-- The job of a slot (01 R18, R19; 05 R136; 20 R409, R412). `task` is die × 2048 + in-flight index. `marks` holds per engine
the sequence number of the first flagged word of the iteration (01 R20); `bounds` holds, oldest first, the boundaries of the
ENDJs dispatched that are not known to be passed: the number that each engine has to retire (01 R20, 05 R137). -/
structure Job where
  part : Part := .idle
  iter : Nat := 0
  trip : Nat := 0
  kernelPc : Word := 0#64
  epiloguePc : Word := 0#64
  task : Option Nat := none
  team : Nat := 0
  reads : List (Word × Nat) := []
  writes : List (Word × Nat) := []
  marks : SMap W32 := []
  bounds : List (List W32) := []
  iterStart : Word := 0#64
  stopped : Bool := false
  preempted : Bool := false
  preemptReq : Bool := false
deriving DecidableEq, Repr

/-- Domain byte counts (18 R386) with the overrun of the phase (14 R325) and the address tag of the arrival; `due` holds the
number of a phase that closed after an ARRIVE and whose SYNC.W has not come (14 R324). -/
structure DomCounts where
  phase : W32 := 0#32
  rx : W32 := 0#32
  rxNext : Nat := 0
  arrived : Bool := false
  overrun : Bool := false
  due : Option W32 := none
  tag : Word := 0#64
deriving DecidableEq, Repr

/-- A BWPHASE hold in force (07 R187): banks of the tile, DRAM regions, and the DCC value at which it ends. -/
structure BwHold where
  banks : Nat
  regions : List (Nat × Nat)
  till : Option Nat
deriving DecidableEq, Repr

/-- The register files of a slot (04 R99). -/
structure Regs where
  s : SMap Word := []
  p : BitVec 8 := 0x01#8
  x : SMap Word := []
  v : SMap (BitVec 2048) := []
  k : SMap Word := []
  g : BitVec 8 := 0x80#8
  tags : BitVec 80 := 0#80
deriving DecidableEq, Repr

/-- The system registers of a slot (04 R106). -/
structure SysRegs where
  inTrap : Bool := false
  prevLevel : BitVec 2 := 0#2
  level : BitVec 2 := 0#2
  scoreboard : Bool := false
  stampBase : Word := 0#64
  seed : Word := 0#64
  bwphase : Word := 0#64
  slip : Nat := 16
  spill : SMap Word := []
  iterBudget : W32 := 0#32
  redMax : W32 := 65536#32
  domain : Word := 0#64
  tenant : BitVec 8 := 0#8
  ctx : BitVec 12 := 0#12
  cause : W32 := 0#32
  trapPc : Word := 0#64
  trapInfo : Word := 0#64
  cutBase : Word := 0#64
  csaBase : Word := 0#64
  reloc : SMap Word := []
deriving DecidableEq, Repr

/-- The engines of a slot (13 R295). -/
structure Engines where
  ld : EngQ := {}
  st : EngQ := {}
  vx : EngQ := {}
  mx : EngQ := {}
  cp : EngQ := {}
  sy : EngQ := {}
deriving DecidableEq, Repr

/-- A sequencer slot (01 R15, R38). `yieldVx` and `yieldCp` hold the sequence number of the last command dispatched before the first
YIELD of a quantum (05 R135); `pairDue` holds PAIR_ABANDON of a pair that stopped in STAMPED mode with the DCC value at which it is
raised (10 R245). -/
structure Slot where
  r : Regs := {}
  y : SysRegs := {}
  pc : Word := 0#64
  tmpl : SMap (BitVec 80) := []
  e : Engines := {}
  loads : List LoadAcc := []
  ldq : List LoadData := []
  mxq : List LoadData := []
  storeQ : List StoreAcc := []
  replay : List StoreAcc := []
  stuck : List Nat := []
  journal : List CopyJob := []
  landings : List Landing := []
  fifoVis : SMap Nat := []
  fifoRes : SMap Nat := []
  routePop : SMap (BitVec 3) := []
  routePush : SMap (BitVec 3) := []
  redOpen : Bool := false
  redCount : Nat := 0
  vrand : Word := 0#64
  draws : Word := 0#64
  rsc : SMap Word := []
  outcomes : List (BitVec 4 × EnqrOutcome) := []
  dom : DomCounts := {}
  compVx : Nat := 0x10000
  compCp : Nat := 0x10000
  fences : List Fence := []
  fencesAside : List Fence := []
  hold : Hold := .free
  ord : Nat := 0
  job : Job := {}
  drain : Option (Flt × Word × Nat) := none
  bwHold : Option BwHold := none
  yieldVx : Option Nat := none
  yieldCp : Option Nat := none
  lendSince : Option Nat := none
  pairDue : Option (Nat × Latch) := none
deriving DecidableEq, Repr

/-! ### Tile -/

/-- A product table: the codebooks it was built from and their slots (10 R231). -/
structure PTab where
  slotA : BitVec 3
  slotB : BitVec 3
  a : BitVec 256
  b : BitVec 256
deriving DecidableEq, Repr

/-- An accumulating command whose queue entries come while it runs (10 R234, R236): its tile, K and product table, its format register,
the base and row pitch of its A operand where that lies in a bank and of its B operand, the number of rows of A, the entries to pop
and those popped, and the K-steps that the array has added; in a pair, the slot of the other side and its format registers. -/
structure MmaFeed where
  z : Nat
  k : Nat
  pt : Nat
  fa : BitVec 16
  fb : BitVec 16
  a : Option (Nat × Nat)
  b : Nat × Nat
  rows : Nat
  need : Nat
  got : List LoadData
  steps : Nat
  pair : Option Nat
deriving DecidableEq, Repr

/-- The MX command that occupies the array: its slot, entry, the DCC value at which its occupancy ends, the banks that it reserves
until then, whether it has retired already, and what it still has to take from the data queue (10 R234, 07 R176). -/
structure MxBusy where
  slot : Nat
  entry : Entry
  till : Nat
  banks : Nat
  done : Bool := false
  feed : Option MmaFeed := none
deriving DecidableEq, Repr

/-- The holder of an engine (01 R35): slot, the DCC value of its draw, and for MX whether it opened a reduction. -/
structure Quantum where
  slot : Nat
  start : Nat
  opened : Bool
deriving DecidableEq, Repr

/-- A claim of a team on a bank format register (cb = false) or codebook slot (27 R472). -/
structure Claim where
  team : Nat
  cb : Bool
  idx : Nat
  val : Nat
deriving DecidableEq, Repr

/-- A tile (01 R14, R38). Accumulator column c of tile Zn is entry n × 64 + c of `z`, row m at lane m; `zLast` holds the tenant
and team of each tile's last holder (07 R178). `grants` holds per granule the teams that it was granted to when their launch was
placed (07 R169); `turns` holds per arbiter that serves slots in turn (0, 1: the dispatchers of CC-A and CC-B; 2: LD, 3: ST, 4: SY)
the slot served last and the words taken in its turn (01 R16, R26). -/
structure Tile where
  grants : SMap (List Nat) := []
  turns : SMap (Nat × Nat) := []
  stamped : Bool := false
  windowLen : Nat := 256
  seed : Word := 0#64
  drawMx : BitVec 56 := 0#56
  drawVx : BitVec 56 := 0#56
  drawCp : BitVec 56 := 0#56
  holdMx : Option Quantum := none
  holdVx : Option Quantum := none
  holdCp : Option Quantum := none
  z : SMap (BitVec 2048) := []
  zPoison : List Nat := []
  zStatus : SMap (BitVec 8) := []
  zAlloc : SMap (Option Nat) := []
  zLast : SMap (Option (Nat × Nat)) := []
  spillCol : SMap (Option (Nat × Nat)) := []
  ptab : SMap (Option PTab) := []
  codebook : SMap (BitVec 256) := []
  fmt : SMap (BitVec 16) := []
  claims : List Claim := []
  owner : SMap (BitVec 24) := []
  spillGran : SMap (Option Nat) := []
  season : SMap (BitVec 2) := []
  lastUse : SMap Nat := []
  busy : Option MxBusy := none
  spareUsed : Option Bool := none
deriving DecidableEq, Repr

/-! ### Scheduling -/

/-- What a launch description declares for one member (21 R434): granules, bank formats, codebook slots. -/
structure Decl where
  granules : Nat := 0
  banks : List (Nat × Nat) := []
  codebooks : List (Nat × Nat) := []
deriving DecidableEq, Repr

/-- A task record as read at entry (16 R350); ranges of length 0 are left out. -/
structure TaskRec where
  prologue : Word
  kernel : Word
  epilogue : Word
  trip : Nat
  domain : Word
  stampBase : Word
  budget : W32
  redMax : Nat
  ctx : Nat
  flags : Nat
  slip : Nat
  nin : Nat
  inputs : List W32
  reads : List (Word × Nat)
  writes : List (Word × Nat)
deriving DecidableEq, Repr

/-- A task-queue entry (13 R305): record address and future handle, with the RELOC values of its slot (28 R477, 21 R435),
the launch and member it belongs to, and the launch tag of its queue (20 R420). -/
structure TqEntry where
  record : Word
  handle : W32
  relocs : List Word
  decl : Decl
  launch : Nat
  member : Nat
  members : Nat
  spawned : Bool
  tag : Option Nat
deriving DecidableEq, Repr

/-- State of an in-flight task (16 R352). -/
inductive TaskState where
  | waiting | ready | resident | swapped | finished
deriving DecidableEq, Repr

/-- An in-flight entry (16 R352) with its queue entry, its record as read at entry (16 R350), the tasks and futures it waits for,
and its reference list (19 R393). -/
structure Task where
  state : TaskState
  ctx : Nat
  team : Nat
  tq : TqEntry
  rc : TaskRec
  preds : List Nat
  futPreds : List W32
  refs : List W32
  slot : Option Nat
deriving DecidableEq, Repr

/-- Where a team stands (20 R412 to R415). -/
inductive TeamState where
  | waiting | resident | stopping | preempted | swapped
deriving DecidableEq, Repr

/-- Per-team tile state written to the swap area (20 R415). -/
structure TileImage where
  tile : Nat
  z : SMap (BitVec 2048)
  zStatus : SMap (BitVec 8)
  zAlloc : SMap (Option Nat)
  zSpill : SMap (Option (Nat × Nat))
  zPoison : List Nat
  ptab : SMap (Option PTab)
  claims : List Claim
  granules : List Nat
  spillGran : Option Nat
  used : List Nat
  bytes : List Host.Cell
  poison : List Nat
deriving DecidableEq, Repr

/-- A team (01 R21): its home die, context, record, domain level and size, its member tasks and their slots in member order,
its state, the DCC value at which it became ready, and its swap image (20 R415). -/
structure Team where
  die : Nat := 0
  ctx : Nat := 0
  record : Word := 0#64
  level : Nat := 0
  size : Nat := 0
  tasks : List Nat := []
  state : TeamState := .waiting
  since : Nat := 0
  slots : List Nat := []
  image : List TileImage := []
deriving DecidableEq, Repr

/-- State of a future (18 R382). -/
inductive FutState where
  | free | pending | done | reclaimed
deriving DecidableEq, Repr

/-- A future record (18 R382); `front` says that the front end holds a reference (18 R383), `record` is the task's record. -/
structure Future where
  state : FutState := .free
  gen : Nat := 0
  count : Nat := 0
  ctx : Nat := 0
  task : Option Nat := none
  front : Bool := false
  record : Word := 0#64
deriving DecidableEq, Repr

/-- A notice to scheduler-level firmware (20 R404). -/
structure Report where
  code : Nat
  slot : Nat
  info : Nat
deriving DecidableEq, Repr

/-- A die (01 R12); `pool` and `poolTile` are the size and tile of the queue pool in force (13 R309). -/
structure Die where
  pool : Nat := 0
  poolTile : Nat := 0
  seed : Word := 0#64
  draw : BitVec 56 := 0#56
  lastCtx : Nat := 4095
  precede : Option Nat := none
  pair1 : Bool := false
  failed : Bool := false
  cwDown : Bool := false
  ccwDown : Bool := false
  reserve : List (Nat × Nat) := []
  reports : List Report := []
deriving DecidableEq, Repr

/-! ### Base dies -/

/-- A message on a stack link (12 R290, R291). -/
inductive LinkMsg where
  | data (h : LinkHdr) (data : BitVec 512)
  | wack (h : LinkHdr)
  | season (event region count : Nat)
  | poison (h : LinkHdr)
  | capRep (r : CapReport)
deriving DecidableEq, Repr

/-- A piece of a near-memory command on its way to the base die of its destination (12 R286, R292): op is the engine slot,
`addr` in-stack, n elements; `slot` and `seq` name the journal entry, `ord` the command's position in program order (11 R265);
`whole` marks a piece of a region that a zero fill covers (11 R264). -/
structure NmPiece where
  slot : Nat
  seq : W32
  op : Nat
  stack : Nat
  addr : Nat
  kid : Nat
  sstack : Nat
  saddr : Nat
  skid : Nat
  a : W32
  lam : W32
  n : Nat
  done : Bool
  err : Bool
  ord : Nat := 0
  whole : Bool := false
deriving DecidableEq, Repr

/-- An exact partial sum of NMSUM on its way from the base die of a stack to that of the result (11 R261, 12 R292): in units of
2^-149. -/
structure NmPartial where
  slot : Nat
  seq : W32
  stack : Nat
  sum : Int
  nan : Bool
  pinf : Bool
  ninf : Bool
  negz : Bool
  poison : Bool
deriving DecidableEq, Repr

/-- The NMSUM results being combined (11 R261): journal entry, result address, parts still to come, sum so far, and the position of
the command in program order (11 R265). -/
structure NmSum where
  slot : Nat
  seq : W32
  ord : Nat := 0
  stack : Nat
  addr : Nat
  kid : Nat
  left : Nat
  acc : NmPartial
deriving DecidableEq, Repr

/-- The commands of a PC's two buses (12 R269): activate, precharge, refresh and power-down on the row bus, read and write on the
column bus. -/
inductive PcOp where
  | activate | precharge | refresh | powerDown | read | write
deriving DecidableEq, Repr

/-- A command in a PC's history buffer (12 R272): the command, which names its bus, and its unit, its timing stamp, the data of a
write as byte mask and bytes, and the open rows of the PC's banks before it. -/
structure HistCmd where
  op : PcOp
  key : Nat
  stamp : Nat
  data : Option (Word × BitVec 512)
  before : SMap Nat
deriving DecidableEq, Repr

/-- A request in a PC's queue (12 R269): READ64, or WRITE64 with its mask and bytes; `passed` counts the later requests that have
overtaken it (R270). -/
structure PcReq where
  h : LinkHdr
  write : Option (Word × BitVec 512)
  passed : Nat := 0
deriving DecidableEq, Repr

/-- A base die with its stack (12). Per PC: `queues` holds the requests (R269), `hist` the last 32 commands, the oldest first
(R272), and `deaf` a bit that is set while the DRAM dies ignore its commands (R272, R274). `rows` holds the open row of each bank;
`keys` counts the session keys set for its link (R289); `scrubHits` holds per row the scrub passes that met a correctable error
and one more than the number of the last; `rowMap` is keyed by row, `spareUsed` by bank (R279); `refusedReqs` counts the requests
of R268 and R280 that were not served. -/
structure Stack where
  failedPcs : Nat := 0
  queues : SMap (List PcReq) := []
  rows : SMap Nat := []
  deaf : Nat := 0
  hist : SMap (List HistCmd) := []
  linkUp : Bool := false
  keys : Nat := 0
  toStack : List LinkMsg := []
  fromStack : List LinkMsg := []
  nmSlots : BitVec 16 := 0x007F#16
  spareUsed : SMap Nat := []
  scrubHits : SMap (Nat × Nat) := []
  rowMap : SMap Nat := []
  corrections : Nat := 0
  report : Option CapReport := none
  out : Bool := false
  trainTemp : SMap Nat := []
  eDown : Bool := false
  refusedReqs : Nat := 0
deriving DecidableEq, Repr

/-! ### Fabric -/

/-- Operations of ring slots (22 R444). -/
inductive SlotOp where
  | write | read | enqr | data | wack | outcome (o : EnqrOutcome) | fault (code : Nat) | gone | drain | allow
deriving DecidableEq, Repr

/-- A ring slot (22 R444): operation, header and payload beat; `handle` of an ENQR. -/
structure RingSlot where
  op : SlotOp
  h : SlotHdr
  data : BitVec 512
  handle : W32 := 0#32
  poison : BitVec 2 := 0#2
deriving DecidableEq, Repr

/-- What a request on the fabric serves at its origin (22 R445). -/
inductive ReqFor where
  | load (seq : W32)
  | store (seq : W32)
  | copy (seq : W32)
  | enqr (c : BitVec 4)
deriving DecidableEq, Repr

/-- A request for the fabric, from its making to its answer (22 R444, R447, R450): the slot that made it, what it serves, its
window and the VF whose credit it takes; `slot` is its ring slot, `stream` its stream (22 R443). `live` is false where the
command it served was cut. `csa` is the CSA of the task that made it (18 R388), `ord` the position of the command (08 R211); `here` says that it has reached its
station. -/
structure FabReq where
  id : Nat
  who : Nat
  kind : ReqFor
  window : Nat
  vf : Nat
  stream : Nat
  slot : RingSlot
  sent : Bool
  answered : Bool
  live : Bool
  data : BitVec 512
  poison : BitVec 2
  csa : Nat
  ord : Nat := 0
  here : Bool := true
deriving DecidableEq, Repr

/-- A slot on a package ring, on its way from the die of the request to the station that sends it on (01 R10, 13 R312, 22 R443): the
ring, the station, the request id, and the slot. -/
structure PkgSlot where
  ccw : Bool
  station : Nat
  id : Nat
  slot : RingSlot
deriving DecidableEq, Repr

/-- A bridge station (22). `owed` lists the credits taken and not returned, as request id and VF (22 R450); `tokens` the drain
tokens of others that it holds, with the requests that they wait for (22 R452). -/
structure Station where
  members : Word := 1#64
  failedPorts : BitVec 9 := 0#9
  spareFor : Option (BitVec 4) := none
  held : SMap Nat := []
  shares : SMap Nat := []
  sendSeq : SMap (BitVec 16) := []
  relSeq : SMap (BitVec 16) := []
  arrived : List RingSlot := []
  sent : List RingSlot := []
  credits : SMap Nat := []
  owed : List (Nat × Nat) := []
  tokens : List (RingSlot × List Nat) := []
  reserved : Nat := 0
  gone : List (Nat × Nat × Nat) := []
  goneDropped : Nat := 0
  reqs : List FabReq := []
  nextReq : Nat := 0
  returned : List RingSlot := []
  drains : Nat := 0
  cwDown : Bool := false
  ccwDown : Bool := false
deriving DecidableEq, Repr

/-! ### Host -/

/-- TDISP states (21 R424). -/
inductive Tdisp where
  | unlocked | locked | run | error
deriving DecidableEq, Repr

/-- A VF (21 R423, R436). -/
structure Vf where
  enabled : Bool := false
  portB : Bool := false
  state : Tdisp := .unlocked
  nonce : Option (BitVec 256) := none
  teardown : Bool := false
  reenable : Bool := false
  retired : Bool := false
deriving DecidableEq, Repr

/-- A completion entry (21 R432). -/
structure Completion where
  index : Nat
  status : Nat
  handle : W32
  gen : W32
  irq : Bool
deriving DecidableEq, Repr

/-- A command taken and not completed (21 R435): its index, the futures of its tasks that have not ended, the root's future, the
model generation and slot. -/
structure HostCmd where
  index : Nat
  futures : List W32
  root : W32
  gen : W32
  irq : Bool
  model : Nat
deriving DecidableEq, Repr

/-- A host submission queue (21 R429, R430) with its held completions and commands in flight (R432). -/
structure HostQ where
  record : BitVec 128 := 0#128
  tail : W32 := 0#32
  head : W32 := 0#32
  reason : Nat := 0
  stopped : Bool := false
  done : W32 := 0#32
  cqhead : W32 := 0#32
  ready : List Completion := []
  flight : List HostCmd := []
  resetting : Bool := false
deriving DecidableEq, Repr

/-- A model slot (21 R433). -/
structure Model where
  valid : Bool := false
  gen : W32 := 0#32
  descr : Word := 0#64
  buffers : SMap Word := []
  unloading : Bool := false
deriving DecidableEq, Repr

/-- The session state of an SPDM responder (21 R440): the last request answered and whether a session stands. -/
structure Spdm where
  stage : Nat := 0
  handshake : Bool := false
  session : Bool := false
deriving DecidableEq, Repr

/-- An answer that left the device (21 R438, R440): what it answers and its bytes as a number. -/
structure Answer where
  kind : Nat
  value : Nat
deriving DecidableEq, Repr

/-- A host port (21 R423 to R427). -/
structure Port where
  up : Bool := false
  tenant : BitVec 8 := 0#8
  spdm : Spdm := {}
deriving DecidableEq, Repr

/-- The management page and firmware store (23 R459, 21 R439). -/
structure Mgmt where
  ready : Bool := false
  bootFail : Bool := false
  bootStep : Nat := 0
  refused : Bool := false
  powerLimit : Nat := 4800
  powerNow : Nat := 0
  clock : Nat := 16
  evtDie : Nat := 0
  evtIndex : Nat := 0
  image : Nat := 0
  staged : Bool := false
deriving DecidableEq, Repr

/-! ### Moves -/

/-- What moves next (log 3): a slot's dispatcher, an engine of a slot, an event at a slot, or a change of the bits or symbols in error that
a word or sector carries (12 R277, 23 R453; log 62). -/
inductive Move where
  | dispatch (slot : Nat)
  | issue (slot : Nat) (e : Engine)
  | event (slot : Nat) (i : Instr)
  | upset (unit errors : Nat)
deriving DecidableEq, Repr

/-- Whether a word is being dispatched or a queue entry is being issued (log 3). -/
inductive Phase where
  | dispatch
  | issue (e : Entry)
deriving DecidableEq, Repr

/-- A table write not yet in force (15 R330): the entry's map key, its old image, the slot that wrote it and the position of the
word in its program order (08 R201). -/
structure PendWrite where
  key : Nat
  old : Nat
  slot : Nat
  ord : Nat := 0
deriving DecidableEq, Repr

/-- The state of the package. `mem` holds the scratchpad slices and the stacks under the memory keys of Machine/Mem.lean;
an unlisted byte reads 0 (07 R182). `upsets` holds the bits in error of each SRAM word, or the symbols in error of each stack sector,
that the cells carry (12 R277, 23 R453; log 62). `tab` holds the tables of 15 R328 and 16 R346 as entry images, and `caches` the tags
in each translation cache (15 R335). `csa` holds the slots saved, by the address of their CSA (20 R417, R418). `cur`, `phase`,
`agenda` and `freeCtr` are the model's own (log 3, log 5). -/
structure State where
  cur : Nat := 0
  phase : Phase := .dispatch
  agenda : List Move := []
  freeCtr : Nat := 0
  dcc : Word := 0#64
  slots : SMap Slot := []
  tiles : SMap Tile := []
  dies : SMap Die := []
  hbm : SMap Stack := []
  stations : SMap Station := []
  mem : List Host.Cell := []
  used : SMap Bool := []
  poison : SMap Bool := []
  upsets : SMap Nat := []
  sealed : SMap Nat := []
  tab : SMap Nat := []
  pend : List PendWrite := []
  caches : SMap (List Nat) := []
  pkgRing : List PkgSlot := []
  regionUse : SMap Nat := []
  counters : SMap Word := []
  ctrIssuer : SMap (Option Nat) := []
  ctxEvents : SMap Nat := []
  devEvents : SMap Nat := []
  futures : SMap Future := []
  taskQ : SMap (List TqEntry) := []
  tasks : SMap Task := []
  teams : SMap Team := []
  csa : SMap Slot := []
  launches : Nat := 0
  qdata : SMap (BitVec 512) := []
  qActors : SMap (Option Nat × Option Nat) := []
  qSwaps : List Nat := []
  pieces : List NmPiece := []
  partials : List NmPartial := []
  sums : List NmSum := []
  portA : Port := {}
  portB : Port := {}
  tieLoser : Bool := false
  sems : SMap (Option Bool) := []
  vfs : SMap Vf := []
  hq : SMap HostQ := []
  models : SMap Model := []
  mgmt : Mgmt := {}
  answers : List Answer := []
  irqs : List (Nat × Nat) := []
deriving DecidableEq, Repr

/-! ### Stops -/

/-- Why a run of the model stops. -/
inductive Fault where
  /-- `cur` names no slot of the package (01 R15). Raised by `step` alone; no step of the model sets such a `cur`, and the
  spec numbers 3072 slots. Safe. -/
  | noSlot
deriving DecidableEq, Repr

/-- Why an instruction is refused. -/
inductive Refusal where
  /-- Raised by an arm of `exec` for a row without a meaning. Safe. -/
  | notModelled (mnemonic : String)
deriving DecidableEq, Repr

/-- What a meaning answers. -/
abbrev Res := Host.Outcome State Fault Refusal

/-- The package right after reset: every item at the value INVENTORY.md gives (23 R458; log 4 where the spec gives none). -/
def State.reset : State := {}

end Sys2Proof.Machine
end

