-- ==== Sys2Proof/Machine/Mem.lean ====
section
/-! DEFINITION. Memory: keys of bytes, fresh units (07 R182), poison (12 R277, 23 R453), keys of sectors (12 R280, R281),
seasons (07 R184, R185), and the tables of 15 R328 and 16 R346 as entry images.

A byte of a scratchpad slice has its SA as memory key (07 R164). A byte of stack k at in-stack address a has the key
2^40 + k × 2^36 + a (12 R267). -/
namespace Sys2Proof.Machine

/-! ### Parts of the package -/

def State.slot (s : State) (n : Nat) : Slot := mget {} s.slots n
def State.setSlot (s : State) (n : Nat) (x : Slot) : State := { s with slots := mput s.slots n x }
/-- The slot that moves. -/
def State.me (s : State) : Slot := s.slot s.cur
def State.setMe (s : State) (x : Slot) : State := s.setSlot s.cur x
/-- Tiles are numbered die × 48 + logical tile (01 R13). -/
def State.tile (s : State) (t : Nat) : Tile := mget {} s.tiles t
def State.setTile (s : State) (t : Nat) (x : Tile) : State := { s with tiles := mput s.tiles t x }
def State.die (s : State) (d : Nat) : Die := mget {} s.dies d
def State.setDie (s : State) (d : Nat) (x : Die) : State := { s with dies := mput s.dies d x }
def State.stack (s : State) (k : Nat) : Stack := mget {} s.hbm k
def State.setStack (s : State) (k : Nat) (x : Stack) : State := { s with hbm := mput s.hbm k x }
def State.station (s : State) (k : Nat) : Station := mget {} s.stations k
def State.setStation (s : State) (k : Nat) (x : Station) : State := { s with stations := mput s.stations k x }

/-- The tile of a slot: slots are numbered die × 384 + tile × 8 + slot (01 R15). -/
def tileOf (n : Nat) : Nat := n / 8
def dieOf (n : Nat) : Nat := n / 384
/-- DIE and TILE fields of the SAs of a tile (07 R164). -/
def saTile (t : Nat) : Nat := (t / 48) * 64 + t % 48
/-- The tile that an SA names. -/
def tileOfSa (sa : Nat) : Nat := (sa / 2 ^ 28) % 8 * 48 + (sa / 2 ^ 22) % 64

/-! ### Keys -/

def hbmBase : Nat := 2 ^ 40
def hbmKey (stack addr : Nat) : Nat := hbmBase + stack * 2 ^ 36 + addr % 2 ^ 36
def isHbm (k : Nat) : Bool := decide (hbmBase ≤ k)
def stackOf (k : Nat) : Nat := (k - hbmBase) / 2 ^ 36
def stackAddr (k : Nat) : Nat := (k - hbmBase) % 2 ^ 36

/-- Bank of an SA (07 R166). -/
def bankOf (sa : Nat) : Nat := 4 * ((sa / 2 ^ 20) % 4) + (sa / 64) % 4
/-- Bank-local address of an SA (07 R166). -/
def bankLocal (sa : Nat) : Nat := (sa / 256) % 4096 * 64 + sa % 64
/-- The SA of a bank-local address of a bank of a tile. -/
def saOfBank (tile bank loc : Nat) : Nat :=
  saTile tile * 2 ^ 22 + (bank / 4) * 2 ^ 20 + (loc / 64) * 256 + (bank % 4) * 64 + loc % 64
/-- Granule of an SA (07 R168). -/
def granuleOf (sa : Nat) : Nat := (sa / 2 ^ 16) % 64

/-- The region-map index of a stack byte (17 R369). -/
def regionIdx (k : Nat) : Nat := (k - hbmBase) / 2 ^ 36 * 2 ^ 15 + (k - hbmBase) % 2 ^ 36 / 2 ^ 21
/-- The number of the fresh unit of a DRAM region. -/
def regionUnit (idx : Nat) : Nat := 2 ^ 24 + idx
/-- The fresh unit of a byte (07 R182): line part of a slice, or DRAM region. -/
def unitOf (k : Nat) : Nat := if isHbm k then regionUnit (regionIdx k) else (k / 4096) * 4 + (k / 64) % 4
/-- The poison unit of a byte: 8-byte word of SRAM, 32-byte sector of a stack (12 R277, 23 R453). -/
def poisonUnit (k : Nat) : Nat := if isHbm k then k / 32 else k / 8
/-- The home of a byte (08 R190): slice or stack. -/
def homeOf (k : Nat) : Nat := if isHbm k then 2 ^ 20 + stackOf k else k / 2 ^ 22
/-- Whether a fresh unit is a line part of a bank of a tile (07 R166, R182). -/
def unitInBank (tile bank u : Nat) : Bool :=
  decide (u < 2 ^ 24) && decide (u / 2 ^ 10 = saTile tile * 4 + bank / 4) && decide (u % 4 = bank % 4)
/-- Whether a fresh unit is a line part of a granule of a tile (07 R168, R170). -/
def unitInGranule (tile g u : Nat) : Bool := decide (u < 2 ^ 24) && decide (u / 64 = saTile tile * 64 + g)

/-! ### Bytes -/

/-- The canonical form of the memory list: addresses strictly rise and no entry holds 0, which is what an unlisted address
reads as (07 R182). -/
def Memory.wf (m : List Host.Cell) : Bool := mwf m && m.all fun c => decide (c.2 ≠ 0#8)

/-- The byte at a key of the memory list. -/
def Memory.read (m : List Host.Cell) (k : Nat) : Byte := mget 0#8 m k

/-- Write a byte, keeping the canonical form. -/
def Memory.write : List Host.Cell → Nat → Byte → List Host.Cell
  | [], k, b => if b = 0#8 then [] else [(k, b)]
  | (j, v) :: r, k, b =>
    if k < j then (if b = 0#8 then (j, v) :: r else (k, b) :: (j, v) :: r)
    else if k = j then (if b = 0#8 then r else (k, b) :: r)
    else (j, v) :: Memory.write r k b

/-- Whether the unit of a byte is fresh (07 R182). -/
def State.isFresh (s : State) (k : Nat) : Bool := !mget false s.used (unitOf k)

/-- The byte held at a key: 0 in a fresh unit (07 R182). -/
def State.byte (s : State) (k : Nat) : Byte := if s.isFresh k then 0#8 else Memory.read s.mem k

/-- Make every unit that `p` selects fresh: contents, errors, poison and sector keys go (07 R182, R183). -/
def State.freshen (s : State) (p : Nat → Bool) : State :=
  { s with
    mem := s.mem.filter fun c => !p (unitOf c.1)
    used := s.used.filter fun e => !p e.1
    poison := s.poison.filter fun e => !p (unitOf (if 2 ^ 35 ≤ e.1 then e.1 * 32 else e.1 * 8))
    upsets := s.upsets.filter fun e => !p (unitOf (if 2 ^ 35 ≤ e.1 then e.1 * 32 else e.1 * 8))
    sealed := s.sealed.filter fun e => !p (unitOf (e.1 * 32)) }

/-- The first write to a fresh unit: as if the unit were first set to zero (07 R182). -/
def State.open_ (s : State) (k : Nat) : State :=
  if s.isFresh k then
    let s := s.freshen fun u => u == unitOf k
    { s with used := mput s.used (unitOf k) true }
  else s

/-- Write one byte at its home. -/
def State.putByte (s : State) (k : Nat) (b : Byte) : State :=
  let s := s.open_ k
  { s with mem := Memory.write s.mem k b }

/-- Whether a byte is poisoned. A fresh unit reads zero: what its cells held is not read (07 R182). -/
def State.poisoned (s : State) (k : Nat) : Bool := mget false s.poison (poisonUnit k) && !s.isFresh k

/-- The word or sector loses its poison. -/
def State.clearPoison (s : State) (k : Nat) : State := { s with poison := mput s.poison (poisonUnit k) false }

/-- Mark the word or sector of a byte poisoned: in a fresh unit this is its first write (07 R182; 11 R264). -/
def State.markPoison (s : State) (k : Nat) : State :=
  let s := s.open_ k
  { s with poison := mput s.poison (poisonUnit k) true }

/-! ### Tables (15 R328, 16 R346) -/

def tkey (code idx : Nat) : Nat := code * 2 ^ 44 + idx

/-- The reset image of an entry: R331 to R348, R361; 12 R282 without FRESH; 13 R307. -/
def tabReset (code idx : Nat) : Nat :=
  if code = 0x0D then 2
  else if code = 0x11 then (if idx = 0 then 2 ^ 63 else 0)
  else if code = 0x13 then 20 * 2 ^ 12 + 16 * 2 ^ 7
  else if code = 0x16 then 2 ^ 100
  else 0

/-- An entry held in the tables as it stands. -/
def State.tabEntry (s : State) (code idx : Nat) : Nat := mget (tabReset code idx) s.tab (tkey code idx)

/-- The memory key of the first byte of a page-map entry: entry i lies at byte 8i of page-map memory (15 R333; log 40). -/
def pmapKey (idx : Nat) : Nat := hbmBase + 8 * idx

/-- A page-map entry: its fields from page-map memory, and HEAT, which no access observes, from the table (15 R333). -/
def State.pmapEntry (s : State) (idx : Nat) : Nat :=
  let w := leNat ((below 8).map fun i => s.byte (pmapKey idx + i))
  natBits w 63 61 * 2 ^ 61 + natBits (s.tabEntry 0x01 idx) 15 0 * 2 ^ 32 + natBits w 18 0

/-- An entry as it stands. -/
def State.entry (s : State) (code idx : Nat) : Nat := if code = 0x01 then s.pmapEntry idx else s.tabEntry code idx

def State.setTab (s : State) (code idx v : Nat) : State := { s with tab := mput s.tab (tkey code idx) v }

/-- Write a page-map entry. -/
def State.setPmap (s : State) (idx v : Nat) : State :=
  let s := s.setTab 0x01 idx (natBits v 47 32)
  upTo 8 (fun i s => s.putByte (pmapKey idx + i) (BitVec.ofNat 8 (natSetBits v 47 32 0 / 256 ^ i))) s

def State.setEntry (s : State) (code idx v : Nat) : State := if code = 0x01 then s.setPmap idx v else s.setTab code idx v

/-- An entry as a translation reads it: while a write is not in force, the old entry or the new one (08 R203, 15 R330). -/
def State.see (s : State) (code idx : Nat) : Nat :=
  match s.pend.find? fun p => p.key = tkey code idx with
  | some p => if Config.staleRead s.freeCtr then p.old else s.entry code idx
  | none => s.entry code idx

/-- The number of keys of 512 bits (12 R280). -/
def keyCount : Nat := 2 ^ 256 * 2 ^ 256

/-- The key-table entry that base die `stack` holds for an id: its key bits, when valid (12 R280, 15 R343). -/
def State.keyOf (s : State) (stack kid : Nat) : Option Nat :=
  let e := s.entry 0x08 (stack * 1024 + kid)
  if natBit e 512 then some (e % keyCount) else none

/-! ### Seasons (07 R184 to R188) -/

def bump48 (n : Nat) : Nat := if n + 1 ≥ 2 ^ 48 then 2 ^ 48 - 1 else n + 1

/-- Count a context event (18 R389); 4096 stands for no context. -/
def State.countCtx (s : State) (ctx i : Nat) : State :=
  { s with ctxEvents := if ctx < 4096 then mput s.ctxEvents (ctx * 16 + i) (bump48 (mget 0 s.ctxEvents (ctx * 16 + i))) else s.ctxEvents }

/-- Count a device event (18 R390). -/
def State.countDev (s : State) (die i : Nat) : State :=
  { s with devEvents := mput s.devEvents (die * 4096 + i) (bump48 (mget 0 s.devEvents (die * 4096 + i))) }

/-- Bit ALLOC of a region's map entry: the region is allocated to a carve-out (12 R282). -/
def State.regionAlloc (s : State) (idx : Nat) : Bool := natBit (s.entry 0x0D idx) 4

/-- The season of a region (07 R184; 12 R282). -/
def State.regionSeason (s : State) (idx : Nat) : Nat := natBits (s.entry 0x0D idx) 1 0

/-- The season of the bank or region of a byte. -/
def State.seasonOf (s : State) (k : Nat) : Nat :=
  if isHbm k then s.regionSeason (regionIdx k)
  else (mget 2#2 (s.tile (tileOfSa k)).season (bankOf k)).toNat

def State.setBankSeason (s : State) (tile bank : Nat) (c : BitVec 2) : State :=
  let t := s.tile tile
  s.setTile tile { t with season := mput t.season bank c }

def State.setRegionSeason (s : State) (idx c : Nat) : State := s.setEntry 0x0D idx (natSetBits (s.entry 0x0D idx) 1 0 c)

/-! ### The stack ring (01 R11; 12 R284, R285) -/

/-- Where a request comes from: a compute die, or the base die of a stack. -/
inductive Origin where
  | die (d : Nat)
  | base (k : Nat)
deriving DecidableEq, Repr

/-- The hops from stack a up to stack b, and the fewer of the two directions. -/
def upHops (a b : Nat) : Nat := (b % 16 + 16 - a % 16) % 16
def ringHops (a b : Nat) : Nat := min (upHops a b) (upHops b a)

/-- The stack at which a request enters the ring: of a die's own stacks the one with the fewer hops, on a tie HS-(2n) (01 R11). -/
def Origin.entryTo (o : Origin) (k : Nat) : Nat :=
  match o with
  | .base j => j
  | .die d => if ringHops (2 * d) k ≤ ringHops (2 * d + 1) k then 2 * d else 2 * d + 1

/-- The ports of a stack-local router (12 R284). -/
inductive RingPort where
  | l | e | w | c
deriving DecidableEq, Repr

/-- The routers that a packet passes going up or down the ring, each with the port by which it leaves (12 R284). -/
def hopsFrom (up : Bool) (a n : Nat) : List (Nat × RingPort) :=
  (below n).map fun i => if up then ((a + i) % 16, .e) else ((a + 16 * n - i) % 16, .w)

/-- Whether the link by which a packet leaves a router is up: `eDown` of stack k is the link to stack k + 1. -/
def State.portUp (s : State) (h : Nat × RingPort) : Bool :=
  match h.2 with
  | .e => !(s.stack h.1).eDown
  | .w => !(s.stack ((h.1 + 15) % 16)).eDown
  | .l => true
  | .c => true

/-- The route of a packet from stack a to stack b: the direction with fewer hops, E on a tie of 8, the other direction while a link
of it is down, none where both are cut; it ends at the base die's controller (12 R284, R285). -/
def State.ringRoute (s : State) (a b : Nat) : Option (List (Nat × RingPort)) :=
  let up := hopsFrom true (a % 16) (upHops a b)
  let down := hopsFrom false (a % 16) (upHops b a)
  let ways := if upHops a b ≤ 8 then [up, down] else [down, up]
  (ways.find? fun w => w.all s.portUp).map (· ++ [(b % 16, .c)])

/-- The route of a request to a stack. -/
def State.routeTo (s : State) (o : Origin) (k : Nat) : Option (List (Nat × RingPort)) := s.ringRoute (o.entryTo k) k

/-! ### Base-die service (12 R268, R274, R278, R280, R281) -/

/-- Whether a capacity report agrees with R293 and R294. -/
def capAccepted (r : CapReport) : Bool :=
  (r.height == 12#8 || r.height == 16#8) && (r.lgroups == 3#4 || r.lgroups == 4#4) && r.channels == 32#6 && r.pcs == 2#2 &&
  r.banks == 16#5 && r.rows == 16384#15 && r.rowBytes == 1024#12 && decide (128 ≤ r.rate.toNat) && r.keys == 1024#12 &&
  decide (r.height.toNat = 4 * r.lgroups.toNat) && decide (r.regions.toNat = 2048 * r.height.toNat)

/-- Whether a stack is accepted: in service, with a report that R294 accepts. -/
def Stack.accepted (st : Stack) : Bool :=
  !st.out && (match st.report with
    | some r => capAccepted r
    | none => false)

/-- The regions a stack has (12 R268): as its report gives them. -/
def Stack.regions (st : Stack) : Nat :=
  match st.report with
  | some r => r.regions.toNat
  | none => 0

/-- The PC, the bank and the row of a byte: numbers of their own within the stack (12 R267). -/
def pcOf (k : Nat) : Nat := stackAddr k / 256 % 64
def bankNo (k : Nat) : Nat := stackAddr k / 2 ^ 34 * 1024 + stackAddr k / 2 ^ 16 % 16 * 64 + pcOf k
def rowNo (k : Nat) : Nat := stackAddr k / 2 ^ 16 * 64 + pcOf k

/-- How a request for a byte of a stack ends without being served: at once as for a failed PC (true: 12 R274, R285, R294), or
counted only (false: 12 R268, R280). -/
def State.unserved (s : State) (o : Origin) (kid k : Nat) : Option Bool :=
  let st := s.stack (stackOf k)
  if !st.accepted || natBit st.failedPcs (pcOf k) || (s.routeTo o (stackOf k)).isNone then some true
  else if st.regions * 2 ^ 21 ≤ stackAddr k || (s.keyOf (stackOf k) kid).isNone then some false
  else none

/-- The origin of what the moving slot requests. -/
def State.origin (s : State) : Origin := .die (dieOf s.cur)

/-- The bits or symbols in error of the word or sector of a byte (12 R277, 23 R453). -/
def State.upset (s : State) (k : Nat) : Nat := if s.isFresh k then 0 else mget 0 s.upsets (poisonUnit k)

/-- A byte as its code gives it, and whether it is uncorrectable: one error is corrected, more are detected or not (12 R277, 23
R453). -/
def State.codeByte (s : State) (k : Nat) (b : Byte) : Byte × Bool :=
  if s.upset k ≤ 1 then (b, s.poisoned k)
  else if isHbm k && Config.undetected s.freeCtr (poisonUnit k) then (Config.miscorrected s.freeCtr k, s.poisoned k)
  else (b, true)

/-- A byte as a request with key id `kid` reads it, and whether it is poisoned. -/
def State.readKeyFrom (s : State) (o : Origin) (kid k : Nat) : Byte × Bool :=
  if isHbm k then
    if (s.unserved o kid k).isSome then (0#8, true)
    else match s.keyOf (stackOf k) kid with
      | none => (0#8, true)
      | some key =>
        if s.isFresh k then (0#8, false)
        else s.codeByte k (match mfind s.sealed (k / 32) with
          | some old => if old = key then s.byte k else Config.wrongKeyByte k old key
          | none => s.byte k)
  else s.codeByte k (s.byte k)

def State.readKey (s : State) (kid k : Nat) : Byte × Bool := s.readKeyFrom s.origin kid k

/-- The memory list with a sector that was written under key `old` as a write under `key` merges it: the bytes that the merge
keeps are those that `key` decrypts (12 R271, R281). -/
def resealMem (old : Option Nat) (key base : Nat) (m : List Host.Cell) : List Host.Cell :=
  match old with
  | some o => if o = key then m else upTo 32 (fun i m => Memory.write m (base + i) (Config.wrongKeyByte (base + i) o key)) m
  | none => m

/-- Bring the sector of a byte under the key of a write (12 R271, R281). -/
def State.reseal (s : State) (key k : Nat) : State :=
  let s := s.open_ k
  { s with
    mem := resealMem (mfind s.sealed (k / 32)) key (k / 32 * 32) s.mem
    sealed := mput s.sealed (k / 32) key }

/-- Whether a write of a byte is performed: a stack drops one that it does not serve (12 R268, R274, R280). -/
def State.takes (s : State) (o : Origin) (c : Nat × Nat) : Bool := !isHbm c.1 || (s.unserved o c.2 c.1).isNone

/-- Write a byte as a request with key id `kid`. -/
def State.writeKeyFrom (s : State) (o : Origin) (kid k : Nat) (b : Byte) : State :=
  if isHbm k then
    if (s.unserved o kid k).isSome then s
    else match s.keyOf (stackOf k) kid with
      | none => s
      | some key => (s.reseal key k).putByte k b
  else s.putByte k b

/-! ### Commands on the buses of a PC (12 R269, R272, R273) -/

/-- The open rows of the banks of a PC. -/
def Stack.pcRows (st : Stack) (pc : Nat) : SMap Nat := st.rows.filter fun e => decide (e.1 % 64 = pc)

/-- The bank state of a PC as it was. -/
def Stack.withRows (st : Stack) (pc : Nat) (rows : SMap Nat) : Stack :=
  { st with rows := rows.foldl (fun m e => mput m e.1 e.2) (st.rows.filter fun e => decide (e.1 % 64 ≠ pc)) }

/-- A command goes out on a bus of the PC of a byte: it enters the history buffer, and the bank state follows it. -/
def Stack.command (st : Stack) (now : Nat) (op : PcOp) (k : Nat) (data : Option (Word × BitVec 512)) : Stack :=
  let h := mget [] st.hist (pcOf k) ++ [⟨op, k / 64 * 64, now, data, st.pcRows (pcOf k)⟩]
  { st with
    hist := mput st.hist (pcOf k) (h.drop (h.length - 32))
    rows := match op with
      | .activate => mput st.rows (bankNo k) (rowNo k)
      | .precharge => mdel st.rows (bankNo k)
      | .refresh => st.rows.filter fun e => decide (e.1 % 64 ≠ pcOf k)
      | .powerDown => st.rows.filter fun e => decide (e.1 % 64 ≠ pcOf k)
      | .read => st.rows
      | .write => st.rows }

/-- What the row bus sends next toward a byte whose row is not open. -/
def Stack.rowStep (st : Stack) (now k : Nat) : Stack :=
  match mfind st.rows (bankNo k) with
  | none => st.command now .activate k none
  | some r => if r = rowNo k then st else st.command now .precharge k none

/-- The commands of one request: its row is opened, a merge reads first (12 R271), and the column command follows. -/
def Stack.commands (st : Stack) (now k : Nat) (write : Option (Word × BitVec 512)) : Stack :=
  let st := (st.rowStep now k).rowStep now k
  match write with
  | none => st.command now .read k none
  | some (m, d) =>
    let whole := fun (j : Nat) => decide (fld m (32 * j + 31) (32 * j) = 0) || decide (fld m (32 * j + 31) (32 * j) = 2 ^ 32 - 1)
    let st := if whole 0 && whole 1 then st else st.command now .read k none
    st.command now .write k (some (m, d))

/-! ### Requests at a base die (12 R268, R272, R274, R277 to R279, R291) -/

/-- The header of a message about the unit of a byte. -/
def hdrOf (kid k : Nat) : LinkHdr :=
  ⟨0#2, BitVec.ofNat 4 (stackOf k), BitVec.ofNat 10 kid, 0#12, BitVec.ofNat 30 (stackAddr k / 64)⟩

/-- A row is redirected to a spare, while its bank has one (12 R279). -/
def Stack.remap (st : Stack) (k : Nat) : Stack :=
  let used := mget 0 st.spareUsed (bankNo k)
  if 16 ≤ used then st
  else { st with
    spareUsed := mput st.spareUsed (bankNo k) (used + 1)
    rowMap := mput st.rowMap (rowNo k) used
    scrubHits := mdel st.scrubHits (rowNo k) }

/-- A row yields an uncorrectable error: it is remapped once (12 R279). -/
def Stack.failRow (st : Stack) (k : Nat) : Stack := if (mfind st.rowMap (rowNo k)).isSome then st else st.remap k

/-- A poison report goes to the compute die that owns the stack (12 R274, R278). -/
def State.reportTo (s : State) (kid k : Nat) : State :=
  let st := s.stack (stackOf k)
  s.setStack (stackOf k) { st with fromStack := st.fromStack ++ [.poison (hdrOf kid k)] }

/-- A request for the unit of a byte is done: its commands enter the history of its PC; one to a failed PC sends a poison report; one
that was refused is counted. -/
def State.noteRequest (s : State) (o : Origin) (write : Option (Word × BitVec 512)) (kid k : Nat) : State :=
  let st := s.stack (stackOf k)
  match s.unserved o kid k with
  | some true => s.reportTo kid k
  | some false => s.setStack (stackOf k) { st with refusedReqs := st.refusedReqs + 1 }
  | none => s.setStack (stackOf k) (st.commands s.dcc.toNat k write)

/-- A sector with one symbol in error is corrected on its way, and counted (12 R277). -/
def State.countCorrected (s : State) (k : Nat) : State :=
  if s.upset k = 1 then
    let st := s.stack (stackOf k)
    s.setStack (stackOf k) { st with corrections := st.corrections + 1 }
  else s

/-- A sector that is found uncorrectable is marked poisoned in place (12 R278). -/
def State.markFound (s : State) (k : Nat) : State :=
  if 2 ≤ s.upset k && !Config.undetected s.freeCtr (poisonUnit k) then s.markPoison k else s

/-- A read meets the word or sector of a byte: an error that is corrected is counted, and SRAM is corrected in place; an uncorrectable
one is marked poisoned in place, reported, and its row is remapped (12 R277 to R279; 23 R453; 18 R390). -/
def State.meetUnit (s : State) (kid k : Nat) : State :=
  if isHbm k then
    let s := (s.countCorrected k).markFound k
    if s.poisoned k then
      let s := s.reportTo kid k
      s.setStack (stackOf k) ((s.stack (stackOf k)).failRow k)
    else s
  else if s.upset k = 1 then
    let i := tileOfSa k / 48 * 4096 + 3
    { s with
      upsets := mput s.upsets (poisonUnit k) 0
      devEvents := mput s.devEvents i (bump48 (mget 0 s.devEvents i)) }
  else if 2 ≤ s.upset k then s.markPoison k
  else s

/-- One key of each group of keys that `f` puts together, with its key id. -/
def firstOf (f : Nat → Nat) (ks : List (Nat × Nat)) : List (Nat × Nat) :=
  ks.foldl (fun acc k => if acc.any fun u => decide (f u.1 = f k.1) then acc else acc ++ [k]) []

/-- The 64-byte units of stacks that a list of keys touches, by one key of each. -/
def hbmUnits (ks : List (Nat × Nat)) : List (Nat × Nat) := firstOf (· / 64) (ks.filter fun k => isHbm k.1)

/-- Note the requests of a read and what it meets. -/
def State.noteReadsFrom (s : State) (o : Origin) (ks : List (Nat × Nat)) : State :=
  let s := (hbmUnits ks).foldl (fun s u => s.noteRequest o none u.2 u.1) s
  (firstOf poisonUnit (ks.filter fun k => !isHbm k.1 || (s.unserved o k.2 k.1).isNone)).foldl (fun s k => s.meetUnit k.2 k.1) s

def State.noteReads (s : State) (ks : List (Nat × Nat)) : State := s.noteReadsFrom s.origin ks

/-- The poison units that a set of written keys covers whole (12 R278, 23 R453). -/
def coversUnit (keys : List Nat) (k : Nat) : Bool :=
  let n := if isHbm k then 32 else 8
  (below n).all fun i => keys.contains (k / n * n + i)

/-- The mask and the bytes that written cells give to a unit. -/
def unitData (cells : List ((Nat × Nat) × Byte)) (k : Nat) : Word × BitVec 512 :=
  (cells.filter fun c => decide (c.1.1 / 64 = k / 64)).foldl (fun (r : Word × BitVec 512) c =>
    let i := c.1.1 % 64
    let at_ := fun (b : BitVec 512) => b <<< (8 * i)
    (r.1 ||| (1#64 <<< i), (r.2 &&& ~~~(at_ 0xFF#512)) ||| at_ (c.2.setWidth 512))) (0#64, 0#512)

/-- Whether a page-map entry belongs to the page map of a valid buffer (15 R333). -/
def State.inPmap (s : State) (idx : Nat) : Bool :=
  s.tab.any fun e => decide (0 < e.1) && decide (e.1 < 2 ^ 20) && natBit e.2 255 &&
    decide (natBits e.2 39 0 / 8 ≤ idx) && decide (idx < natBits e.2 39 0 / 8 + ceilDiv (natBits e.2 179 139) (2 ^ 21))

/-- The slot number of a change of page-map memory that no table word made: it starts no shootdown, and TLBI alone ends it (15 R336). -/
def noSlot : Nat := 3072

/-- The page-map entries that stores changed: translations may use the old ones until a TLBI (15 R328, R335, R336). -/
def State.pmapStale (old new : State) (keys : List Nat) : State :=
  let idxs := (firstOf (· / 8) ((keys.filter isHbm).map fun k => (k, 0))).map fun k => (k.1 - hbmBase) / 8
  idxs.foldl (fun s i =>
    if s.inPmap i && decide (old.entry 0x01 i ≠ s.entry 0x01 i) && !s.pend.any fun p => decide (p.key = tkey 0x01 i)
    then { s with pend := s.pend ++ [⟨tkey 0x01 i, old.entry 0x01 i, noSlot, 0⟩] } else s) new

/-- A merge writes a sector back as its code gives it, with new check symbols; one in error stays as it is (12 R271, R277, R278). -/
def State.mergeUnit (s : State) (k : Nat) : State :=
  if isHbm k && decide (1 ≤ s.upset k) && !s.poisoned k then
    let b := k / 32 * 32
    let t := upTo 32 (fun i t => t.putByte (b + i) (s.codeByte (b + i) (s.byte (b + i))).1) s
    { t with upsets := mput t.upsets (poisonUnit k) 0 }
  else s

/-- Write bytes together, each under its own key id; a sector or word written whole loses its poison and its errors. -/
def State.writeAllFrom (s : State) (o : Origin) (cells : List ((Nat × Nat) × Byte)) : State :=
  let took := cells.filter fun c => s.takes o c.1
  let keys := took.map fun c => c.1.1
  let parts := firstOf poisonUnit (took.map Prod.fst)
  let t := (parts.filter fun k => !coversUnit keys k.1).foldl (fun s k => (s.meetUnit k.2 k.1).mergeUnit k.1) s
  let t := took.foldl (fun s c => s.writeKeyFrom o c.1.2 c.1.1 c.2) t
  let t := (parts.filter fun k => coversUnit keys k.1).foldl (fun s k =>
    let s := if s.poisoned k.1 then s.clearPoison k.1 else s
    if s.upset k.1 = 0 then s else { s with upsets := mput s.upsets (poisonUnit k.1) 0 }) t
  let t := (hbmUnits (cells.map Prod.fst)).foldl (fun s u => s.noteRequest o (some (unitData cells u.1)) u.2 u.1) t
  State.pmapStale s t keys

def State.writeAll (s : State) (cells : List ((Nat × Nat) × Byte)) : State := s.writeAllFrom s.origin cells

/-! ### The season map (07 R183 to R188; 12 R282, R283, R291) -/

/-- Set a bit of a region's map entry. -/
def State.setMapBit (s : State) (i bit : Nat) (b : Bool) : State := s.setEntry 0x0D i (natSetBits (s.entry 0x0D i) bit bit (b2n b))

/-- A unit wakes: from winter its parts are fresh (07 R183, R185). -/
def State.wakeRegion (s : State) (i c : Nat) : State :=
  let s := if s.regionSeason i = 2 then s.freshen fun u => u == regionUnit i else s
  s.setRegionSeason i c
def State.wakeBank (s : State) (tile bank : Nat) (c : BitVec 2) : State :=
  let s := if mget 2#2 (s.tile tile).season bank = 2#2 then s.freshen (unitInBank tile bank) else s
  s.setBankSeason tile bank c

/-- An update of the map for one region: allocate, free, hold begin, hold end, make fresh. -/
def State.mapUpdate (s : State) (event i : Nat) : State :=
  match event with
  | 0 => ((s.freshen fun u => u == regionUnit i).setMapBit i 4 true).setRegionSeason i 3
  | 1 => (s.setMapBit i 4 false).setRegionSeason i 2
  | 2 => (if s.regionSeason i = 0 then s else s.wakeRegion i 3).setMapBit i 2 true
  | 3 => { s.setMapBit i 2 false with regionUse := mput s.regionUse i s.dcc.toNat }
  | 4 => s.freshen fun u => u == regionUnit i
  | _ => s

/-- The oldest message on the way to a stack reaches its base die, if it is a season map update. -/
def State.takeSeason (s : State) (k : Nat) : State :=
  match (s.stack k).toStack with
  | .season event first count :: r =>
    let st := s.stack k
    (below count).foldl (fun s j => s.mapUpdate event (k * 2 ^ 15 + (first + j) % 2 ^ 15)) (s.setStack k { st with toStack := r })
  | _ => s

/-- Every season map update on the way to a stack reaches it before a request that is sent after it (12 R283). -/
def State.drainSeasons (s : State) (k : Nat) : State := upTo (s.stack k).toStack.length (fun _ s => s.takeSeason k) s

/-- A season map update for regions goes out on the link of a stack (12 R283, R291). -/
def State.sendSeason (s : State) (event k first count : Nat) : State :=
  let st := s.stack k
  s.setStack k { st with toStack := st.toStack ++ [.season event first count] }

/-! ### Queues of a PC (12 R269 to R271, R274) -/

/-- The key of a request's unit. -/
def PcReq.key0 (r : PcReq) : Nat := hbmKey r.h.stk.toNat (r.h.uaddr.toNat * 64)

/-- The keys of a unit of 64 bytes. -/
def PcReq.keys (r : PcReq) : List (Nat × Nat) := (below 64).map fun i => (r.key0 + i, r.h.key.toNat)

/-- The poison flags of a unit: bit j for sector j. -/
def flagsOf (bad : Nat → Bool) : BitVec 2 := BitVec.ofNat 2 (b2n (bad 0) + 2 * b2n (bad 1))

/-- The origin of a request on a stack's own link: the die that owns the stack (01 R9). -/
def PcReq.origin (r : PcReq) : Origin := .die (r.h.stk.toNat / 2)

/-- A response goes to the link. -/
def State.respond (s : State) (k : Nat) (m : LinkMsg) : State :=
  let st := s.stack k
  s.setStack k { st with fromStack := st.fromStack ++ [m] }

/-- A request is performed: its response goes to the link with the poison flags of its sectors (12 R274, R278, R291). -/
def State.performReq (s : State) (r : PcReq) : State :=
  let k := r.h.stk.toNat
  match r.write with
  | none =>
    let s := s.noteReadsFrom r.origin r.keys
    let bytes := r.keys.map fun c => s.readKeyFrom r.origin c.2 c.1
    let bad := fun (j : Nat) => ((bytes.drop (32 * j)).take 32).any Prod.snd
    s.respond k (.data { r.h with flags := flagsOf bad } (BitVec.ofNat 512 (leNat (bytes.map Prod.fst))))
  | some (m, d) =>
    let dropped := (s.unserved r.origin r.h.key.toNat r.key0).isSome
    let cells := ((below 64).filter fun i => m.getLsbD i).map fun i => ((r.key0 + i, r.h.key.toNat), (d >>> (8 * i)).setWidth 8)
    let s := if cells.isEmpty then s.noteRequest r.origin (some (m, d)) r.h.key.toNat r.key0 else s.writeAllFrom r.origin cells
    s.respond k (.wack { r.h with flags := flagsOf fun j => dropped || s.poisoned (r.key0 + 32 * j) })

/-- The requests in the queue of a PC. -/
def Stack.queue (st : Stack) (pc : Nat) : List PcReq := mget [] st.queues pc

/-- Take the i-th request out of a PC's queue and perform it; those before it are overtaken. -/
def State.serveReq (s : State) (k pc i : Nat) : State :=
  let st := s.stack k
  match (st.queue pc)[i]? with
  | none => s
  | some r =>
    let q := ((st.queue pc).take i).map (fun r => { r with passed := r.passed + 1 }) ++ (st.queue pc).drop (i + 1)
    (s.setStack k { st with queues := mput st.queues pc q }).performReq r

/-- Whether a queued request may go next: no earlier one names its unit or has been overtaken by 16, and its region is in summer; one
that is not served completes at once (12 R270, R274; 07 R185). -/
def State.reqReady (s : State) (q : List PcReq) (i : Nat) (r : PcReq) : Bool :=
  ((q.take i).all fun e => decide (e.h.uaddr ≠ r.h.uaddr) && decide (e.passed < 16)) &&
  ((s.unserved r.origin r.h.key.toNat r.key0).isSome || decide (s.regionSeason (regionIdx r.key0) = 0))

/-- One command clock of a PC: the column bus serves the oldest request that is ready with its row open, and the row bus opens the row
of the oldest one that is ready without, or refreshes (12 R269). -/
def State.pcClock (s : State) (k pc : Nat) : State :=
  let st := s.stack k
  let q := st.queue pc
  let ready := fun (r : PcReq) => match firstIdx (· = r) q with
    | some i => s.reqReady q i r
    | none => false
  let opened := fun (r : PcReq) => (s.unserved r.origin r.h.key.toNat r.key0).isSome ||
    mfind st.rows (bankNo r.key0) == some (rowNo r.key0)
  let s := match firstIdx (fun r => ready r && opened r) q with
    | some i => s.serveReq k pc i
    | none => s
  let st := s.stack k
  if Config.refreshDue s.freeCtr k pc then s.setStack k (st.command s.dcc.toNat .refresh (hbmKey k (pc * 256)) none)
  else match q.find? fun r => ready r && !opened r with
    | some r => s.setStack k (st.rowStep s.dcc.toNat r.key0)
    | none => s

/-- One command clock of every PC of a stack that has requests. -/
def State.stackClock (s : State) (k : Nat) : State :=
  (((s.stack k).queues.filter fun (e : Nat × List PcReq) => !e.2.isEmpty).map Prod.fst).foldl (fun s pc => s.pcClock k pc) s

/-- The queued requests to the unit of a byte are performed before a request that comes after them (12 R270). -/
def State.drainUnit (s : State) (k : Nat) : State :=
  let n := stackOf k
  let q := (s.stack n).queue (pcOf k)
  upTo (q.filter fun r => decide (r.key0 / 64 = k / 64)).length (fun _ s =>
    match firstIdx (fun r => decide (r.key0 / 64 = k / 64)) ((s.stack n).queue (pcOf k)) with
    | some i => s.serveReq n (pcOf k) i
    | none => s) s

/-! ### Accesses and seasons (07 R185) -/

/-- An access reaches a byte: its bank or region wakes if it is out of summer, counted for the context (07 R185, 18 R389), and its
idle interval starts again. A request that a stack does not serve reaches nothing (12 R274). -/
def State.touchFrom (s : State) (o : Origin) (ctx : Nat) (c : Nat × Nat) : State :=
  let k := c.1
  if isHbm k then
    if (s.unserved o c.2 k).isSome then s
    else
      let s := if s.seasonOf k = 0 then s else (s.wakeRegion (regionIdx k) 0).countCtx ctx 4
      { s with regionUse := mput s.regionUse (regionIdx k) s.dcc.toNat }
  else
    let s := if s.seasonOf k = 0 then s else (s.wakeBank (tileOfSa k) (bankOf k) 0#2).countCtx ctx 3
    let t := s.tile (tileOfSa k)
    s.setTile (tileOfSa k) { t with lastUse := mput t.lastUse (bankOf k) s.dcc.toNat }

/-- The stacks that keys lie in. -/
def stacksOf (ks : List (Nat × Nat)) : List Nat := (firstOf stackOf (ks.filter fun k => isHbm k.1)).map fun k => stackOf k.1

/-- Accesses arrive at these keys: season map updates sent before reach their stacks, each bank or region is touched once per 64-byte
unit, and what their units' queues hold goes first. -/
def State.touchAllFrom (s : State) (o : Origin) (ctx : Nat) (ks : List (Nat × Nat)) : State :=
  let s := (stacksOf ks).foldl State.drainSeasons s
  let s := (firstOf (· / 64) ks).foldl (fun s k => s.touchFrom o ctx k) s
  (hbmUnits ks).foldl (fun s u => s.drainUnit u.1) s

def State.touchAll (s : State) (ctx : Nat) (ks : List (Nat × Nat)) : State := s.touchAllFrom s.origin ctx ks

end Sys2Proof.Machine
end

