-- ==== Sys2Proof/Machine/Access.lean ====
section
/-! DEFINITION. Checks and translation of addresses (07 R165, R169, R176, R179, R180, R483), and the performance of loads,
stores and atomics at their homes (08 R191, 09 R219 to R224, 14 R323, 18 R387). -/
namespace Sys2Proof.Machine

/-! ### Fault codes (20 R404) -/

def fIllegal : Nat := 0x01
def fPriv : Nat := 0x02
def fLatency : Nat := 0x03
def fTag : Nat := 0x04
def fAlign : Nat := 0x05
def fBound : Nat := 0x10
def fRights : Nat := 0x11
def fOwner : Nat := 0x12
def fXlate : Nat := 0x13
def fSegment : Nat := 0x14
def fShard : Nat := 0x15
def fBank : Nat := 0x20
def fSched : Nat := 0x21
def fPair : Nat := 0x22
def fRedOver : Nat := 0x23
def fPoison : Nat := 0x30
def fPhase : Nat := 0x40
def fFuture : Nat := 0x41
def fQueue : Nat := 0x42
def rIter : Nat := 0x50
def rReserve : Nat := 0x51
def rStopped : Nat := 0x52
def rStuck : Nat := 0x53
def fProgram : Nat := 0x60

/-- Fault unless the condition holds. -/
def must (c : Bool) (code info : Nat) : Except Flt Unit := if c then .ok () else .error ⟨code, info⟩

/-! ### Issuers -/

/-- Who makes an access: tenant, team, context, and privilege level (07 R169, R179; 20 R408). -/
structure Issuer where
  tenant : Nat
  team : Nat
  ctx : Nat
  level : Nat
deriving DecidableEq, Repr

def State.issuer (s : State) (n : Nat) : Issuer :=
  let x := s.slot n
  ⟨x.y.tenant.toNat, x.job.team, x.y.ctx.toNat, x.y.level.toNat⟩

/-! ### Scratchpad (07 R165, R169, R176) -/

/-- Whether a granule admits an issuer (07 R169): valid, tenant, and its team, or a team that it was granted to. -/
def State.admits (s : State) (i : Issuer) (sa : Nat) : Bool :=
  let t := s.tile (tileOfSa sa)
  let e := mget 0#24 t.owner (granuleOf sa)
  e.getLsbD 23 && decide (fld e 22 15 = i.tenant) &&
    (decide (fld e 14 0 = i.team) || (mget [] t.grants (granuleOf sa)).contains i.team)

/-- R165 for len bytes at a register value: an SA, or the fault. -/
def State.checkSa (s : State) (i : Issuer) (a len : Nat) : Except Flt Nat := do
  must (decide (a < 2 ^ 31)) fBound a
  must (decide ((a / 2 ^ 22) % 64 < 48)) fBound a
  let room := 2 ^ 22 - a % 2 ^ 22
  let here := min len room
  match (below here).find? fun j => !s.admits i (a + j) with
  | some _ => .error ⟨fOwner, a⟩
  | none => do
    must (decide (len ≤ room)) fBound (a + room)
    .ok a

/-- Whether MX holds the bank of an SA reserved (07 R176). -/
def State.reserved (s : State) (sa : Nat) : Bool :=
  match (s.tile (tileOfSa sa)).busy with
  | some b => natBit b.banks (bankOf sa)
  | none => false

/-- TRAP_INFO of BANK_CONFLICT: SA and flags (20 R404). -/
def bankInfo (sa flags : Nat) : Nat := sa * 2 ^ 32 + flags

/-- R176 for len bytes at an SA. -/
def State.checkBank (s : State) (sa len : Nat) : Except Flt Unit :=
  match (below len).find? fun j => s.reserved (sa + j) with
  | some j => .error ⟨fBank, bankInfo (sa + j) 0⟩
  | none => .ok ()

/-! ### Buffers (07 R179, R180; 15 R331 to R334) -/

/-- The rights of a buffer entry, by their bit (15 R331). -/
def rR : Nat := 254
def rW : Nat := 253
def rX : Nat := 252
def rA : Nat := 251
def rN : Nat := 250

def vaIndex (va : Nat) : Nat := (va / 2 ^ 40) % 2 ^ 20
def vaOffset (va : Nat) : Nat := va % 2 ^ 40
def bufLen (e : Nat) : Nat := natBits e 179 139
def bufVf (e : Nat) : Nat := natBits e 199 191
def bufKey (e : Nat) : Nat := natBits e 249 240
def bufMask (e : Nat) : Nat := natBits e 215 200
def bufGran (e : Nat) : Nat := 2 ^ (natBits e 219 216 + 8)
def bufStacks (e : Nat) : Nat := popCount 16 (bufMask e)
def bufPmap (e : Nat) : Nat := natBits e 39 0

/-- The page-map entry of a stripe of a buffer: its address in page-map memory in units of 8 (15 R333). -/
def pmapIdx (e stripe : Nat) : Nat := bufPmap e / 8 + stripe

/-- Whether a VF id names the firmware's own carve-out: a segment held by no VF (15 R334). -/
def State.isFirmware (s : State) (vf : Nat) : Bool := !(mget {} s.vfs vf).enabled

/-- Step 4 of R179 (15 R332, 20 R408). -/
def State.ownerOk (s : State) (i : Issuer) (e : Nat) : Bool :=
  if s.isFirmware (bufVf e) then decide (1 ≤ i.level)
  else decide (natBits e 239 232 = i.tenant) ||
    (natBits e 231 220 != 0 && natBit (s.see 0x02 (natBits e 231 220)) i.tenant)

/-- The stack and in-stack address of an offset of a buffer whose stripe has frame F (07 R180). -/
def placeOf (e segBase F offset : Nat) : Nat × Nat :=
  let n := bufStacks e
  let g := bufGran e
  let j := (offset % 2 ^ 21) / g
  (nthSetBit 16 (bufMask e) (j % n) 0, segBase + F * 2 ^ 17 + j / n * g + offset % g)

/-- Steps 5 and 6 of R179 for the bytes of one stripe, first to last. -/
def State.checkStripe (s : State) (e va first last : Nat) : Except Flt Unit := do
  let pm := s.see 0x01 (pmapIdx e (first / 2 ^ 21))
  let at_ := fun off => va - vaOffset va + off
  must (natBit pm 63) fXlate (at_ first)
  let seg := s.see 0x03 (bufVf e)
  let base := natBits seg 15 0 * 2 ^ 21
  let top := base + natBits seg 47 32 * 2 ^ 21
  match (below (last - first + 1)).find? fun j =>
      let a := (placeOf e base (natBits pm 18 0) (first + j)).2
      !(natBit seg 63 && decide (base ≤ a) && decide (a < top)) with
  | some j => .error ⟨fSegment, at_ (first + j)⟩
  | none => .ok ()

/-- Step 5 and 6 of R179 for each stripe from `first` to `last`, with fuel. -/
def State.checkStripes (s : State) (e va : Nat) : Nat → Nat → Nat → Except Flt Unit
  | 0, _, _ => .ok ()
  | fuel + 1, first, last => do
    let stop := min last (first / 2 ^ 21 * 2 ^ 21 + 2 ^ 21 - 1)
    s.checkStripe e va first stop
    if stop < last then s.checkStripes e va fuel (stop + 1) last else .ok ()

/-- Steps 1 to 4 of R179 for len bytes at a VA: the buffer entry. -/
def State.checkEntry (s : State) (i : Issuer) (va len right : Nat) : Except Flt Nat := do
  let e := s.see 0x00 (vaIndex va)
  must (decide (va / 2 ^ 60 = 0) && natBit e 255 && vaIndex va != 0) fBound va
  let off := vaOffset va
  must (decide (off + len ≤ bufLen e)) fBound (va - off + max off (bufLen e))
  must (natBit e right) fRights va
  must (s.ownerOk i e) fOwner va
  .ok e

/-- R179 for len bytes at a VA, len > 0. -/
def State.checkVa (s : State) (i : Issuer) (va len right : Nat) : Except Flt Unit := do
  let e ← s.checkEntry i va len right
  if len = 0 then .ok () else s.checkStripes e va (len / 2 ^ 21 + 2) (vaOffset va) (vaOffset va + len - 1)

/-- The memory key and key id of a byte of a buffer that R179 admits. -/
def State.vaKey (s : State) (va : Nat) : Nat × Nat :=
  let e := s.see 0x00 (vaIndex va)
  let pm := s.see 0x01 (pmapIdx e (vaOffset va / 2 ^ 21))
  let seg := s.see 0x03 (bufVf e)
  let (k, a) := placeOf e (natBits seg 15 0 * 2 ^ 21) (natBits pm 18 0) (vaOffset va)
  (hbmKey k a, bufKey e)

/-- Count one 64-byte unit moved in the HEAT of its stripe's page-map entry (15 R333). -/
def State.heat (s : State) (va : Nat) : State :=
  let idx := pmapIdx (s.entry 0x00 (vaIndex va)) (vaOffset va / 2 ^ 21)
  s.setTab 0x01 idx (min (2 ^ 16 - 1) (s.tabEntry 0x01 idx + 1))

/-- Count each 64-byte unit that the bytes at these VAs lie in, once (15 R333). -/
def State.heatAll (s : State) (vas : List Nat) : State :=
  (vas.foldl (fun (us : List Nat) a => if us.contains (a / 64) then us else us ++ [a / 64]) []).foldl (fun s u => s.heat (u * 64)) s

/-! ### Translation caches (15 R335): tags alone, since a copy differs from its entry only while `State.pend` says so (log 41) -/

/-- A cache records a tag; the oldest leaves a full one. -/
def State.cacheFill (s : State) (id cap tag : Nat) : State :=
  let l := mget [] s.caches id
  if l.contains tag then s else { s with caches := mput s.caches id ((tag :: l).take cap) }

/-- Caches drop the tags that `p` selects, by cache and tag. -/
def State.cacheDrop (s : State) (p : Nat → Nat → Bool) : State :=
  { s with caches := s.caches.map fun (e : Nat × List Nat) => (e.1, e.2.filter fun t => !p e.1 t) }

/-! Cache numbers: control-core TLBs and buffer-entry caches by control core, stream TLBs by slot and engine (LD 0, ST 1, CP 2),
sharding caches by die, window caches by station. -/
def coreTlb (core : Nat) : Nat := core
def coreBufs (core : Nat) : Nat := 2 ^ 16 + core
def streamTlb (n e : Nat) : Nat := 2 * 2 ^ 16 + 3 * n + e
def shardCache (die : Nat) : Nat := 3 * 2 ^ 16 + die
def windowCache (station : Nat) : Nat := 4 * 2 ^ 16 + station

/-- The control core of a slot (01 R15). -/
def coreOf (n : Nat) : Nat := n / 4

/-- Tags: buffer index and stripe, with the context where the cache is tagged with it; table and index. -/
def stripeTag (va : Nat) : Nat := vaIndex va * 2 ^ 20 + vaOffset va / 2 ^ 21
def ctxTag (ctx t : Nat) : Nat := ctx * 2 ^ 40 + t
def indexTag (code idx : Nat) : Nat := code * 2 ^ 20 + idx

/-- Accesses of a stream fill its TLB; in the last 64 KiB of a stripe the next stripe's entry is fetched, if it is present. -/
def State.fillStream (s : State) (n e : Nat) (vas : List Nat) : State :=
  vas.foldl (fun s va =>
    let s := s.cacheFill (streamTlb n e) 16 (stripeTag va)
    let b := s.entry 0x00 (vaIndex va)
    let next := va / 2 ^ 21 * 2 ^ 21 + 2 ^ 21
    if 2 ^ 21 - 2 ^ 16 ≤ va % 2 ^ 21 && decide (vaOffset va / 2 ^ 21 * 2 ^ 21 + 2 ^ 21 < bufLen b) &&
        natBit (s.entry 0x01 (pmapIdx b (vaOffset va / 2 ^ 21 + 1))) 63
      then s.cacheFill (streamTlb n e) 16 (stripeTag next) else s) s

/-- An access of a control core fills its TLB and its buffer-entry cache. -/
def State.fillCore (s : State) (n va : Nat) : State :=
  let ctx := (s.slot n).y.ctx.toNat
  (s.cacheFill (coreTlb (coreOf n)) 128 (ctxTag ctx (stripeTag va))).cacheFill (coreBufs (coreOf n)) 32 (ctxTag ctx (vaIndex va))

/-! ### Addresses of either space -/

/-- Check len bytes at a register value as an SA or a VA, the bank conflict included; the key and key id of its first byte. -/
def State.checkAt (s : State) (i : Issuer) (isVa : Bool) (a len right : Nat) : Except Flt (Nat × Nat) := do
  if isVa then do
    s.checkVa i a len right
    .ok (s.vaKey a)
  else do
    let sa ← s.checkSa i a len
    s.checkBank sa len
    .ok (sa, 0)

/-- The space of a control-core address (09 R226): a VA unless bits 63:40 are zero. -/
def ccIsVa (t : Nat) : Bool := decide (t ≥ 2 ^ 40)

/-- The keys of len bytes at an address that its checks admit. -/
def State.keysAt (s : State) (isVa : Bool) (a len : Nat) : List (Nat × Nat) :=
  (below len).map fun j => if isVa then s.vaKey (a + j) else (a + j, 0)

/-! ### Values at homes -/

/-- A read of bytes: the bytes, and whether one of them is poisoned. -/
def State.readKeys (s : State) (ks : List (Nat × Nat)) : List Byte × Bool :=
  ks.foldr (fun k r => let (b, p) := s.readKey k.2 k.1; (b :: r.1, p || r.2)) ([], false)

/-- The first poisoned byte of a read. -/
def State.firstPoison (s : State) (ks : List (Nat × Nat)) : Option Nat := firstIdx (fun k => (s.readKey k.2 k.1).2) ks

/-- What a read does before it gives its bytes: it wakes what is out of summer, its requests are noted, and what it finds
uncorrectable is marked (07 R185; 12 R277, R278). -/
def State.reportPoison (s : State) (ctx : Nat) (ks : List (Nat × Nat)) : State := (s.touchAll ctx ks).noteReads ks

/-- A read: the state after it, the bytes, and whether one of them is poisoned. -/
def State.loadKeys (s : State) (ctx : Nat) (ks : List (Nat × Nat)) : State × List Byte × Bool :=
  let s := s.reportPoison ctx ks
  (s, s.readKeys ks)

/-- Write bytes at keys. -/
def State.writeKeys (s : State) (ctx : Nat) (ks : List (Nat × Nat)) (bs : List Byte) : State :=
  (s.touchAll ctx ks).writeAll (ks.zip bs)

/-! ### Accesses of the hardware and of firmware through buffers -/

/-- A read of `len` bytes at a VA from origin `o`: the state after it, and the bytes, the fault of R179, or POISON. -/
def State.readVa (s : State) (o : Origin) (i : Issuer) (va len right : Nat) : State × Except Flt (List Byte) :=
  match s.checkVa i va len right with
  | .error f => (s, .error f)
  | .ok _ =>
    let ks := s.keysAt true va len
    let s := ((s.touchAllFrom o i.ctx ks).noteReadsFrom o ks).heatAll ((below len).map (va + ·))
    let bs := ks.map fun k => s.readKeyFrom o k.2 k.1
    (s, if bs.any Prod.snd then .error ⟨fPoison, va⟩ else .ok (bs.map Prod.fst))

/-- A write of bytes at a VA from origin `o`: the state after it, and whether R179 admits it. -/
def State.writeVa (s : State) (o : Origin) (i : Issuer) (va right : Nat) (bs : List Byte) : State × Except Flt Unit :=
  match s.checkVa i va bs.length right with
  | .error f => (s, .error f)
  | .ok _ =>
    let ks := s.keysAt true va bs.length
    (((s.touchAllFrom o i.ctx ks).writeAllFrom o (ks.zip bs)).heatAll ((below bs.length).map (va + ·)), .ok ())

/-! ### Domain byte counts (14 R323, 18 R387) -/

/-- Count one inbound byte at a member: toward the current phase, or the next (18 R387). -/
def DomCounts.byte (d : DomCounts) (phase : W32) : DomCounts :=
  if phase = d.phase then
    if d.arrived then (if d.rx = 0#32 then { d with overrun := true } else { d with rx := d.rx - 1#32 })
    else { d with rx := if d.rx = BitVec.allOnes 32 then d.rx else d.rx + 1#32 }
  else { d with rxNext := if d.rxNext ≥ 2 ^ 31 - 1 then 2 ^ 31 - 1 else d.rxNext + 1 }

/-- Whether a byte address lies in a range list. -/
def inRanges (rs : List (Word × Nat)) (a : Nat) : Bool :=
  rs.any fun r => decide (r.1.toNat ≤ a) && decide (a < r.1.toNat + r.2)

/-- Whether a slot is in a domain with others: DOMAIN.COUNT is above 1 (14 R324). -/
def Slot.shared (x : Slot) : Bool := decide (1 < fld x.y.domain 55 32)

/-- Count the bytes at `addrs`, written by slot `n` toward `phase`, at each other member of its domain. -/
def State.countInbound (s : State) (n : Nat) (phase : W32) (addrs : List Nat) : State :=
  let team := (s.slot n).job.team
  let members := if (s.slot n).shared then (mget {} s.teams team).slots else []
  members.foldl (fun s m =>
    if m = n || !(s.slot m).shared then s
    else
      let x := s.slot m
      let k := (addrs.filter (inRanges x.job.reads)).length
      if k = 0 then s else s.setSlot m { x with dom := upTo k (fun _ d => d.byte phase) x.dom }) s

/-- Whether an entry is a SYNC or an ARRIVE that has not arrived (14 R324). -/
def Entry.willArrive (e : Entry) : Bool :=
  match e.cmd with
  | .sy (.sync _) => true
  | .sy (.arrive _) => true
  | .sy _ => false
  | .eng _ => false
  | .movx _ _ => false

/-- The phase toward which the bytes of slot n's store at position `o` in program order count: the next one after the slot's arrival, and
after a SYNC or ARRIVE that precedes the store and has not arrived yet (14 R323; log 77). -/
def State.phaseAt (s : State) (n o : Nat) : W32 :=
  let x := s.slot n
  if x.dom.arrived || (x.e.sy.active.toList ++ x.e.sy.entries).any fun e => e.willArrive && decide (e.ord < o)
  then x.dom.phase + 1#32 else x.dom.phase

/-! ### Atomics (09 R224, R228; 08 R208) -/

/-- The new value of an atomic on n bits: s the operand, c the compare value; MIN and MAX signed unless `uns`. -/
def amoNew (op : AmoOp) (n : Nat) (uns : Bool) (old s c : Nat) : Nat :=
  let v := fun (x : Nat) => if uns then (x : Int) else asInt n x
  match op with
  | .add => (old + s) % 2 ^ n
  | .swap => s
  | .cas => if old = c then s else old
  | .min => if v s < v old then s else old
  | .max => if v old < v s then s else old
  | .and => old &&& s
  | .or => old ||| s
  | .xor => old ^^^ s

/-- The new value of a lane of VAMO (09 R224). -/
def vamoNew (op : AmoOp) (t : ATy) (old s c : Nat) : Nat :=
  match op, t with
  | .add, .f32 => f32Fmt.round .rne ((f32Fmt.decode old).add false (f32Fmt.decode s))
  | op, t => amoNew op 32 (t == .n32) old s c

/-! ### Lanes -/

/-- The keys of the bytes of a local lane. A lane is naturally aligned, so its bytes stand together. -/
def LaneAcc.keys (l : LaneAcc) : List (Nat × Nat) := (below l.size).map fun j => (l.key + j, l.kid)

def LaneAcc.home (l : LaneAcc) : Nat :=
  match l.remote with
  | some (w, _) => 2 ^ 21 + w
  | none => homeOf l.key

/-- Lane i of a V register (04 R103). -/
def lane (v : BitVec 2048) (i : Nat) : W32 := v.extractLsb' (32 * i) 32

/-- A V register from its lanes. -/
def ofLanes (f : Nat → W32) : BitVec 2048 :=
  upTo 64 (fun i (acc : BitVec 2048) => acc ||| ((f i).setWidth 2048 <<< (32 * i))) 0#2048

/-- A V register with lane i replaced. -/
def setLane (v : BitVec 2048) (i : Nat) (x : W32) : BitVec 2048 :=
  (v &&& ~~~((0xFFFFFFFF#2048) <<< (32 * i))) ||| (x.setWidth 2048 <<< (32 * i))

/-- Choose lanes: from `new` where the mask bit is 1, else from `old`. -/
def mixLanes (mask : Word) (new old : BitVec 2048) : BitVec 2048 :=
  ofLanes fun i => if mask.getLsbD i then lane new i else lane old i

/-- The lane value that a load of e bytes gives (09 R219). -/
def loadExtend (sx : Bool) (e v : Nat) : W32 :=
  if sx then BitVec.ofInt 32 (asInt (8 * e) v) else BitVec.ofNat 32 v

/-- Take the value of one local lane of a load at its home. The first poisoned lane, in the order in which they are performed, gives
TRAP_INFO of its POISON (log 65). -/
def State.takeLane (s : State) (ctx : Nat) (a : LoadAcc) (l : LaneAcc) : State × LoadAcc :=
  let (s, bs, p) := s.loadKeys ctx l.keys
  (s, { a with
    data := setLane a.data l.lane (loadExtend a.sx l.size (leNat bs))
    poison := if p then a.poison ||| (1#64 <<< l.lane) else a.poison
    poisonAddr := if p && a.poison = 0#64 then l.addr else a.poisonAddr })

/-- The addresses of the local lanes that lie in buffers. -/
def bufAddrs (ls : List LaneAcc) : List Nat := (ls.filter fun l => isHbm l.key).map (·.addr)

/-- The bytes that one lane of a store leaves at its home; none where an atomic met an uncorrectable error (09 R219, R223,
R224). -/
def State.laneBytes (s : State) (l : StoreLane) : Option (List Byte) :=
  match l.kind with
  | .plain => some (leBytes l.acc.size l.val.toNat)
  | .nibble hi =>
    let (bs, _) := s.readKeys l.acc.keys
    let old := leNat bs
    let v := l.val.toNat % 16
    some (leBytes 1 (if hi then old % 16 + 16 * v else old / 16 * 16 + v))
  | .atomic op t c =>
    let (bs, p) := s.readKeys l.acc.keys
    if p then none else some (leBytes 4 (vamoNew op t (leNat bs) l.val.toNat c.toNat))

/-- The VAs that lanes written at their homes lie at, byte by byte. -/
def laneAddrs (ls : List StoreLane) : List Nat := ls.flatMap fun l => (below l.acc.size).map (l.acc.addr + ·)

/-- Apply a list of local store lanes in order; plain lanes are written together, so that whole sectors lose poison. The lanes that
were written, and the address of the first that met an uncorrectable error. -/
def State.applyLanes (s : State) (ctx : Nat) (ls : List StoreLane) : State × List StoreLane × Option Nat :=
  if ls.all fun l => l.kind == .plain then
    let ks := ls.flatMap fun l => l.acc.keys
    (s.writeKeys ctx ks (ls.flatMap fun l => leBytes l.acc.size l.val.toNat), ls, none)
  else
    ls.foldl (fun (r : State × List StoreLane × Option Nat) l =>
      let s := r.1.reportPoison ctx l.acc.keys
      match s.laneBytes l with
      | some bs => (s.writeAll (l.acc.keys.zip bs), r.2.1 ++ [l], r.2.2)
      | none => (s, r.2.1, match r.2.2 with | some a => some a | none => some l.acc.addr)) (s, [], none)

/-- Perform local store lanes of slot n: apply them, and count the bytes written and the units moved (08 R191, 14 R323, 15 R333). -/
def State.performLanes (s : State) (n : Nat) (phase : W32) (ls : List StoreLane) : State × Option Nat :=
  let r := s.applyLanes (s.slot n).y.ctx.toNat ls
  let vas := bufAddrs (ls.map (·.acc))
  (((r.1.heatAll vas).fillStream n 1 vas).countInbound n phase (laneAddrs r.2.1), r.2.2)

end Sys2Proof.Machine
end

