-- ==== Sys2Proof/Machine/Operands.lean ====
section
/-! DEFINITION. Operands: the register files of a slot (04 R99 to R103), address forms (09 R214), the fields of an entry, the
layout of MX operands (10 R235, R236), and formats of banks (07 R172, R174; 02 R47, R53). -/
namespace Sys2Proof.Machine

/-- A bit vector with bit i replaced. -/
def putBit {n : Nat} (x : BitVec n) (i : Nat) (b : Bool) : BitVec n :=
  if b then x ||| (1#n <<< i) else x &&& ~~~(1#n <<< i)

/-! ### Register files -/

/-- S registers; S0 reads 0 (04 R100). -/
def Slot.getS (x : Slot) (i : BitVec 5) : Word := if i = 0#5 then 0#64 else mget 0#64 x.r.s i.toNat
/-- A write that names S0 changes nothing (04 R100). -/
def Slot.setS (x : Slot) (i : BitVec 5) (v : Word) : Slot :=
  if i = 0#5 then x else { x with r := { x.r with s := mput x.r.s i.toNat v } }

/-- P registers; P0 reads 1 (04 R100). -/
def Slot.getP (x : Slot) (i : BitVec 3) : Bool := if i = 0#3 then true else x.r.p.getLsbD i.toNat
def Slot.setP (x : Slot) (i : BitVec 3) (b : Bool) : Slot :=
  if i = 0#3 then x else { x with r := { x.r with p := putBit x.r.p i.toNat b } }

/-- The X view of an engine: LD 0, ST 1, CP 2, MX 3 (04 R99, R102). -/
def viewOf : Engine → BitVec 2
  | .ld => 0#2
  | .st => 1#2
  | .cp => 2#2
  | .mx => 3#2
  | .vx => 0#2
  | .sy => 0#2

def Slot.getX (x : Slot) (view : BitVec 2) (i : BitVec 5) : Word := mget 0#64 x.r.x (view.toNat * 32 + i.toNat)
def Slot.setX (x : Slot) (view : BitVec 2) (i : BitVec 5) (v : Word) : Slot :=
  { x with r := { x.r with x := mput x.r.x (view.toNat * 32 + i.toNat) v } }

/-- V registers: fresh ones read zero (04 R101). -/
def Slot.getV (x : Slot) (i : BitVec 5) : BitVec 2048 := mget 0#2048 x.r.v i.toNat
def Slot.setV (x : Slot) (i : BitVec 5) (v : BitVec 2048) : Slot :=
  { x with r := { x.r with v := mput x.r.v i.toNat v } }

/-- K registers; K0 reads all ones (04 R100). -/
def Slot.getK (x : Slot) (i : BitVec 3) : Word := if i = 0#3 then BitVec.allOnes 64 else mget 0#64 x.r.k i.toNat
def Slot.setK (x : Slot) (i : BitVec 3) (v : Word) : Slot :=
  if i = 0#3 then x else { x with r := { x.r with k := mput x.r.k i.toNat v } }

/-- G registers; G7 reads 1 (04 R100). -/
def Slot.getG (x : Slot) (i : BitVec 3) : Bool := if i = 7#3 then true else x.r.g.getLsbD i.toNat
def Slot.setG (x : Slot) (i : BitVec 3) (b : Bool) : Slot :=
  if i = 7#3 then x else { x with r := { x.r with g := putBit x.r.g i.toNat b } }

/-- The place of tag t of an engine in `Regs.tags`: LD, ST, CP, MX, VX, sixteen each. -/
def tagIdx (e : Engine) (t : Nat) : Nat :=
  (match e with | .ld => 0 | .st => 16 | .cp => 32 | .mx => 48 | .vx => 64 | .sy => 64) + t

def Slot.tagPending (x : Slot) (e : Engine) (t : Option (BitVec 4)) : Bool :=
  match t with
  | some t => x.r.tags.getLsbD (tagIdx e t.toNat)
  | none => false

def Slot.setTag (x : Slot) (e : Engine) (t : Option (BitVec 4)) (b : Bool) : Slot :=
  match t with
  | some t => { x with r := { x.r with tags := putBit x.r.tags (tagIdx e t.toNat) b } }
  | none => x

/-! ### Engines -/

def Engines.get (q : Engines) : Engine → EngQ
  | .ld => q.ld | .st => q.st | .vx => q.vx | .mx => q.mx | .cp => q.cp | .sy => q.sy

def Engines.set (q : Engines) (e : Engine) (v : EngQ) : Engines :=
  match e with
  | .ld => { q with ld := v } | .st => { q with st := v } | .vx => { q with vx := v }
  | .mx => { q with mx := v } | .cp => { q with cp := v } | .sy => { q with sy := v }

def Slot.eng (x : Slot) (e : Engine) : EngQ := x.e.get e
def Slot.setEng (x : Slot) (e : Engine) (v : EngQ) : Slot := { x with e := x.e.set e v }

/-- The class code of an engine (03 R66). -/
def classOf : Engine → Nat
  | .vx => 1 | .mx => 2 | .ld => 3 | .st => 4 | .cp => 5 | .sy => 6

/-- The engines in the order of the trap block (20 R407). -/
def allEngines : List Engine := [.ld, .st, .vx, .mx, .cp, .sy]

/-! ### Entries -/

/-- The engine word of an entry; 0 for another entry. -/
def Entry.word (e : Entry) : BitVec 80 :=
  match e.cmd with
  | .eng w => w
  | .sy _ => 0#80
  | .movx _ _ => 0#80

def Entry.isEng (e : Entry) : Bool :=
  match e.cmd with
  | .eng _ => true
  | .sy _ => false
  | .movx _ _ => false

/-- The opcode field of the engine word (03 R78). -/
def Entry.opc (e : Entry) : Nat := fld e.word 79 70

/-- MARK of class 3 or 4 (03 R88). -/
def Entry.isMark (e : Entry) : Bool := e.isEng && e.opc == 0x010

/-- A captured S register (03 R70, R93). -/
def Entry.cap (e : Entry) (r : BitVec 5) : Word := mget 0#64 e.caps r.toNat

/-! Keys of `Entry.caps` beyond the S registers: RELOC[i] at 64 + i (28 R477); the sequence number of the other of LD and ST
at dispatch (08 R195); the S registers f to l and the P register that the entry writes (03 R70, 10 R250); the phase a SYNC
arrived in (14 R326). -/
def capReloc : Nat := 64
def capOther : Nat := 96
def capDestLo : Nat := 100
def capDestHi : Nat := 101
def capDestP : Nat := 102
def capPhase : Nat := 110
/-- 1 where the entry was dispatched by the kernel (19 R398). -/
def capKernel : Nat := 111
/-- The privilege level at which an entry was dispatched (18 R378; log 17). -/
def capLevel : Nat := 112
/-- DOMAIN and RED_MAX as they were at dispatch, and the guard register for an entry that stood in its queue when a SYSW wrote
GUARDS (04 R107). -/
def capDomain : Nat := 113
def capRedMax : Nat := 114
def capGuards : Nat := 115

/-- Whether an entry will write S register r (03 R70). -/
def Entry.writesS (e : Entry) (r : BitVec 5) : Bool :=
  match mfind e.caps capDestLo, mfind e.caps capDestHi with
  | some lo, some hi => decide (lo.toNat ≤ r.toNat) && decide (r.toNat ≤ hi.toNat)
  | _, _ => false

def Entry.writesP (e : Entry) (r : BitVec 3) : Bool := mfind e.caps capDestP == some (r.setWidth 64)

/-- The entries of SY and MX that stand, are being executed or are set aside. -/
def Slot.owing (x : Slot) : List Entry :=
  x.e.sy.active.toList ++ x.e.sy.entries ++ x.e.sy.aside ++ x.e.mx.entries ++ x.e.mx.aside

/-- A guard as an entry reads it at its issue: the value before a SYSW of GUARDS that followed it, if one did (03 R82, 04 R107). -/
def Slot.guardFor (x : Slot) (en : Entry) (g : BitVec 3) : Bool :=
  if g = 7#3 then true
  else match mfind en.caps capGuards with
    | some v => v.getLsbD g.toNat
    | none => x.getG g

/-- Whether an outstanding SY or MUNPARK write names S register r (03 R70); a write to S0 leaves nothing to wait for. -/
def Slot.owesS (x : Slot) (r : BitVec 5) : Bool := r != 0#5 && x.owing.any fun e => e.writesS r
def Slot.owesP (x : Slot) (r : BitVec 3) : Bool := r != 0#3 && x.owing.any fun e => e.writesP r

/-- Whether a word that reads or writes these registers waits (03 R70, 05 R111). -/
def Slot.waits (x : Slot) (ss : List (BitVec 5)) (ps : List (BitVec 3)) : Bool :=
  ss.any x.owesS || ps.any x.owesP

/-! ### Address forms (09 R214) -/

def esizeBytes : ESize → Nat
  | .w => 4 | .h => 2 | .b => 1

/-- The effective address: `a` is X[a], `cap` gives captured S registers. -/
def addrEa (f : AddrForm) (a : Word) (e : Nat) (cap : BitVec 5 → Word) : Word :=
  match f with
  | .off n => a + sext64 n * BitVec.ofNat 64 e
  | .postInc _ => a
  | .reg b => a + cap b

/-- The value that post-increment leaves in X[a]. -/
def addrInc (f : AddrForm) (a : Word) (e : Nat) : Option Word :=
  match f with
  | .off _ => none
  | .postInc n => some (a + sext64 n * BitVec.ofNat 64 e)
  | .reg _ => none

/-! ### Formats of banks (07 R172; 02 R40) -/

def Tile.bankFmt (t : Tile) (bank : Nat) : BitVec 16 := mget 0x0008#16 t.fmt bank

/-- The format of a code (02 R40). -/
def fmtOfCode (c : Nat) : Fmt :=
  match c with
  | 0 => .i8 | 1 => .i16 | 2 => .i32 | 3 => .i64 | 4 => .n8 | 5 => .n16 | 6 => .n32 | 7 => .n64
  | 8 => .fp32 | 9 => .fp16 | 10 => .bf16 | 11 => .e4m3 | 12 => .e5m2 | _ => .c4

def fmtOf (r : BitVec 16) : Fmt := fmtOfCode (fld r 3 0)
def scaledOf (r : BitVec 16) : Bool := r.getLsbD 7
def cbSlotOf (r : BitVec 16) : Nat := fld r 6 4

/-- Elements of a format per 64 bytes of K, as bits per element (10 R235). -/
def elemBits (f : Fmt) : Nat := match f with | .c4 => 4 | f => fmtBits f

/-- The row pitch of an MX operand: ceil(K × es / 64) × 64 (10 R235). -/
def rowPitch (k : Nat) (f : Fmt) : Nat := ceilDiv (k * elemBits f) 512 * 64

/-- K of an accumulating command (10 R233). -/
def kOf (kk : BitVec 12) : Nat := (kk.toNat + 1) * 8

/-- The entries that a Q operand pops: K × es / 4 (10 R236). -/
def qEntries (k : Nat) (f : Fmt) : Nat := k * elemBits f / 32

/-- K-steps per cycle (10 R234) and per group (02 R54). -/
def kRate (f : Fmt) : Nat := match f with | .c4 => 4 | .e4m3 => 2 | .e5m2 => 2 | _ => 1
def kGroup (f : Fmt) : Nat := match f with | .c4 => 32 | .e4m3 => 16 | .e5m2 => 16 | _ => 8

/-- The format that the B operand of an accumulating entry has, by the bank of X[b]. -/
def State.bFmt (s : State) (n : Nat) (e : Entry) : Fmt :=
  let xb := (s.slot n).getX 3#2 (BitVec.ofNat 5 (fld e.word 24 20))
  fmtOf ((s.tile (tileOf n)).bankFmt (bankOf xb.toNat))

/-- The LD→MX entries that an MX entry pops: an MMA, MMAZ or MMAP with A<7> = Q. -/
def State.popsOf (s : State) (n : Nat) (e : Entry) : Nat :=
  if e.isEng && decide (1 ≤ e.opc) && decide (e.opc ≤ 3) && e.word.getLsbD 35 then
    qEntries ((fld e.word 11 0 + 1) * 8) (s.bFmt n e)
  else 0

end Sys2Proof.Machine
end

