-- ==== Sys2Proof/Machine/Order.lean ====
section
/-! DEFINITION. What orders the accesses of a slot (08 R190 to R211): homes and scopes, the loads and stores that each command
names (R192), those that are still to be performed, engine pushes (R198), fences (R201) and the acquire of SYNC (R205). -/
namespace Sys2Proof.Machine

/-! ### Homes and scopes (08 R190, R200) -/

/-- Whether a home lies in a scope of slot n. -/
def homeIn (n : Nat) (sc : Scope) (home : Nat) : Bool :=
  let d := dieOf n
  match sc with
  | .t => decide (home = saTile (tileOf n))
  | .d => decide (home < 2 ^ 20 ∧ home / 64 = d) || decide (home = 2 ^ 20 + 2 * d) || decide (home = 2 ^ 20 + 2 * d + 1)
  | .p => decide (home < 2 ^ 21)
  | .f => true

/-- The narrowest scope that holds a set of homes (08 R198). -/
def narrowest (n : Nat) (homes : List Nat) : Scope :=
  if homes.all (homeIn n .t) then .t
  else if homes.all (homeIn n .d) then .d
  else if homes.all (homeIn n .p) then .p
  else .f

/-- The window of a fabric address (09 R221). -/
def winOf (a : Nat) : Nat := (a / 2 ^ 40) % 4096

/-- The home of what a window reaches (08 R190, R200): in scope .F alone. -/
def farHome (w : Nat) : Nat := 2 ^ 21 + w

/-- The home of an object held by the sync unit of a die, for scopes (log 35). -/
def dieHome (d : Nat) : Nat := 2 ^ 20 + 2 * d

/-- A home in a scope and in no narrower one, for an object that a scope alone places (14 R324: a domain). -/
def scopeHome (n : Nat) (sc : Scope) : Nat :=
  match sc with
  | .t => saTile (tileOf n)
  | .d => dieHome (dieOf n)
  | .p => dieHome ((dieOf n + 1) % 8)
  | .f => farHome 0

/-! ### Objects of the sync unit -/

def ctxDie (e : Nat) : Nat := natBits e 54 52

/-- A context-table entry (16 R347). -/
def State.context (s : State) (c : Nat) : Nat := s.entry 0x10 c

/-- The die of the context of slot n (16 R347). -/
def State.dieOfCtx (s : State) (n : Nat) : Nat := ctxDie (s.context (s.slot n).y.ctx.toNat)

/-- The index of a queue in the maps (13 R306). -/
def queueKey (h : Nat) : Nat := (h / 2 ^ 29) % 8 * 4096 + (h / 2 ^ 17) % 4096

/-- The record that a future handle names (18 R382). -/
def futSlot (h : W32) : Nat := h.toNat / 4096

/-- A queue handle in a register: its low 32 bits (log 18). -/
def handleOf (w : Word) : Nat := w.toNat % 2 ^ 32

/-- A selector's class and index (18 R378). -/
def selClass (v : Nat) : Nat := v / 4096 % 16
def selIndex (v : Nat) : Nat := v % 4096

/-- The scope that a DOMAIN value gives (08 R205; 04 R108). -/
def scopeOfDomain (v : Word) : Scope :=
  match fld v 63 62 with
  | 0 => .t | 1 => .d | 2 => .p | _ => .f

/-- DOMAIN as it was when an entry was dispatched (04 R107). -/
def Entry.domain (en : Entry) : Word := mget 0#64 en.caps capDomain

/-! ### Copies as ranges (11 R251, R253 to R256) -/

/-- The completion counter and the increment that a CP command names (11 R251). -/
def ctrOf (i : Instr) : Nat × Nat :=
  let f := fun (id : BitVec 8) (inc : BitVec 4) => (id.toNat, inc.toNat)
  match i with
  | .cpy _ _ _ _ _ _ _ id inc => f id inc
  | .cpy2 _ _ _ _ _ _ _ _ id inc => f id inc
  | .cpys _ _ _ _ _ _ id inc => f id inc
  | .cpyf _ _ _ _ _ _ _ id inc => f id inc
  | .fill _ _ _ _ _ id inc => f id inc
  | .fillDiscard _ _ id inc => f id inc
  | .nmaxpy _ _ _ _ _ id inc => f id inc
  | .nmscale _ _ _ _ id inc => f id inc
  | .nmfade _ _ _ _ _ id inc => f id inc
  | .nmsum _ _ _ _ id inc => f id inc
  | .nmfill _ _ _ _ id inc => f id inc
  | .nmchk _ _ _ id inc => f id inc
  | .nmfence _ id inc => f id inc
  | _ => (0, 0)

/-- The source of a copy: a VA range, an SA range, a range of a window, or a pattern (11 R253, R256). -/
inductive CopyEnd where
  | va | sa | far | pattern (v : Word)
deriving DecidableEq, Repr

/-- The rows of a copy (11 R254 to R256): lengths in bytes, or in elements under CV. -/
structure CopyPlan where
  dst : CopyEnd
  src : CopyEnd
  cv : Bool
  rows : Nat
  len : Nat
  dstStride : Nat
  srcStride : Nat
deriving DecidableEq, Repr

def endOf (isVa : Bool) : CopyEnd := if isVa then .va else .sa

/-- The plan of a copy by rows; none for CPYS and for commands that are not copies. -/
def planOf (i : Instr) (en : Entry) : Option CopyPlan :=
  let c := fun (r : BitVec 5) => (en.cap r).toNat
  match i with
  | .cpy _ dv cv sv _ _ n _ _ => some ⟨endOf dv, endOf sv, cv, 1, c n, 0, 0⟩
  | .cpy2 _ dv cv sv _ _ n m _ _ =>
    some ⟨endOf dv, endOf sv, cv, c n / 2 ^ 32, c n % 2 ^ 32, c m / 2 ^ 32, c m % 2 ^ 32⟩
  | .cpyf _ fs dv sv _ _ n _ _ =>
    some (if fs then ⟨endOf dv, .far, false, 1, c n, 0, 0⟩ else ⟨.far, endOf sv, false, 1, c n, 0, 0⟩)
  | .fill _ dv _ n v _ _ => some ⟨endOf dv, .pattern (en.cap v), false, 1, c n, 0, 0⟩
  | _ => none

def CopyPlan.empty (p : CopyPlan) : Bool := decide (p.rows = 0) || decide (p.len = 0)

/-! ### Units of a copy (11 R255). A unit is numbered row × 2^40 + its position in the row. -/

/-- Address a + k over 64 bits. -/
def wrapAdd (a : Word) (k : Nat) : Nat := (a + BitVec.ofNat 64 k).toNat

/-- The first addresses of row r. -/
def rowAt (a : Word) (stride r : Nat) : Nat := wrapAdd a (stride * r)

/-- Unit k of a raw row that starts at d: its offset in the row and its length; 0 when the row has no such unit. -/
def rawSpan (d len k : Nat) : Nat × Nat :=
  let o := if k = 0 then 0 else 64 * k - d % 64
  (o, min (len - o) (64 - (d + o) % 64))

/-- The elements of the unit of a converting row that lies `target` 64-byte spans up, as half-byte positions (02 R47). -/
def State.cvWalk (s : State) (target : Nat) : Nat → Nat → Nat → Nat → List (Nat × Nat)
  | 0, _, _, _ => []
  | fuel + 1, left, ps, pd =>
    if left = 0 || target < pd / 128 then []
    else
      let size := fun (p : Nat) => elemBits (fmtOf ((s.tile (tileOfSa (p / 2))).bankFmt (bankOf (p / 2)))) / 4
      let r := s.cvWalk target fuel (left - 1) (ps + size ps) (pd + size pd)
      if pd / 128 = target then (ps, pd) :: r else r

/-- The elements of unit k of a converting row. -/
def State.cvUnit (s : State) (d src len k : Nat) : List (Nat × Nat) :=
  s.cvWalk (d / 64 + k) (128 * (k + 1)) len (2 * src) (2 * d)

/-- Whether the unit that comes next exists; where its row has ended, the first unit of the next row comes. -/
def State.unitOf (s : State) (p : CopyPlan) (j : CopyJob) : Option Nat :=
  if p.empty then none
  else
    let has := fun (u : Nat) =>
      let r := u / 2 ^ 40
      let k := u % 2 ^ 40
      let d := rowAt j.xd p.dstStride r
      if p.cv then !(s.cvUnit d (rowAt j.xs p.srcStride r) p.len k).isEmpty else decide (0 < (rawSpan d p.len k).2)
    let u := if has j.unit then j.unit else (j.unit / 2 ^ 40 + 1) * 2 ^ 40
    if u / 2 ^ 40 < p.rows then some u else none

/-- The number of CPYS elements. -/
def shardCount (i : Instr) (en : Entry) : Nat :=
  match i with
  | .cpys _ _ _ _ n _ _ _ => (en.cap n).toNat
  | _ => 0

/-- FILL.DISCARD, which has one unit: the discard itself (07 R186). -/
def isDiscard (i : Instr) : Bool :=
  match i with
  | .fillDiscard _ _ _ _ => true
  | _ => false

/-- Whether a copy still has a unit to perform. -/
def State.copyLeft (s : State) (j : CopyJob) : Bool :=
  match planOf j.instr j.entry with
  | some p => (s.unitOf p j).isSome
  | none => decide (j.unit < if isDiscard j.instr then 1 else shardCount j.instr j.entry)

/-! ### Homes of ranges (08 R190) -/

/-- The homes of a range: its slices, or the stacks of its granules. -/
def State.rangeHomes (s : State) (isVa : Bool) (a len : Nat) : List Nat :=
  if isVa then
    let e := s.see 0x00 (vaIndex a)
    let g := bufGran e
    let o := vaOffset a
    (below (min ((o % g + len) / g + 1) (2 * bufStacks e + 2))).map fun i =>
      2 ^ 20 + (placeOf e 0 0 ((o / g + i) * g)).1
  else [a / 2 ^ 22, (a + (len - 1)) / 2 ^ 22]

/-- The homes of rows: row by row, and for many rows every slice that they pass or every stack of their buffer (log 9). -/
def State.rowHomes (s : State) (isVa : Bool) (a : Word) (stride rows len : Nat) : List Nat :=
  if rows ≤ 64 then (below rows).flatMap fun r => s.rangeHomes isVa (rowAt a stride r) len
  else if isVa then (below 16).filterMap fun k => if natBit (bufMask (s.see 0x00 (vaIndex a.toNat))) k then some (2 ^ 20 + k) else none
  else if 2 ^ 22 ≤ stride then (below (min rows 512)).flatMap fun r => s.rangeHomes false (rowAt a stride r) len
  else (below (min 512 (((rows - 1) * stride + len) / 2 ^ 22 + 2))).map fun k => a.toNat / 2 ^ 22 + k

/-- The homes of one end of a copy by rows. -/
def State.endHomes (s : State) (e : CopyEnd) (a : Word) (stride rows len : Nat) : List Nat :=
  match e with
  | .va => s.rowHomes true a stride rows len
  | .sa => s.rowHomes false a stride rows len
  | .far => [farHome (winOf a.toNat)]
  | .pattern _ => []

/-- The homes of a side of CPYS, from the owners of its snapshot: the stacks of each owner's buffer, or a window (15 R340). -/
def State.ownerHomes (s : State) (snap : List (Nat × Nat)) (side : Nat) : List Nat :=
  (snap.filter fun p => decide (side ≤ p.1) && decide (p.1 < side + 2 ^ 20) && natBit p.2 127).flatMap fun p =>
    if natBits p.2 126 115 = s.entry 0x0A 0 then
      (below 16).filterMap fun k => if natBit (bufMask (s.see 0x00 (natBits p.2 114 95))) k then some (2 ^ 20 + k) else none
    else [farHome (natBits p.2 106 95)]

/-! ### Units that CP has checked and not performed (07 R177, R186; 11 R255) -/

/-- The requests that a copy has out or answered. -/
def State.copyReqs (s : State) (n : Nat) (seq : W32) : List FabReq :=
  s.stations.foldl (fun acc e => acc ++ e.2.reqs.filter fun r => decide (r.who = n) && r.live && decide (r.kind = .copy seq)) []

/-- The place of a raw unit: its destination and source addresses, its offset in its row and its length. -/
def rawPlace (p : CopyPlan) (u d0 s0 : Nat) : Nat × Nat × Nat × Nat :=
  let (o, len) := rawSpan d0 p.len (u % 2 ^ 40)
  ((d0 + o) % 2 ^ 64, (s0 + o) % 2 ^ 64, o, len)

/-- Whether a copy of slot n from a window has checked a unit in these banks of a tile and waits for its bytes. -/
def State.copyUses (s : State) (n tile mask : Nat) : Bool :=
  (s.slot n).journal.any fun j =>
    match planOf j.instr j.entry with
    | some p =>
      p.src == .far && p.dst == .sa && !(s.copyReqs n j.entry.seq).isEmpty &&
      (let u := (s.unitOf p j).getD 0
       let (d, _, _, len) := rawPlace p u (rowAt j.xd p.dstStride (u / 2 ^ 40)) (rowAt j.xs p.srcStride (u / 2 ^ 40))
       (below len).any fun b => decide (tileOfSa (d + b) = tile) && natBit mask (bankOf (d + b)))
    | none => false

/-! ### Loads and stores of a command (08 R192) -/

/-- The homes that a command loads from and stores to, and for a near-memory command those of its sectors (08 R201, R210); none
where the entry does not fix them before its issue: every home counts. -/
structure Acc where
  rd : Option (List Nat) := some []
  wr : Option (List Nat) := some []
  nm : Option (List Nat) := some []
deriving DecidableEq, Repr

/-- Whether one of a set of homes lies in a scope. -/
def homesIn (n : Nat) (sc : Scope) : Option (List Nat) → Bool
  | none => true
  | some hs => hs.any (homeIn n sc)

/-- The X value that a class 3 or 4 command leaves by post-increment: its guard, register and form (09 R214). -/
def incOf (i : Instr) : Option (BitVec 3 × BitVec 5 × AddrForm × Nat) :=
  match i with
  | .ld k sz _ _ _ _ a am => some (k.guard, a, am, esizeBytes sz)
  | .ldb k sz _ _ _ _ a am => some (k.guard, a, am, esizeBytes sz)
  | .ldg k sz _ _ _ _ a _ _ am => some (k.guard, a, am, esizeBytes sz)
  | .ldf k sz _ _ _ _ a am => some (k.guard, a, am, esizeBytes sz)
  | .st k sz _ _ a am => some (k.guard, a, am, esizeBytes sz)
  | .stb k sz _ _ a am => some (k.guard, a, am, esizeBytes sz)
  | .stg k sz _ _ a _ _ am => some (k.guard, a, am, esizeBytes sz)
  | .stf k sz _ _ a am => some (k.guard, a, am, esizeBytes sz)
  | .stn4 k _ _ a _ am => some (k.guard, a, am, 1)
  | .vamo k _ _ _ _ a _ _ _ am => some (k.guard, a, am, 4)
  | _ => none

/-- An entry as an instruction. -/
def Entry.instr (e : Engine) (en : Entry) : Option Instr :=
  match en.cmd with
  | .eng w => (decodeEngine (BitVec.ofNat 3 (classOf e)) w).toOption
  | .sy i => some i
  | .movx _ _ => none

/-- X as the entries before a queue position will have left it; none where a guard that is not known yet decides. -/
def xAfter (e : Engine) (en : Entry) (xv : BitVec 5 → Option Word) : BitVec 5 → Option Word :=
  match en.cmd with
  | .movx d v => fun r => if r = d then some v else xv r
  | .sy _ => xv
  | .eng _ =>
    match (en.instr e).bind incOf with
    | some (g, a, am, sz) => fun r =>
      if r = a then (xv a).bind fun v => match addrInc am v sz with
        | some w => if g = 7#3 then some w else none
        | none => some v
      else xv r
    | none => xv

/-- The homes of a contiguous access of `len` bytes. -/
def State.spanHomes (s : State) (isVa : Bool) (am : AddrForm) (sz len : Nat) (en : Entry) (x : Option Word) : Option (List Nat) :=
  x.map fun v => s.rangeHomes isVa (addrEa am v sz en.cap).toNat len

/-- The homes of what an IND form reads or writes (14 R318). -/
def State.indHomes (s : State) (ind : Bool) (t : Nat) : List Nat := if ind then s.rangeHomes (decide (t ≥ 2 ^ 40)) t 64 else []

/-- The loads and stores of an instruction of slot n, its X values given (08 R192). -/
def State.accOf (s : State) (n : Nat) (en : Entry) (xv : BitVec 5 → Option Word) (i : Instr) : Acc :=
  let own := saTile (tileOf n)
  let mine := dieHome (s.dieOfCtx n)
  let cp := fun (d a : BitVec 5) =>
    match planOf i en with
    | some p =>
      let b := p.len * (if p.cv then 8 else 1)
      ({ rd := match p.src with
          | .pattern _ => some []
          | e => (xv a).map fun v => s.endHomes e v p.srcStride p.rows b
         wr := (xv d).map fun v => s.endHomes p.dst v p.dstStride p.rows b } : Acc)
    | none => { rd := none, wr := none }
  let nm := fun (rs : List (BitVec 5 × Nat)) =>
    ({ nm := rs.foldl (fun acc r => match acc, xv r.1 with
        | some l, some v => some (l ++ s.rangeHomes true v.toNat r.2)
        | _, _ => none) (some []) } : Acc)
  let len := fun (r : BitVec 5) => (en.cap r).toNat * 4
  let both := fun (hs : List Nat) => ({ rd := some hs, wr := some hs } : Acc)
  let q := fun (r : BitVec 5) => dieHome (queueKey (handleOf (en.cap r)) / 4096)
  let fut := fun (r : BitVec 5) => dieHome (futSlot ((en.cap r).setWidth 32) / 8192 % 8)
  let sel := fun (r : BitVec 5) =>
    let c := selClass (en.cap r).toNat
    if c = 0 || c = 2 then mine else if c = 6 then dieHome (dieOf n) else own
  let dom := scopeHome n (scopeOfDomain en.domain)
  match i with
  | .ld _ sz _ _ _ _ a am => { rd := s.spanHomes false am (esizeBytes sz) (64 * esizeBytes sz) en (xv a) }
  | .ldb _ sz _ _ _ _ a am => { rd := s.spanHomes true am (esizeBytes sz) (64 * esizeBytes sz) en (xv a) }
  | .ldg _ _ _ _ _ _ _ _ _ _ => { rd := none }
  | .ldf _ _ _ _ _ _ a _ => { rd := (xv a).map fun v => [farHome (winOf v.toNat)] }
  | .lds _ _ _ _ _ _ _ _ _ => { rd := none }
  | .st _ sz _ _ a am => { wr := s.spanHomes false am (esizeBytes sz) (64 * esizeBytes sz) en (xv a) }
  | .stb _ sz _ _ a am => { wr := s.spanHomes true am (esizeBytes sz) (64 * esizeBytes sz) en (xv a) }
  | .stg _ _ _ _ _ _ _ _ => { wr := none }
  | .stf _ _ _ _ a _ => { wr := (xv a).map fun v => [farHome (winOf v.toNat)] }
  | .stn4 _ _ _ a buf am => { wr := s.spanHomes buf am 1 32 en (xv a) }
  | .vamo _ _ _ _ _ _ _ _ _ _ => { rd := none, wr := none }
  | .mma _ _ _ _ _ _ _ _ => { rd := some [own] }
  | .mmaz _ _ _ _ _ _ _ _ => { rd := some [own] }
  | .mmap _ _ _ _ _ _ _ _ => { rd := some [own] }
  | .mdrain _ res drop _ _ _ _ _ _ =>
    { rd := some (if res then [own] else []), wr := some (if drop then [] else [own]) }
  | .cpy _ _ _ _ d a _ _ _ => cp d a
  | .cpy2 _ _ _ _ d a _ _ _ _ => cp d a
  | .cpyf _ _ _ _ d a _ _ _ => cp d a
  | .fill _ _ d _ _ _ _ => cp d d
  | .cpys _ _ _ _ _ _ _ _ => { rd := none, wr := none }
  | .fillDiscard _ _ _ _ => { wr := some [own] }
  | .nmaxpy _ y x _ c _ _ => nm [(y, len c), (x, len c)]
  | .nmscale _ y _ c _ _ => nm [(y, len c)]
  | .nmfade _ w g _ c _ _ => nm [(w, len c), (g, len c)]
  | .nmsum _ r x c _ _ => nm [(r, 4), (x, len c)]
  | .nmfill _ y _ c _ _ => nm [(y, len c)]
  | .nmchk _ y c _ _ => nm [(y, len c)]
  | .enq _ a b ind => { rd := some (s.indHomes ind (en.cap b).toNat), wr := some [q a] }
  | .deq _ a b ind _ => { rd := some [q a], wr := some (s.indHomes ind (en.cap b).toNat) }
  | .peek _ a b ind _ => { rd := some [q a], wr := some (s.indHomes ind (en.cap b).toNat) }
  | .qstat _ a => { rd := some [q a] }
  | .enqr _ a _ _ => { wr := some [farHome ((en.cap a).toNat / 2 ^ 32 % 4096)] }
  | .sync _ => if (mfind en.caps capPhase).isSome then { rd := some [dom] } else both [dom]
  | .syncW => { rd := some [dom] }
  | .arrive _ => { wr := some [dom] }
  | .waitc _ _ _ => { rd := some [mine] }
  | .spawn _ _ => { wr := some [mine] }
  | .refF _ a => both [fut a]
  | .dropF _ a => both [fut a]
  | .await _ a => { rd := some [fut a] }
  | .awaitl _ a => { rd := some [fut a] }
  | .yieldl _ _ _ => { rd := some [mine] }
  | .tktset _ _ _ => both [mine]
  | .tktget _ _ _ => { rd := some [mine] }
  | .draw _ _ => both [own]
  | .ctrget _ a => { rd := some [sel a] }
  | .ctrset a _ => { wr := some [sel a] }
  | .ctradd a _ => { wr := some [sel a] }
  | _ => {}

/-- The update of its completion counter is a store of a CP command (08 R192, 11 R252). -/
def Acc.withCtr (a : Acc) (home : Nat) : Acc := { a with wr := a.wr.map (· ++ [home]) }

/-- The home of the completion counters that slot n uses (18 R380; log 35). -/
def State.ctrHome (s : State) (n : Nat) : Nat := dieHome (s.dieOfCtx n)

/-- What an entry of a queue accesses. -/
def State.entryAcc (s : State) (n : Nat) (e : Engine) (en : Entry) (xv : BitVec 5 → Option Word) : Acc :=
  match en.instr e with
  | none => {}
  | some i => if e == .cp then (s.accOf n en xv i).withCtr (s.ctrHome n) else s.accOf n en xv i

/-- The entries of one queue with what they access, X followed through the queue. -/
def State.queueAcc (s : State) (n : Nat) (e : Engine) : List Entry → (BitVec 5 → Option Word) → List (Nat × Acc)
  | [], _ => []
  | en :: r, xv =>
    (en.ord, s.entryAcc n e en xv) :: s.queueAcc n e r (xAfter e en xv)

/-- An X view once the post-increments on their way have landed. -/
def Slot.xNow (x : Slot) (e : Engine) (r : BitVec 5) : Option Word :=
  some (x.landings.foldl (fun v l => l.results.foldl (fun v q =>
    if q.dest = .x (viewOf e) r then q.val.setWidth 64 else v) v) (x.getX (viewOf e) r))

/-! ### Commands that have issued -/

def LaneAcc.homes (ls : List LaneAcc) : List Nat := ls.map (·.home)

/-- The homes of a parked store: the stacks of its lanes; the stack of a VA does not depend on the page map (07 R180). -/
def State.parkedHomes (s : State) (isVa : Bool) (ls : List (Nat × Nat)) : List Nat :=
  ls.flatMap fun l => s.rangeHomes isVa l.1 l.2

def StoreAcc.atomic (a : StoreAcc) : Bool :=
  a.lanes.any fun l => match l.kind with
    | .atomic _ _ _ => true
    | .plain => false
    | .nibble _ => false

def StoreAcc.acc (a : StoreAcc) (hs : List Nat) : Acc := { rd := some (if a.atomic then hs else []), wr := some hs }

/-- Near-memory commands (03 R88). -/
def Entry.isNm (e : Entry) : Bool := e.isEng && decide (0x010 ≤ e.opc)

/-- X as a journal entry read it at its issue: its destination register and its source register. -/
def CopyJob.xv (j : CopyJob) (r : BitVec 5) : Option Word :=
  let pick := fun (d : BitVec 5) => some (if r = d then j.xd else j.xs)
  match j.instr with
  | .cpy _ _ _ _ d _ _ _ _ => pick d
  | .cpy2 _ _ _ _ d _ _ _ _ _ => pick d
  | .cpyf _ _ _ _ d _ _ _ _ => pick d
  | .nmaxpy _ y _ _ _ _ _ => pick y
  | .nmfade _ w _ _ _ _ _ => pick w
  | .nmsum _ y _ _ _ _ => pick y
  | _ => some j.xd

/-- The loads and stores of a journal entry, its counter aside. -/
def State.jobSpans (s : State) (n : Nat) (j : CopyJob) : Acc :=
  match j.instr with
  | .cpys _ _ _ _ _ _ _ _ => { rd := some (s.ownerHomes j.snap (2 ^ 20)), wr := some (s.ownerHomes j.snap (2 ^ 21)) }
  | i => s.accOf n j.entry j.xv i

/-- What a journal entry has still to access: nothing while a cut has it stopped (20 R410), its counter alone once every unit is
performed (11 R252). -/
def State.jobAcc (s : State) (n : Nat) (j : CopyJob) : Acc :=
  if j.entry.isNm then (s.jobSpans n j).withCtr (s.ctrHome n)
  else if !j.entry.issued then {}
  else if !s.copyLeft j then { wr := some [s.ctrHome n] }
  else (s.jobSpans n j).withCtr (s.ctrHome n)

/-- The ENQRs of a slot whose outcome has not come back: remote stores (14 R320; 08 R211). -/
def State.enqrsOut (s : State) (n : Nat) : List (Nat × Acc) :=
  s.stations.flatMap fun e => e.2.reqs.filterMap fun r => match r.kind with
    | .enqr _ => if r.who = n && !r.answered then some (r.ord, { wr := some [farHome r.window] }) else none
    | .load _ => none
    | .store _ => none
    | .copy _ => none

/-- Everything that slot n has dispatched and not performed, with its position in program order. What a cut has set aside is not
dispatched any more (20 R409). -/
def State.outstanding (s : State) (n : Nat) : List (Nat × Acc) :=
  let x := s.slot n
  let q := fun (e : Engine) => s.queueAcc n e ((x.eng e).active.toList ++ (x.eng e).entries) (x.xNow e)
  q .ld ++ q .st ++ q .cp ++ q .mx ++ q .sy ++
  x.loads.map (fun a => (a.entry.ord, { rd := some (LaneAcc.homes a.lanes) })) ++
  x.storeQ.map (fun a => (a.entry.ord, a.acc (LaneAcc.homes (a.lanes.map (·.acc))))) ++
  x.replay.map (fun a => (a.entry.ord, a.acc (s.parkedHomes true (a.lanes.map fun l => (l.acc.addr, l.acc.size))))) ++
  x.journal.map (fun j => (j.entry.ord, s.jobAcc n j)) ++
  (match (s.tile (tileOf n)).busy with
    | some b => if b.slot = n then s.queueAcc n .mx [b.entry] (x.xNow .mx) else []
    | none => []) ++
  s.enqrsOut n

/-- Whether a load, a store or a near-memory command before position `o` has a byte in a scope and is still to be performed. -/
def State.loadsLeft (s : State) (n : Nat) (sc : Scope) (o : Nat) : Bool :=
  (s.outstanding n).any fun a => decide (a.1 < o) && homesIn n sc a.2.rd
def State.storesLeft (s : State) (n : Nat) (sc : Scope) (o : Nat) : Bool :=
  (s.outstanding n).any fun a => decide (a.1 < o) && homesIn n sc a.2.wr
def State.nmLeft (s : State) (n : Nat) (sc : Scope) (o : Nat) : Bool :=
  (s.outstanding n).any fun a => decide (a.1 < o) && homesIn n sc a.2.nm

/-- R198: no store of the slot dispatched before `o`, of any stream, whose home lies in the scope is still to be performed,
and the replay queue is empty. -/
def State.pushClear (s : State) (n : Nat) (sc : Scope) (o : Nat) : Bool := !s.storesLeft n sc o && (s.slot n).replay.isEmpty

/-! ### Fences (08 R201) -/

/-- Whether something that a fence orders first is still due. A release does not complete while the replay queue holds an entry
(R209). -/
def State.fenceHolds (s : State) (n : Nat) (f : Fence) : Bool :=
  let both := s.loadsLeft n f.scope f.ord || s.storesLeft n f.scope f.ord || !(s.slot n).replay.isEmpty
  match f.kind with
  | .ls => both
  | .rel => both
  | .acq => s.loadsLeft n f.scope f.ord
  | .sc => both || s.nmLeft n f.scope f.ord || s.pend.any fun p => decide (p.slot = n) && decide (p.ord < f.ord)
  | .nm => s.nmLeft n f.scope f.ord

/-- What a fence holds back (08 R201). -/
inductive AccKind where
  | load | store | both | nm
deriving DecidableEq, Repr

def fenceCovers : FenceKind → AccKind → Bool
  | .ls, .nm => false
  | .ls, _ => true
  | .rel, .store => true
  | .rel, .both => true
  | .rel, _ => false
  | .acq, .nm => false
  | .acq, _ => true
  | .sc, _ => true
  | .nm, _ => true

/-- Whether an entry is a SYNC or SYNC.W, which acquires at its domain's scope (08 R205). -/
def Entry.acquires (en : Entry) : Bool :=
  match en.cmd with
  | .sy (.sync _) => true
  | .sy .syncW => true
  | .sy _ => false
  | .eng _ => false
  | .movx _ _ => false

/-- Whether a SYNC before position `o` that has not retired holds a load of these homes (08 R205). -/
def Slot.syncHolds (x : Slot) (n o : Nat) (homes : List Nat) : Bool :=
  (x.e.sy.active.toList ++ x.e.sy.entries).any fun e =>
    e.acquires && decide (e.ord < o) && homes.any (homeIn n (scopeOfDomain e.domain))

/-- Whether a fence, or for a load a SYNC, holds an access at position `o` with these homes. -/
def State.fenced (s : State) (n o : Nat) (k : AccKind) (homes : List Nat) : Bool :=
  ((s.slot n).fences.any fun f =>
    decide (f.ord < o) && fenceCovers f.kind k && homes.any (homeIn n f.scope) && s.fenceHolds n f) ||
  ((k == .load || k == .both) && (s.slot n).syncHolds n o homes)

/-- Whether a FENCE.SC holds the translation of an access at position `o` (08 R201, R203). -/
def State.scHolds (s : State) (n o : Nat) : Bool :=
  (s.slot n).fences.any fun f => decide (f.ord < o) && f.kind == .sc && s.fenceHolds n f

/-- Whether a command may perform what comes next (08 R198, R201). -/
def State.clearFor (s : State) (n o : Nat) (k : AccKind) (homes : List Nat) : Bool :=
  s.pushClear n (narrowest n homes) o && !s.fenced n o k homes && !s.scHolds n o

/-- Fences whose first side is complete are met: what comes later does not arm them again. -/
def State.dropFences (s : State) (n : Nat) : State :=
  if (s.slot n).fences.all fun f => s.fenceHolds n f then s
  else
    let x := s.slot n
    s.setSlot n { x with fences := x.fences.filter fun f => s.fenceHolds n f }

end Sys2Proof.Machine
end

