-- ==== Sys2Proof/Machine/Ops.lean ====
section
/-! DEFINITION. The named operations of a slot: queues and retirement (13 R296 to R298), tokens (13 R302), landings (03 R81,
R84, R85), order (08 R194 to R205), performance of loads and stores, the issue of an engine command (03 R77 to R85), and
taking a trap and returning from one (20 R405 to R411). -/
namespace Sys2Proof.Machine

/-! ### Answers of an operation -/

/-- What an operation answers besides a result: a wait, a fault, or a fault after reads that leave a state (12 R277, R278). -/
inductive Stop where
  | wait
  | fault (f : Flt)
  | after (s : State) (f : Flt)

abbrev M (α : Type) := Except Stop α

def waitM {α : Type} : M α := .error .wait
def faultM {α : Type} (code info : Nat) : M α := .error (.fault ⟨code, info⟩)
/-- Go on if the condition holds, wait otherwise. -/
def need (c : Bool) : M Unit := if c then .ok () else .error .wait
def liftF {α : Type} : Except Flt α → M α
  | .ok a => .ok a
  | .error f => .error (.fault f)
/-- A check made after reads: a failure leaves what they did. -/
def afterF {α : Type} (s : State) : Except Flt α → M α
  | .ok a => .ok a
  | .error f => .error (.after s f)

def State.upMe (s : State) (f : Slot → Slot) : State := s.setMe (f s.me)
def State.upSlot (s : State) (n : Nat) (f : Slot → Slot) : State := s.setSlot n (f (s.slot n))

/-- Advance the program counter over `k` bytes. -/
def Slot.advance (x : Slot) (k : Nat) : Slot := { x with pc := x.pc + BitVec.ofNat 64 k }

/-! ### Queues -/

/-- Depths of the engine command queues (13 R295). -/
def depthOf : Engine → Nat
  | .ld => 64 | .st => 64 | .vx => 32 | .mx => 16 | .cp => 16 | .sy => 16

def Slot.room (x : Slot) (e : Engine) : Bool := decide ((x.eng e).entries.length < depthOf e)

/-- Place an entry in a queue: it takes the next sequence number (13 R296), and RED_MAX, DOMAIN and SLIP_DEPTH are bound for it
(04 R107). -/
def Slot.enqueue (x : Slot) (e : Engine) (en : Entry) : Slot :=
  let q := x.eng e
  let other := match e with | .ld => x.e.st.seqNo | .st => x.e.ld.seqNo | _ => 0#32
  let en := { en with
    seq := q.seqNo + 1#32
    ord := x.ord + 1
    pos := q.words + (if en.isEng then 1 else 0)
    caps := match e with
      | .ld => mput en.caps capOther (other.setWidth 64)
      | .st => mput en.caps capOther (other.setWidth 64)
      | .mx => mput en.caps capRedMax (x.y.redMax.setWidth 64)
      | .sy => mput en.caps capDomain x.y.domain
      | .vx => en.caps
      | .cp => en.caps
    slip := x.y.slip }
  let x := x.setEng e { q with entries := q.entries ++ [en], seqNo := q.seqNo + 1#32, words := en.pos }
  { x with ord := x.ord + 1 }

/-- Absorb the numbers retired out of turn, with fuel. -/
def absorb : Nat → W32 → List W32 → W32 × List W32
  | 0, r, l => (r, l)
  | fuel + 1, r, l => if l.contains (r + 1#32) then absorb fuel (r + 1#32) (l.filter (· ≠ r + 1#32)) else (r, l)

/-- The entry numbered `n` retires (13 R296): `retired` is the highest n such that every entry numbered n or below has. -/
def EngQ.retire (q : EngQ) (n : W32) : EngQ :=
  let l := n :: q.early
  let (r, l) := absorb l.length q.retired l
  { q with retired := r, early := l }

def Slot.retire (x : Slot) (e : Engine) (n : W32) : Slot := x.setEng e ((x.eng e).retire n)

/-- The head entry issues: it leaves its queue, and the stream PC holds its tag (01 R18, 03 R67, 13 R297). -/
def Slot.leave (x : Slot) (e : Engine) (en : Entry) : Slot :=
  let q := x.eng e
  x.setEng e { q with entries := q.entries.drop 1, pc := en.tag }

/-- The head entry issues and is being executed until it retires: MARK, a word of SY (03 R67, 13 R297). -/
def Slot.activate (x : Slot) (e : Engine) (en : Entry) : Slot :=
  let x := x.leave e en
  x.setEng e { x.eng e with active := some en }

/-- The entry that an engine executes retires. -/
def Slot.finish (x : Slot) (e : Engine) (en : Entry) : Slot :=
  let x := x.setEng e { x.eng e with active := none }
  x.retire e en.seq

/-- Each engine writes its own X view when it reaches a MOVX entry, and the entry retires (05 R128, 13 R296). -/
def Slot.applyMovx (x : Slot) (e : Engine) (en : Entry) (d : BitVec 5) (v : Word) : Slot :=
  ((x.leave e en).setX (viewOf e) d v).retire e en.seq

/-! ### Token FIFOs (13 R302), under the codes of 14 R321: LD→VX 1, LD→MX 2, VX→ST 3, MX→ST 4, CP→VX 5, CP→MX 6, VX→MX 7 -/

/-- The FIFO that an engine pops from; 0 for none. The values at job start are those of 03 R77. -/
def Slot.routeIn (x : Slot) (e : Engine) : BitVec 3 :=
  mget (match e with | .vx => 1#3 | .mx => 2#3 | .st => 3#3 | _ => 0#3) x.routePop (classOf e)
/-- The FIFO that an engine pushes to; 0 for none. -/
def Slot.routeOut (x : Slot) (e : Engine) : BitVec 3 :=
  mget (match e with | .ld => 1#3 | .vx => 3#3 | .mx => 4#3 | .cp => 5#3 | _ => 0#3) x.routePush (classOf e)


def Slot.tokens (x : Slot) (f : BitVec 3) : Nat := mget 0 x.fifoVis f.toNat
def Slot.tokenRoom (x : Slot) (f : BitVec 3) : Bool :=
  decide (mget 0 x.fifoVis f.toNat + mget 0 x.fifoRes f.toNat < 16)
def Slot.popToken (x : Slot) (f : BitVec 3) : Slot := { x with fifoVis := mput x.fifoVis f.toNat (x.tokens f - 1) }
def Slot.pushVisible (x : Slot) (f : BitVec 3) : Slot := { x with fifoVis := mput x.fifoVis f.toNat (x.tokens f + 1) }
def Slot.reserveToken (x : Slot) (f : BitVec 3) : Slot :=
  { x with fifoRes := mput x.fifoRes f.toNat (mget 0 x.fifoRes f.toNat + 1) }
/-- A reserved token becomes visible (03 R77). -/
def Slot.showToken (x : Slot) (f : BitVec 3) : Slot :=
  { x with
    fifoRes := mput x.fifoRes f.toNat (mget 0 x.fifoRes f.toNat - 1)
    fifoVis := mput x.fifoVis f.toNat (x.tokens f + 1) }
/-- The reserved token of an entry that pushes becomes visible. -/
def Slot.showFor (x : Slot) (en : Entry) : Slot := if en.push then x.showToken en.pushF else x

/-! ### Landings (03 R81, R84, R85) -/

/-- Write lanes of a result. A V result lands lane by lane; any other lands whole. -/
def Slot.writeDest (x : Slot) (d : Dest) (val : BitVec 2048) (lanes : Word) : Slot :=
  match d with
  | .v r => x.setV r (mixLanes lanes val (x.getV r))
  | .k r => x.setK r (val.setWidth 64)
  | .g r => x.setG r (val.getLsbD 0)
  | .x w r => x.setX w r (val.setWidth 64)

/-- The lanes of a destination that earlier landings have still to write. -/
def lanesAhead (ls : List Landing) (d : Dest) : Word :=
  ls.foldl (fun m l => l.results.foldl (fun m r => if r.dest = d then m ||| r.lanes else m) m) 0#64

/-- Lanes of one result land, but for those that an earlier result to the same register has yet to write (03 R81). -/
def Slot.landResult (x : Slot) (ahead : List Landing) (lanes : Word) (r : Result) : Slot × Result :=
  let held := lanesAhead ahead r.dest
  let now := match r.dest with
    | .v _ => lanes &&& r.lanes &&& ~~~held
    | _ => if lanes = 0#64 || held ≠ 0#64 then 0#64 else r.lanes
  if now = 0#64 then (x, r) else (x.writeDest r.dest r.val now, { r with lanes := r.lanes &&& ~~~now })

/-- Lanes of the n-th pending landing land; with its last lane the tag clears and the token is visible. -/
def Slot.land (x : Slot) (n : Nat) (lanes : Word) : Slot :=
  match x.landings[n]? with
  | none => x
  | some l =>
    let ahead := x.landings.take n
    let (x, rs) := l.results.foldl (fun (a : Slot × List Result) r =>
      let (y, r) := a.1.landResult ahead lanes r
      (y, if r.lanes = 0#64 then a.2 else a.2 ++ [r])) (x, [])
    if rs.isEmpty then
      let x := { x with landings := dropNth x.landings n }
      let x := x.setTag l.eng l.ta false
      match l.pushF with
      | some f => x.showToken f
      | none => x
    else { x with landings := setNth x.landings n { l with results := rs } }

/-- Every pending result lands, the oldest first. -/
def Slot.landAll : Nat → Slot → Slot
  | 0, x => x
  | n + 1, x => (x.land 0 (BitVec.allOnes 64)).landAll n

/-- Results whose bound has run out land, with fuel (03 R80). -/
def Slot.landDue : Nat → Nat → Slot → Slot
  | 0, _, x => x
  | fuel + 1, now, x =>
    match firstIdx (fun l => decide (l.due ≤ now)) x.landings with
    | some i => (x.land i (BitVec.allOnes 64)).landDue fuel now
    | none => x

/-- MARK is no access (08 R197). -/
def Entry.access (e : Entry) : Bool := e.isEng && e.opc != 0x010

/-! ### Slip (08 R195) -/

/-- Whether entry A may go ahead of an unperformed entry B of the other queue, when B precedes it. -/
def slips (a b : Entry) : Bool :=
  decide (a.ord < b.ord) ||
    decide ((a.seq - (mget 0#64 b.caps capOther).setWidth 32).toNat ≤ a.slip)

def Slot.loadSlips (x : Slot) (a : Entry) : Bool :=
  (x.e.st.entries.all fun b => !b.access || slips a b) &&
  (x.storeQ.all fun b => b.lanes.isEmpty || slips a b.entry) && (x.replay.all fun b => slips a b.entry)

def Slot.storeSlips (x : Slot) (a : Entry) : Bool :=
  (x.e.ld.entries.all fun b => !b.access || slips a b) &&
  (x.loads.all fun b => b.lanes.isEmpty || slips a b.entry)

/-! ### Performance (08 R191, R194) -/

/-- Whether a lane of a load may be performed now: accesses of one queue with a common home are performed in queue order (08 R194). -/
def State.loadLaneOk (s : State) (n : Nat) (a : LoadAcc) (l : LaneAcc) : Bool :=
  let x := s.slot n
  l.remote.isNone &&
  ((x.loads.takeWhile fun b => b.entry.seq ≠ a.entry.seq).all fun b => b.lanes.all fun m => m.home ≠ l.home) &&
  x.loadSlips a.entry && !s.fenced n a.entry.ord .load [l.home]

/-- Perform the lanes of `mask` of the i-th load of slot n that may be performed. -/
def State.performLoad (s : State) (n i : Nat) (mask : Word) : State :=
  match (s.slot n).loads[i]? with
  | none => s
  | some a =>
    let go := a.lanes.filter fun l => mask.getLsbD l.lane && s.loadLaneOk n a l
    let ctx := (s.slot n).y.ctx.toNat
    let (s, b) := go.foldl (fun (r : State × LoadAcc) l => r.1.takeLane ctx r.2 l) (s, a)
    let s := (s.heatAll (bufAddrs go)).fillStream n 0 (bufAddrs go)
    let b := { b with lanes := b.lanes.filter fun l => !go.contains l }
    s.upSlot n fun x => { x with loads := setNth x.loads i b }

/-- The data of a load whose lanes are all performed, as its queue holds it. -/
def LoadAcc.placed (a : LoadAcc) : LoadData :=
  { d := a.d, mask := a.mask, data := a.data, poison := a.poison, poisonAddr := a.poisonAddr, flt := a.flt,
    pushF := if a.entry.push then some a.entry.pushF else none, tag := a.entry.tag }

/-- Place the oldest load in its data queue once its data is whole and the queue has a place; it retires (09 R217, 13 R298, R300). At a
cut every issued load places its data (13 R299), `cut`. -/
def Slot.placeOne (cut : Bool) (x : Slot) : Slot :=
  match x.loads with
  | [] => x
  | a :: r =>
    if a.lanes.isEmpty && (cut || decide ((if a.q then x.mxq.length else x.ldq.length) < if a.q then 16 else 8)) then
      let x := { x with loads := r }
      let x := x.retire .ld a.entry.seq
      if a.q then (({ x with mxq := x.mxq ++ [a.placed] }).showFor a.entry)
      else { x with ldq := x.ldq ++ [a.placed] }
    else x

def Slot.placeLoads (cut : Bool) : Nat → Slot → Slot
  | 0, x => x
  | n + 1, x => (x.placeOne cut).placeLoads cut n

/-- Whether a lane of a store may be performed now (08 R194). -/
def State.storeLaneOk (s : State) (n : Nat) (a : StoreAcc) (l : StoreLane) : Bool :=
  let x := s.slot n
  l.acc.remote.isNone &&
  ((x.storeQ.takeWhile fun b => b.entry.seq ≠ a.entry.seq).all fun b => b.lanes.all fun m => m.acc.home ≠ l.acc.home) &&
  x.storeSlips a.entry && !s.fenced n a.entry.ord .store [l.acc.home]

/-- Whether the lanes of an ST command are performed in ascending order: STG and VAMO (09 R220, R224). -/
def Entry.sequenced (e : Entry) : Bool := e.opc == 3 || decide (0x40 ≤ e.opc)

/-- Perform the lanes of `mask` of the i-th store of slot n that may be performed. -/
def State.performStore (s : State) (n i : Nat) (mask : Word) : State :=
  match (s.slot n).storeQ[i]? with
  | none => s
  | some a =>
    let pick := fun (l : StoreLane) => mask.getLsbD l.acc.lane && s.storeLaneOk n a l
    let go := if a.entry.sequenced then a.lanes.takeWhile pick else a.lanes.filter pick
    let (s, bad) := s.performLanes n a.phase go
    let b := { a with
      lanes := a.lanes.filter fun l => !go.contains l
      bad := match a.bad with | some v => some v | none => bad }
    s.upSlot n fun x => { x with storeQ := setNth x.storeQ i b }

/-! ### The page of a slot's die -/

/-- A notice to scheduler-level firmware (20 R404). -/
def State.report (s : State) (n code info : Nat) : State :=
  let d := s.die (dieOf n)
  s.setDie (dieOf n) { d with reports := d.reports ++ [⟨code, n, info⟩] }

/-! ### The cut (20 R409) -/

/-- Whether the MX head cannot start while the other engines are stopped (10 R242): besides an empty queue and a command whose loads
have not all issued, a head that waits for a token, a place in a token FIFO, a fence or a store that only a stopped engine could
give (log 70). -/
def State.mxStops (s : State) (n : Nat) : Bool :=
  let x := s.slot n
  match x.e.mx.entries with
  | [] => true
  | e :: _ =>
    (e.pop && decide (x.tokens e.popF = 0) && (e.popF == 6#3 || decide (mget 0 x.fifoRes e.popF.toNat = 0))) ||
    (e.push && !x.tokenRoom e.pushF) ||
    decide (x.mxq.length + (x.loads.filter (·.q)).length < s.popsOf n e) ||
    (x.fences.any fun f => decide (f.ord < e.ord)) || !s.pushClear n .t e.ord

/-- Whether an engine takes no further command for want of room behind it (13 R300, R301, R303, R304): LD while a data queue is
full, that is, holds as many entries as it has places (log 66), ST while the store data queue or the replay queue is, CP while the
journal is. -/
def Slot.backed (x : Slot) (e : Engine) : Bool :=
  match e with
  | .ld => decide (8 ≤ x.ldq.length) || decide (16 ≤ x.mxq.length)
  | .st => decide (16 ≤ x.storeQ.length + x.e.st.active.toList.length) || decide (16 ≤ x.replay.length)
  | .cp => decide (16 ≤ x.journal.length)
  | .vx => false
  | .mx => false
  | .sy => false

/-- Whether an engine has no entry it can issue while LD stands at a faulting load (20 R409 step 1): besides an empty queue and a
head that waits on an empty data queue or token FIFO, a head that waits on what only LD or a release can end counts (log 43). -/
def State.engStops (s : State) (n : Nat) (e : Engine) : Bool :=
  let x := s.slot n
  (x.eng e).active.isSome || x.backed e ||
  (match (x.eng e).entries with
    | [] => true
    | h :: _ =>
      e == .ld || (h.pop && decide (x.tokens h.popF = 0)) || (e == .mx && s.mxStops n) ||
      (x.fences.any fun f => decide (f.ord < h.ord)) || (e == .st && !x.storeSlips h) ||
      (h.push && !x.tokenRoom h.pushF) || ((e == .mx || h.isNm) && !s.pushClear n .t h.ord))

/-- Whether the commands that have issued leave nothing that only another agent can complete. -/
def Slot.local (x : Slot) : Bool :=
  (x.loads.all fun a => a.lanes.all fun l => l.remote.isNone) &&
  (x.storeQ.all fun a => a.lanes.all fun l => l.acc.remote.isNone)

/-- Whether the array runs a command of slot n that has not retired (10 R234). -/
def State.mxRuns (s : State) (n : Nat) : Bool :=
  match (s.tile (tileOf n)).busy with
  | some b => decide (b.slot = n) && !b.done
  | none => false

/-- Whether the cut of slot n can be taken now; `xlate` says that an LD load raised XLATE. A started MX command completes first (20
R409). -/
def State.cutReady (s : State) (n : Nat) (xlate : Bool) : Bool :=
  let x := s.slot n
  x.local && !s.mxRuns n && (!x.redOpen || s.mxStops n) && (!xlate || [Engine.st, .vx, .mx, .cp, .sy].all (s.engStops n))

/-- The position, in dispatch order, of the oldest load or store with lanes to perform. -/
def Slot.oldestDue (x : Slot) : Option Nat :=
  minOf ((x.loads.filter fun a => !a.lanes.isEmpty).map (·.entry.ord) ++
    (x.storeQ.filter fun a => !a.lanes.isEmpty).map (·.entry.ord))

/-- Perform every issued load and store, the oldest in dispatch order first, with fuel. -/
def State.performAll : Nat → Nat → State → State
  | 0, _, s => s
  | fuel + 1, n, s =>
    match (s.slot n).oldestDue with
    | none => s
    | some o =>
      let all := BitVec.allOnes 64
      match firstIdx (fun a => decide (a.entry.ord = o) && !a.lanes.isEmpty) (s.slot n).loads with
      | some i => (s.performLoad n i all).performAll fuel n
      | none =>
        match firstIdx (fun a => decide (a.entry.ord = o)) (s.slot n).storeQ with
        | some i => (s.performStore n i all).performAll fuel n
        | none => s

/-- Hold a fault raised after retirement in a pending latch, the first one standing (20 R405). -/
def Slot.latch (x : Slot) (e : Engine) (f : Flt) (tag : Word) : Slot :=
  let q := x.eng e
  match q.latch with
  | some _ => x
  | none => x.setEng e { q with latch := some ⟨f, tag⟩ }

/-- The head of the load data queue leaves: it writes the active lanes of Vd, and its token is visible (09 R217, 13 R300). -/
def Slot.deliverHead (x : Slot) (a : LoadData) (r : List LoadData) : Slot :=
  let x := { x with ldq := r }
  let x := x.setV a.d (mixLanes a.mask a.data (x.getV a.d))
  match a.pushF with
  | some f => x.showToken f
  | none => x

/-- The fault of a load data entry: one that a target returned, or POISON (09 R216, R221). -/
def LoadData.fault (a : LoadData) : Option Flt :=
  match a.flt with
  | some f => some f
  | none => if a.poison = 0#64 then none else some ⟨fPoison, a.poisonAddr⟩

/-- At a cut the load data queue empties into Vd; the first fault in it is latched, and an entry with a further fault stays
with those behind it (20 R405, R409, R410), with fuel. -/
def Slot.deliverAll : Nat → Slot → Slot
  | 0, x => x
  | fuel + 1, x =>
    match x.ldq with
    | [] => x
    | a :: r =>
      match a.fault with
      | none => (x.deliverHead a r).deliverAll fuel
      | some f => if x.e.ld.latch.isSome then x else (({ x with ldq := r }).latch .ld f a.tag).deliverAll fuel

/-- The stores whose lanes are all performed retire (09 R217); the faults of those that met an uncorrectable error under VAMO
(09 R224). -/
def Slot.retireDone (x : Slot) : Slot × List Latch :=
  let done := x.storeQ.filter fun a => a.lanes.isEmpty && a.flt.isNone
  let x := { x with storeQ := x.storeQ.filter fun a => !a.lanes.isEmpty || a.flt.isSome }
  done.foldl (fun (r : Slot × List Latch) a =>
    (r.1.retire .st a.entry.seq, match a.bad with
      | some v => r.2 ++ [⟨⟨fPoison, v⟩, a.entry.tag⟩]
      | none => r.2)) (x, [])

/-- At a cut the faults of retired stores are held in the latch of ST (20 R405). -/
def Slot.retireStores (x : Slot) : Slot :=
  let r := x.retireDone
  r.2.foldl (fun x l => x.latch .st l.flt l.tag) r.1

/-! ### MARK (08 R197, 09 R225) -/

/-- The engine executes a MARK that has issued. -/
def EngQ.marked (q : EngQ) : Bool := q.active.any Entry.isMark

/-- Every issued access of LD and ST is performed, and no store is parked (08 R197). -/
def Slot.accessesDone (x : Slot) : Bool :=
  (x.loads.all fun a => a.lanes.isEmpty) && x.storeQ.isEmpty && x.replay.isEmpty

/-- The MARK that an engine executes retires; its token is visible (09 R225). -/
def Slot.dropMark (x : Slot) (e : Engine) : Slot :=
  match (x.eng e).active with
  | some h => (x.finish e h).showFor h
  | none => x

/-- Both MARKs of a pair retire together once every access before them is performed; after the epilogue's ENDJ an unpaired one
pairs with the end of the other queue (08 R197). -/
def Slot.retireMarks (x : Slot) : Slot :=
  let l := x.e.ld.marked
  let t := x.e.st.marked
  let above := decide (x.job.part = .ended)
  if !x.accessesDone then x
  else if l && t then (x.dropMark .ld).dropMark .st
  else if l && above && x.e.st.entries.isEmpty then x.dropMark .ld
  else if t && above && x.e.ld.entries.isEmpty then x.dropMark .st
  else x

/-- A MARK that is being executed at a cut is unissued again: it gives back the token it took and the place it reserved
(13 R302; 20 R409). -/
def Slot.unmark (x : Slot) (e : Engine) : Slot :=
  match (x.eng e).active with
  | none => x
  | some h =>
    if !h.isMark then x
    else
      let x := if h.pop then x.pushVisible h.popF else x
      if h.push then { x with fifoRes := mput x.fifoRes h.pushF.toNat (mget 0 x.fifoRes h.pushF.toNat - 1) } else x

/-- The MX command that occupies a tile's array completes: the array and its banks are free, and where it had not retired yet its
entry retires and its token is visible (10 R234, 13 R298). -/
def State.completeMx (s : State) (tile : Nat) : State :=
  let t := s.tile tile
  match t.busy with
  | some b =>
    let s := s.setTile tile { t with busy := none }
    if b.done then s else s.upSlot b.slot fun x => (x.retire .mx b.entry.seq).showFor b.entry
  | none => s

/-- The quanta of a slot end (01 R35, 10 R242). -/
def State.endQuanta (s : State) (n : Nat) : State :=
  let t := s.tile (tileOf n)
  let off := fun (q : Option Quantum) => match q with
    | some q => if q.slot = n then none else some q
    | none => none
  s.setTile (tileOf n) { t with holdMx := off t.holdMx, holdVx := off t.holdVx, holdCp := off t.holdCp }

/-- An entry as a cut sets it aside: unissued; an arrived SYNC keeps its arrival (20 R409, 14 R326). -/
def Entry.setAside (e : Entry) : Entry := { e with issued := false, xOld := none }

/-- The entries that have not retired are set aside, the one being executed first; PD waits restart from clear (20 R409, R411). -/
def EngQ.setAside (q : EngQ) : EngQ :=
  { q with entries := [], active := none, bounds := [], aside := (q.active.toList ++ q.entries).map Entry.setAside ++ q.aside }

/-- ST's view of X at a cut: the value before the post-increment of the first entry that has not retired, which is a store that
its target refused (09 R214, R217; log 60). -/
def Slot.restoreX (x : Slot) : Slot :=
  match (x.e.st.entries.head?).bind (·.xOld) with
  | some (r, v) => x.setX 1#2 r v
  | none => x

/-- The set-aside entries, the fences among them and the copies that a cut stopped come after everything dispatched since: they
take later positions in program order, among themselves as before (20 R411 steps 3 and 4). -/
def Slot.shiftAside (x : Slot) : Slot :=
  let up := fun (e : Entry) => { e with ord := e.ord + x.ord }
  let q := fun (q : EngQ) => { q with aside := q.aside.map up }
  { x with
    ord := 2 * x.ord
    e := { ld := q x.e.ld, st := q x.e.st, vx := q x.e.vx, mx := q x.e.mx, cp := q x.e.cp, sy := q x.e.sy }
    fencesAside := x.fencesAside.map fun f => { f with ord := f.ord + x.ord }
    journal := x.journal.map fun j => if j.entry.isNm || j.entry.issued then j else { j with entry := up j.entry } }

/-- Whether a cut has set something aside that has not come back. -/
def Slot.hasAside (x : Slot) : Bool :=
  (allEngines.any fun e => !(x.eng e).aside.isEmpty) || !x.fencesAside.isEmpty ||
    x.journal.any fun j => !j.entry.isNm && !j.entry.issued

/-- The requests that a copy of slot n has on the fabric serve nothing after a cut: the copy starts again (11 R257). -/
def State.dropCopyReqs (s : State) (n : Nat) : State :=
  { s with stations := s.stations.map fun e => (e.1, { e.2 with
      reqs := e.2.reqs.map fun r => match r.kind with
        | .copy _ => if r.who = n then { r with live := false } else r
        | .load _ => r
        | .store _ => r
        | .enqr _ => r }) }

/-- A word that holds the dispatcher at a cut: one that still waits has not executed and is the first word not dispatched; RNDV
is set aside in SY's queue (14 R322; 20 R409). -/
def Slot.unhold (x : Slot) : Slot :=
  match x.hold with
  | .free => x
  | .rndv => { x with hold := .free }
  | .region _ => { x with hold := .free, pc := x.pc - 4#64 }
  | .arb _ _ => { x with hold := .free, pc := x.pc - 4#64 }

/-- Take the cut of slot n (20 R409, R410; 13 R299). -/
def State.takeCut (s : State) (n : Nat) : State :=
  let x := s.slot n
  let s := s.dropCopyReqs n
  let s := s.performAll (x.loads.length + x.storeQ.length) n
  let s := s.upSlot n fun x =>
    ((((x.placeLoads true x.loads.length).landAll x.landings.length).retireStores).retireMarks).deliverAll (x.ldq.length + x.loads.length)
  let s := s.endQuanta n
  s.upSlot n fun x =>
   let x := if x.hasAside then x.shiftAside else x
   let x := ((x.restoreX.unmark .ld).unmark .st).unhold
   { x with
    fences := []
    fencesAside := x.fences ++ x.fencesAside
    e := { ld := x.e.ld.setAside, st := x.e.st.setAside, vx := x.e.vx.setAside,
           mx := x.e.mx.setAside, cp := x.e.cp.setAside, sy := x.e.sy.setAside }
    r := { x.r with tags := 0#80 }
    journal := x.journal.map fun j =>
      if j.entry.isNm then j else { j with unit := 0, entry := { j.entry with issued := false } }
    redOpen := false
    redCount := 0
    lendSince := none
    yieldVx := none
    yieldCp := none }

/-- The entries set aside, of every engine. -/
def Slot.allAside (x : Slot) : List Entry :=
  x.e.ld.aside ++ x.e.st.aside ++ x.e.vx.aside ++ x.e.mx.aside ++ x.e.cp.aside ++ x.e.sy.aside

/-- The slot stops after its cut, and scheduler level is told (20 R409). -/
def State.haltSlot (s : State) (n code : Nat) : State :=
  let s := s.upSlot n fun x => { x with job := { x.job with stopped := true }, drain := none }
  s.report n rStopped code

/-- The slot stops: the cut is taken, and it runs nothing further (20 R409). -/
def State.stopSlot (s : State) (n code : Nat) : State := (s.takeCut n).haltSlot n code

/-! ### Fetch (05 R127) -/

/-- The words of `len` bytes at a VA under the X right of the slot, or the fetch fault. -/
def State.fetch (s : State) (i : Issuer) (a len : Nat) : Except Flt (List Byte) := do
  s.checkVa i a len rX
  let (bs, p) := s.readKeys (s.keysAt true a len)
  must (!p) fPoison a
  .ok bs

/-! ### Trap entry (20 R406, R407) -/

/-- The address tag of the oldest entry set aside, in dispatch order; `pc` when none is. -/
def Slot.rewindTag (x : Slot) : Word :=
  match minOf (x.allAside.map (·.ord)) with
  | none => x.pc
  | some o => ((x.allAside.find? fun e => e.ord = o).map (·.tag)).getD x.pc

/-- Bytes 0x08 to 0xFF of the trap block (20 R407). -/
def Slot.trapBlock (x : Slot) (faultTag : Word) (src info : Nat) : List Byte :=
  leBytes 8 x.rewindTag.toNat ++ leBytes 8 faultTag.toNat ++
  (allEngines.foldl (fun bs e => bs ++ leBytes 4 (x.eng e).retired.toNat) []) ++
  (allEngines.foldl (fun bs e => bs ++ leBytes 1 ((x.eng e).aside.length)) []) ++
  leBytes 1 src ++ leBytes 1 (2 * (info / 2 ^ 63)) ++ leBytes 200 0

/-- Issuer of the slot at scheduler level. -/
def State.schedIssuer (s : State) (n : Nat) : Issuer := { s.issuer n with level := 1 }

/-- TRAP_VEC of the trap block of slot n, when its block can be read and written (20 R406). -/
def State.trapVec (s : State) (n : Nat) : Option Nat :=
  let base := (s.slot n).y.cutBase.toNat
  let i := s.schedIssuer n
  if base = 0 then none
  else
    match s.checkVa i base 8 rR, s.checkVa i (base + 8) 248 rW with
    | .ok _, .ok _ =>
      let (vb, p) := s.readKeys (s.keysAt true base 8)
      if p then none else some (leNat vb)
    | _, _ => none

/-- Trap entry reads TRAP_VEC and writes its trap block (20 R406, R407). -/
def State.putBlock (s : State) (n : Nat) (bs : List Byte) : State :=
  let base := (s.slot n).y.cutBase.toNat
  let s := (s.readVa (.die (dieOf n)) (s.schedIssuer n) base 8 rR).1
  (s.writeVa (.die (dieOf n)) (s.schedIssuer n) (base + 8) rW bs).1

/-- TRAP_CAUSE, TRAP_PC and TRAP_INFO of a trap (04 R110, 20 R406). -/
def Slot.trapRegs (x : Slot) (f : Flt) (cls : Nat) : Slot :=
  { x with y := { x.y with
      cause := BitVec.ofNat 32 (cls * 2 ^ 16 + f.code)
      trapPc := x.pc
      trapInfo := BitVec.ofNat 64 f.info } }

/-- The mode of a trap handler (20 R406). -/
def Slot.trapMode (x : Slot) : Slot :=
  { x with y := { x.y with prevLevel := x.y.level, level := 1#2, inTrap := true } }

/-- Trap entry of slot n: cut, registers and trap block, level, handler; or the slot stops (20 R406, R409). -/
def State.enterTrap (s : State) (n : Nat) (f : Flt) (tag : Word) (cls src : Nat) : State :=
  let s := s.takeCut n
  let s := s.upSlot n fun x => x.trapRegs f cls
  match s.trapVec n with
  | none => s.haltSlot n f.code
  | some vec =>
    let s := (s.putBlock n ((s.slot n).trapBlock tag src f.info)).upSlot n Slot.trapMode
    if vec = 0 then s.haltSlot n f.code
    else
      match s.fetch (s.schedIssuer n) vec 4 with
      | .error _ => s.haltSlot n f.code
      | .ok _ => s.upSlot n fun x => { x with pc := BitVec.ofNat 64 vec, drain := none }

/-- A cut that was waited for is taken now: with IN_TRAP set the slot stops, otherwise trap entry follows (20 R406, R409; 04 R110). -/
def State.takeTrap (s : State) (n : Nat) (f : Flt) (tag : Word) (cls src : Nat) : State :=
  if (s.slot n).y.inTrap then s.stopSlot n f.code else s.enterTrap n f tag cls src

/-- A slot takes a trap, as soon as its cut can be taken (20 R406, R409). `cls` is the class of the word that raised it, `src` the
SOURCE code. A fault met while a trap is being taken is dropped: its entry raises it again (20 R405). -/
def State.raise (s : State) (n : Nat) (f : Flt) (tag : Word) (cls src : Nat) : State :=
  let x := s.slot n
  if x.drain.isSome then s
  else if s.cutReady n (decide (src = 3 ∧ f.code = fXlate)) then s.takeTrap n f tag cls src
  else s.upSlot n fun x => { x with drain := some (f, tag, src * 8 + cls) }

/-- A fault at an engine's entry. -/
def State.raiseEng (s : State) (n : Nat) (e : Engine) (f : Flt) (tag : Word) : State :=
  s.raise n f tag (classOf e) (classOf e)

/-- A precise fault of the word at the program counter (05 R112). -/
def State.raiseWord (s : State) (f : Flt) (cls : Nat) : State := s.raise s.cur f s.me.pc cls 0

/-- A fault raised after retirement: taken, or held in the latch while another one is being taken or the slot does not run (20
R405); while a trap is handled it stops the slot as any further fault does (04 R110, 20 R409). -/
def State.raiseLate (s : State) (n : Nat) (e : Engine) (f : Flt) (tag : Word) : State :=
  let x := s.slot n
  if x.drain.isSome || x.job.stopped || x.job.preempted then s.upSlot n fun x => x.latch e f tag
  else s.raiseEng n e f tag

/-- The stores of slot n whose lanes are all performed retire, and raise what they met (09 R217, R224). -/
def State.retireStoresOf (s : State) (n : Nat) : State :=
  let r := (s.slot n).retireDone
  r.2.foldl (fun s l => s.raiseLate n .st l.flt l.tag) (s.setSlot n r.1)

/-- Deliver a pending latch of a running slot (20 R405, R411). -/
def State.deliver (s : State) (n : Nat) : State :=
  let x := s.slot n
  if x.drain.isSome || x.y.inTrap || x.job.stopped || x.job.preempted then s
  else
    match [Engine.ld, .st, .cp, .sy, .mx, .vx].find? fun e => (x.eng e).latch.isSome with
    | none => s
    | some e =>
      match (x.eng e).latch with
      | none => s
      | some l => (s.upSlot n fun x => x.setEng e { x.eng e with latch := none }).raiseEng n e l.flt l.tag

/-! ### Resumption (20 R411) -/

def Slot.anyLatch (x : Slot) : Bool := allEngines.any fun e => (x.eng e).latch.isSome

/-- SKIP of one entry: a command as under a false guard, an SY word without effect, for CP the faulting copy (20 R411). -/
def Slot.skip (x : Slot) (e : Engine) : Slot :=
  match e, x.journal.find? fun j => j.stopped with
  | .cp, some j => { x with journal := x.journal.filter fun i => i.entry.seq ≠ j.entry.seq }
  | e, _ =>
    let q := x.eng e
    match q.aside with
    | [] => x
    | h :: r =>
      let x := x.setEng e ({ q with aside := r }.retire h.seq)
      if h.isEng then
        let x := if h.pop then x.popToken h.popF else x
        if h.push then x.pushVisible h.pushF else x
      else x

/-- Set-aside entries follow what the handler left queued (20 R411 steps 3 and 4). -/
def EngQ.rejoin (q : EngQ) : EngQ := { q with entries := q.entries ++ q.aside, aside := [], bounds := [] }

/-- SOURCE and FLAGS of the trap block. -/
def State.trapFlags (s : State) (n : Nat) : Nat × Nat :=
  let base := (s.slot n).y.cutBase.toNat
  match s.checkVa (s.schedIssuer n) (base + 0x36) 2 rR with
  | .error _ => (0, 0)
  | .ok _ =>
    match (s.readKeys (s.keysAt true (base + 0x36) 2)).1 with
    | [a, b] => (a.toNat, b.toNat)
    | _ => (0, 0)

/-- ERET reads SOURCE and FLAGS. -/
def State.readFlags (s : State) (n : Nat) : State :=
  (s.readVa (.die (dieOf n)) (s.schedIssuer n) ((s.slot n).y.cutBase.toNat + 0x36) 2 rR).1

/-- The engine that a SOURCE code names. -/
def engineOf (src : Nat) : Option Engine :=
  match src with
  | 1 => some .vx | 2 => some .mx | 3 => some .ld | 4 => some .st | 5 => some .cp | 6 => some .sy | _ => none

/-- Resumption of slot n at its cut; `skip` names the engine whose faulting entry is retired without effect. -/
def State.resume (s : State) (n : Nat) (skip : Option Engine) : State :=
  if (s.slot n).anyLatch then s.deliver n
  else
    s.upSlot n fun x =>
      let x := match skip with | some e => x.skip e | none => x
      let x := if x.hasAside then x.shiftAside else x
      { x with
        fences := x.fences ++ x.fencesAside
        fencesAside := []
        hold := if x.e.sy.aside.any fun e => decide (e.cmd = .sy .rndv) then .rndv else x.hold
        e := { ld := x.e.ld.rejoin, st := x.e.st.rejoin, vx := x.e.vx.rejoin,
               mx := x.e.mx.rejoin, cp := x.e.cp.rejoin, sy := x.e.sy.rejoin }
        journal := x.journal.map fun j => { j with stopped := false, entry := { j.entry with issued := true } }
        compVx := 0x10000
        compCp := 0x10000 }

/-! ### Issue of an engine command (03 R77, R81, R82, R84, R85) -/

/-- The entry that an engine issues now: the queue entry that the step took, or a bare entry where a word is executed by
itself. -/
def State.entryNow (s : State) (e : Engine) : Entry :=
  match s.phase with
  | .issue en => en
  | .dispatch => { cmd := .eng 0#80, tag := s.me.pc, ord := s.me.ord + 1, pos := (s.me.eng e).words + 1,
                   caps := s.me.r.s, scoreboard := s.me.y.scoreboard, seed := s.me.y.seed,
                   stampBase := s.me.y.stampBase, slip := s.me.y.slip, seq := (s.me.eng e).retired + 1#32 }

/-- What remains of a command that issues: its covered results, whether it retires now, and whether its token goes with its
results (or is visible now) rather than with a later completion. -/
structure Done where
  s : State
  results : List Result := []
  retire : Bool := true
  token : Bool := true

/-- Whether a PD names a command of the stream whose cycle c + L has not come (03 R84). -/
def EngQ.pdHolds (q : EngQ) (pd : BitVec 4) (pos now : Nat) : Bool :=
  decide (pd ≠ 0#4) && q.bounds.any fun b => decide (b.1 + pd.toNat = pos) && decide (now < b.2)

/-- A command issues in this cycle with a bound: PD counts from here (03 R84). -/
def Slot.noteBound (x : Slot) (e : Engine) (pos till : Nat) : Slot :=
  x.setEng e { x.eng e with bounds := (pos, till) :: (x.eng e).bounds.take 15 }

/-- Whether PD, the tags and the tokens hold the command back. -/
def Slot.held (x : Slot) (now : Nat) (e : Engine) (k : Ctl) (en : Entry) : Bool :=
  (en.pop && decide (x.tokens en.popF = 0)) || (en.push && !x.tokenRoom en.pushF) ||
  (if en.scoreboard then x.tagPending e k.tc0 || x.tagPending e k.tc1 else (x.eng e).pdHolds k.pd en.pos now)

/-- A result due by `till` lands after those that earlier commands of the engine write to the same register: they are due by then too
(03 R80, R81). -/
def Slot.hasten (x : Slot) (e : Engine) (till : Nat) (rs : List Result) : Slot :=
  { x with landings := x.landings.map fun l =>
      if l.eng == e && l.results.any fun r => rs.any fun q => decide (q.dest = r.dest) then { l with due := min l.due till } else l }

/-- The head leaves, the token is taken, and the token of a push is reserved or shown; the results land within L cycles, and within
`cap` where an instruction says so (10 R249). -/
def State.commit (s : State) (e : Engine) (k : Ctl) (en : Entry) (results : List Result) (retire token : Bool)
    (cap : Option Nat := none) : State :=
  s.upMe fun x =>
    let x := match s.phase with | .issue _ => x.leave e en | .dispatch => x
    let x := x.noteBound e en.pos (s.dcc.toNat + lbCycles k.lb)
    let x := if en.pop then x.popToken en.popF else x
    let now := token && results.isEmpty
    let x := if en.push then (if now then x.pushVisible en.pushF else x.reserveToken en.pushF) else x
    let x := if results.isEmpty then x else
      let ta := if en.scoreboard then k.ta else none
      let due := s.dcc.toNat + min (lbCycles k.lb) (cap.getD (lbCycles k.lb))
      let x := (x.hasten e due results).setTag e ta true
      { x with landings := x.landings ++ [⟨e, results, ta, if en.push && token then some en.pushF else none, en.pos, due⟩] }
    if retire then x.retire e en.seq else x

/-- Issue a command of engine `e`: waits (03 R82, R84, R85; 13 R300 to R304), guard, TAG_MISUSE, then `body`. -/
def State.issueCmd (s : State) (e : Engine) (k : Ctl) (body : State → Entry → M Done) : State :=
  let x := s.me
  let en := s.entryNow e
  if x.held s.dcc.toNat e k en || x.backed e then s
  else if !x.guardFor en k.guard then s.commit e k en [] true true
  else if en.scoreboard && x.tagPending e k.ta then
    s.raiseEng s.cur e ⟨fTag, ((k.ta.map (·.toNat)).getD 0)⟩ en.tag
  else
    match body s en with
    | .error .wait => s
    | .error (.fault f) => s.raiseEng s.cur e f en.tag
    | .error (.after t f) => t.raiseEng s.cur e f en.tag
    | .ok d => d.s.commit e k en d.results d.retire d.token

def State.runCmd (s : State) (e : Engine) (k : Ctl) (body : State → Entry → M Done) : Res :=
  .next (s.issueCmd e k body)

/-! ### Direct words -/

/-- A control-core word (05 R111): it waits for outstanding writes to the registers it names, then has its whole effect and
the program counter moves to the next word. -/
def State.direct (s : State) (ss : List (BitVec 5)) (ps : List (BitVec 3)) (f : Slot → Slot) : Res :=
  .next (if s.me.waits ss ps then s else s.upMe fun x => (f x).advance 4)

/-- A control-core word that may wait or fault (05 R112), of `len` bytes and of class `cls`. -/
def State.directM (s : State) (ss : List (BitVec 5)) (ps : List (BitVec 3)) (cls len : Nat) (f : State → M State) : Res :=
  .next (
    if s.me.waits ss ps then s
    else
      match f s with
      | .error .wait => s
      | .error (.fault flt) => s.raiseWord flt cls
      | .error (.after t flt) => t.raiseWord flt cls
      | .ok s => s.upMe fun x => x.advance len)

/-- What a class 6 word leaves to be written when it is placed: its destinations (03 R70). -/
structure SyDest where
  sd : Option (BitVec 5) := none
  pd : Option (BitVec 3) := none

/-- Dispatch of a class 6 word (03 R70): SY's queue must have room and no write to a captured register may be outstanding. -/
def State.submit (s : State) (i : Instr) (srcs : List (BitVec 5)) (d : SyDest) : State :=
  let x := s.me
  if !x.room .sy || x.waits srcs [] then s
  else
    let caps := srcs.foldl (fun m r => mput m r.toNat (x.getS r)) []
    let caps := (below 8).foldl (fun m j => mput m (capReloc + j) (mget 0#64 x.y.reloc j)) caps
    let caps := mput (mput caps capKernel (if x.job.part == .kernel && !x.y.inTrap then 1#64 else 0#64)) capLevel (x.y.level.setWidth 64)
    let caps := match d.sd with
      | some r => mput (mput caps capDestLo (r.setWidth 64)) capDestHi (r.setWidth 64)
      | none => caps
    let caps := match d.pd with
      | some p => mput caps capDestP (p.setWidth 64)
      | none => caps
    s.upMe fun x => (x.enqueue .sy { cmd := .sy i, tag := x.pc, caps := caps, seed := x.y.seed }).advance 4

/-- A class 6 word: placed at dispatch; once SY has issued it, it is performed and retires, or waits (14 R316). -/
def State.sync (s : State) (i : Instr) (srcs : List (BitVec 5)) (d : SyDest) (body : State → Entry → M State) : Res :=
  match s.phase with
  | .dispatch => .next (s.submit i srcs d)
  | .issue en =>
    .next (match body s en with
      | .error .wait => s
      | .error (.fault f) => s.raiseEng s.cur .sy f en.tag
      | .error (.after t f) => t.raiseEng s.cur .sy f en.tag
      | .ok s => s.upMe fun x => x.finish .sy en)

/-! ### Quiet slots -/

/-- Every engine queue is empty, every issued command has landed every covered result, and every tag is clear (03 R83). -/
def Slot.drained (x : Slot) : Bool :=
  (allEngines.all fun e => (x.eng e).entries.isEmpty) && x.landings.isEmpty && decide (x.r.tags = 0#80)

/-- Nothing that the slot dispatched is still to be completed (05 R136). -/
def Slot.quiet (x : Slot) (t : Tile) (n : Nat) : Bool :=
  (allEngines.all fun e => (x.eng e).entries.isEmpty && (x.eng e).active.isNone && (x.eng e).aside.isEmpty) && x.landings.isEmpty && x.loads.isEmpty && x.ldq.isEmpty &&
  x.storeQ.isEmpty && x.replay.isEmpty && x.journal.isEmpty &&
  (match t.busy with | some b => decide (b.slot ≠ n) | none => true)

/-! ### Slots that are stopped, pre-empted or being cut -/

/-- Whether every stream has retired what a boundary names. -/
def Slot.reached (x : Slot) (l : List W32) : Bool :=
  (allEngines.zip l).all fun p => decide (((x.eng p.1).retired - p.2).toNat < 2 ^ 31)

/-- Whether the next boundary of a slot is reached (01 R20). -/
def Slot.atBoundary (x : Slot) : Bool :=
  match x.job.bounds with
  | [] => false
  | l :: _ => x.reached l

/-- Whether a slot's dispatcher may run: it is not stopped, pre-empted or held by a cut that is pending. -/
def Slot.runs (x : Slot) : Bool := !x.job.stopped && !x.job.preempted && x.drain.isNone

/-- Whether an engine of a slot may take its next entry: not while the slot is stopped or pre-empted; while a cut is
pending only MX with an open reduction, and every engine but LD where an LD load raised XLATE (10 R242; 20 R409, R412). -/
def Slot.mayIssue (x : Slot) (e : Engine) : Bool :=
  let mxOpen := e == .mx && x.redOpen
  !x.job.stopped && !x.job.preempted &&
  (match x.drain with
    | none => !(x.job.preemptReq && x.atBoundary) || mxOpen
    | some (f, _, k) => mxOpen || (decide (k / 8 = 3 ∧ f.code = fXlate) && e != .ld))

end Sys2Proof.Machine
end

