-- ==== Sys2Proof/Machine/Remote.lean ====
section
/-! DEFINITION. The source side of the fabric: windows (09 R221, 15 R337, 22 R441), requests, streams and credits (22 R443,
R444, R446, R450), and sharded buffers (09 R222; 15 R339 to R341). -/
namespace Sys2Proof.Machine

/-! ### Windows (15 R337) -/

def winNode (e : Nat) : Nat := natBits e 115 104
def winRem (e : Nat) : Nat := natBits e 103 92
def winDvf (e : Nat) : Nat := natBits e 91 83
def winGen (e : Nat) : Nat := natBits e 82 71
def winLen (e : Nat) : Nat := natBits e 39 0

/-- The package node id (15 R328, 22 R441). -/
def State.ownNode (s : State) : Nat := s.entry 0x0A 0

/-- The bridge station of a stream (22 R443). -/
def stationFor (node die : Nat) : Nat := (node % 64 + die) % 4

/-- Whether the owner checks refuse a window (15 R337, 22 R441): tenant, a gone notice, another fabric, an absent position. -/
def State.winRefused (s : State) (n tenant e : Nat) : Bool :=
  let node := winNode e
  let st := s.station (stationFor node (dieOf n))
  decide (natBits e 123 116 ≠ tenant) || st.gone.contains (node, winDvf e, winGen e) ||
  decide (node / 64 ≠ s.ownNode / 64) || !st.members.getLsbD (node % 64)

/-- The checks of R221 for an access at fabric address `a`: spans are (offset, length), `bit` the right's bit (126 R, 125 W). -/
def State.checkWindow (s : State) (n tenant a : Nat) (spans : List (Nat × Nat)) (bit : Nat) : Except Flt Nat := do
  let e := s.see 0x04 (winOf a)
  must (decide (a / 2 ^ 52 = 0) && natBit e 127) fBound a
  match spans.find? fun p => decide (winLen e < p.1 + p.2) with
  | some p => .error ⟨fBound, winOf a * 2 ^ 40 + max p.1 (winLen e)⟩
  | none => .ok ()
  let first := match spans with
    | p :: _ => winOf a * 2 ^ 40 + p.1
    | [] => a
  must (natBit e bit) fRights first
  must (!s.winRefused n tenant e) fOwner first
  .ok e

/-! ### Requests (22 R444 to R447, R450) -/

/-- The number of a stream of this package (22 R443). -/
def streamOf (die cls node : Nat) : Nat := (die * 4 + cls) * 4096 + node

/-- The VF of a context (16 R347). -/
def State.vfOfCtx (s : State) (ctx : Nat) : Nat := natBits (s.entry 0x10 ctx) 125 117

/-- The free credits of a VF at a station; 8 before firmware divides them (22 R450; log 4). -/
def Station.credit (st : Station) (vf : Nat) : Nat := mget 8 st.credits vf

/-- The launch tag of the task that a slot runs (20 R420). -/
def State.launchTag (s : State) (n : Nat) : Option Nat :=
  match (s.slot n).job.task with
  | some t => (mfind s.tasks t).bind fun (k : Task) => k.tq.tag
  | none => none

/-- The credits of a VF that no request on its way takes (22 R450), and the slots of a stream that are not answered (22 R446). -/
def Station.freeCredit (st : Station) (vf : Nat) : Nat := st.credit vf - (st.reqs.filter fun r => !r.sent && decide (r.vf = vf)).length
def Station.streamOut (st : Station) (stream : Nat) : Nat := (st.reqs.filter fun r => !r.answered && decide (r.stream = stream)).length

/-- Send the requests that a credit and the stream's room admit, in order (22 R446, R450). -/
def Station.pumpFrom : List FabReq → List FabReq → Station → Station
  | done, [], st => { st with reqs := done }
  | done, r :: rest, st =>
    let out := (done ++ rest).filter fun q => q.sent && !q.answered && decide (q.stream = r.stream)
    if r.sent || !r.here || st.credit r.vf = 0 || 1024 ≤ out.length then Station.pumpFrom (done ++ [r]) rest st
    else
      let seq := mget 0#16 st.sendSeq r.stream
      let slot := { r.slot with h := { r.slot.h with seq := seq } }
      Station.pumpFrom (done ++ [{ r with slot := slot, sent := true }]) rest { st with
        credits := mput st.credits r.vf (st.credit r.vf - 1)
        owed := st.owed ++ [(r.id, r.vf)]
        reserved := st.reserved + 1
        sendSeq := mput st.sendSeq r.stream (seq + 1#16)
        sent := st.sent ++ [slot] }

def Station.pump (st : Station) : Station := Station.pumpFrom [] st.reqs st

/-- The position in program order of the entry that issues (08 R211); that of the next word where none does. -/
def State.posNow (s : State) : Nat :=
  match s.phase with
  | .issue en => en.ord
  | .dispatch => s.me.ord + 1

/-! ### The package rings (01 R10; 13 R312; 22 R443): the station of a stream stands on the die of its number -/

/-- The dies that a slot passes from die a to die b, clockwise or counter-clockwise. -/
def ringDies (ccw : Bool) (a b : Nat) : List Nat :=
  if ccw then (below ((a + 8 - b) % 8)).map fun i => (a + 8 - i) % 8 else (below ((b + 8 - a) % 8)).map fun i => (a + i) % 8

/-- Whether every link on the way of a slot is up: each ring has a link that leaves each die. -/
def State.ringOpen (s : State) (ccw : Bool) (a b : Nat) : Bool :=
  (ringDies ccw a b).all fun d => if ccw then !(s.die d).ccwDown else !(s.die d).cwDown

/-- The package ring for a slot from die a to die b: the one with fewer hops, clockwise on a tie; the other where a link on its way is
down. -/
def State.ringFor (s : State) (a b : Nat) : Bool :=
  let ccw := decide ((a + 8 - b) % 8 < (b + 8 - a) % 8)
  if s.ringOpen ccw a b then ccw else !ccw

/-- A request boards a package ring toward its station. -/
def State.boardRing (s : State) (k : Nat) (r : FabReq) : State :=
  { s with pkgRing := s.pkgRing ++ [⟨s.ringFor (dieOf r.who) k, k, r.id, r.slot⟩] }

/-- A slot on a package ring reaches its station, which sends it on when a credit admits it. -/
def State.leaveRing (s : State) (p : PkgSlot) : State :=
  let st := s.station p.station
  s.setStation p.station ({ st with reqs := st.reqs.map fun r => if r.id = p.id && !r.sent then { r with here := true } else r } : Station).pump

/-- Every slot on a package ring whose way is up reaches its station. -/
def State.ringsMove (s : State) : State :=
  let go := fun (p : PkgSlot) => s.ringOpen false (p.slot.h.srcDie.toNat) p.station || s.ringOpen true (p.slot.h.srcDie.toNat) p.station
  (s.pkgRing.filter go).foldl State.leaveRing { s with pkgRing := s.pkgRing.filter fun p => !go p }

/-- Make a request of slot n for a 64-byte span of a window (22 R444); it leaves when a credit admits it. -/
def State.request (s : State) (n : Nat) (kind : ReqFor) (win off : Nat) (op : SlotOp) (mask : Word) (data : BitVec 512)
    (handle : W32) (poison : BitVec 2 := 0#2) : State :=
  let e := s.see 0x04 win
  let node := winNode e
  let k := stationFor node (dieOf n)
  let st := s.station k
  let x := s.slot n
  let cls := match op with | .read => 1 | _ => 0
  let h : SlotHdr := {
    pass2 := false, ret := false, srcNode := BitVec.ofNat 12 s.ownNode, dstNode := BitVec.ofNat 12 node,
    srcDie := BitVec.ofNat 3 (dieOf n), seq := 0#16, dvf := BitVec.ofNat 9 (winDvf e), dgen := BitVec.ofNat 12 (winGen e),
    remWin := BitVec.ofNat 12 (winRem e), offset := BitVec.ofNat 40 off, tenant := x.y.tenant,
    qtag := (s.launchTag n).bind fun t => if t < 8192 then some (BitVec.ofNat 13 t) else none, reqId := BitVec.ofNat 16 st.nextReq, mask := mask }
  let r : FabReq := {
    id := st.nextReq % 2 ^ 16, who := n, kind := kind, window := win, vf := s.vfOfCtx x.y.ctx.toNat,
    stream := streamOf (dieOf n) cls node, slot := { op := op, h := h, data := data, handle := handle, poison := poison }, sent := false,
    answered := false, live := true, data := 0#512, poison := 0#2, csa := x.y.csaBase.toNat, ord := s.posNow }
  let r := { r with here := dieOf n = k }
  let s := (s.setStation k ({ st with reqs := st.reqs ++ [r], nextReq := st.nextReq + 1 }.pump)).cacheFill (windowCache k) 64 (indexTag 0x04 win)
  if r.here then s else s.boardRing k r

/-! ### 64-byte spans -/

/-- A span of a window: its base offset, mask and data (22 R444). -/
structure Span where
  base : Nat
  mask : Word
  data : BitVec 512
deriving DecidableEq, Repr

/-- Add a byte to the span that holds it. -/
def addByte : List Span → Nat → Byte → List Span
  | [], o, b =>
    [⟨o / 64 * 64, 1#64 <<< (o % 64), b.setWidth 512 <<< (8 * (o % 64))⟩]
  | p :: r, o, b =>
    if p.base = o / 64 * 64 then
      { p with
        mask := p.mask ||| (1#64 <<< (o % 64))
        data := (p.data &&& ~~~(0xFF#512 <<< (8 * (o % 64)))) ||| (b.setWidth 512 <<< (8 * (o % 64))) } :: r
    else p :: addByte r o b

def spansOf (bs : List (Nat × Byte)) : List Span := bs.foldl (fun l c => addByte l c.1 c.2) []

/-- The 32-byte halves of a span that hold one of these offsets. -/
def poisonHalves (bad : List Nat) (base : Nat) : BitVec 2 :=
  let half := fun (i : Nat) => bad.any fun o => decide (o / 32 = base / 32 + i)
  BitVec.ofNat 2 (b2n (half 0) + 2 * b2n (half 1))

/-- Request writes of bytes of a window, those that are poisoned marked (11 R257). -/
def State.requestWrites (s : State) (n : Nat) (kind : ReqFor) (win : Nat) (bs : List (Nat × Byte × Bool)) : State :=
  let bad := (bs.filter fun c => c.2.2).map fun c => c.1
  (spansOf (bs.map fun c => (c.1, c.2.1))).foldl (fun s p =>
    s.request n kind win p.base .write p.mask p.data 0#32 (poisonHalves bad p.base)) s

/-- Request each span of a set of bytes of a window. -/
def State.requestAll (s : State) (n : Nat) (kind : ReqFor) (win : Nat) (op : SlotOp) (bs : List (Nat × Byte)) : State :=
  (spansOf bs).foldl (fun s p => s.request n kind win p.base op p.mask p.data 0#32) s

/-- Byte `o mod 64` of a beat. -/
def beatByte (d : BitVec 512) (o : Nat) : Byte := (d >>> (8 * (o % 64))).setWidth 8

/-! ### Sharding (15 R339, R340; 09 R222) -/

def shRank (e : Nat) : Nat := natBits e 382 381 + 1
def shExtent (e k : Nat) : Nat := natBits e (32 * k + 31) (32 * k)
def shShape (e k : Nat) : Nat := natBits e (160 + 32 * k - 1) (128 + 32 * k)

/-- Steps 1 and 4 of R179 for the sharded buffer's own entry, then SHV and TENANT (15 R340): the sharding entry. -/
def State.shardEntry (s : State) (i : Issuer) (va c0 : Nat) : Except Flt Nat := do
  let b := s.see 0x00 (vaIndex va)
  must (decide (va / 2 ^ 60 = 0) && natBit b 255 && vaIndex va != 0) fBound va
  must (s.ownerOk i b) fOwner va
  let e := s.see 0x06 (natBits b 189 180)
  must (natBit b 190 && natBit e 383 && decide (natBits e 380 373 = i.tenant)) fShard c0
  .ok e

/-- A use of a sharding table entry fills the die's sharding cache (15 R335). -/
def State.fillShard (s : State) (n va : Nat) : State :=
  s.cacheFill (shardCache (dieOf n)) 16 (indexTag 0x06 (natBits (s.entry 0x00 (vaIndex va)) 189 180))

/-- Row-major number of a coordinate list against sizes. -/
def rowMajor (cs sizes : List Nat) : Nat := (cs.zip sizes).foldl (fun a p => a * p.2 + p.1) 0

/-- The owner entry of coordinates and the offset of the element in it (09 R222); `own` gives the owner entries in grid order. -/
def shardOwner (own : Nat → Nat) (e : Nat) (cs : List Nat) (esize c0 : Nat) : Except Flt (Nat × Nat) := do
  let ks := below (shRank e)
  must (decide (cs.length = shRank e)) fShard c0
  must (ks.all fun k => decide (cs.getD k 0 < shExtent e k)) fShard c0
  let grid := ks.map fun k => ceilDiv (shExtent e k) (shShape e k)
  let g := ks.map fun k => cs.getD k 0 / shShape e k
  let w := ks.map fun k => cs.getD k 0 % shShape e k
  let o := own (rowMajor g grid)
  must (natBit o 127) fShard c0
  .ok (o, natBits o 39 0 + esize * rowMajor w (ks.map (shShape e)))

/-- The first owner-array index of a sharding entry (15 R339). -/
def shOwners (e : Nat) : Nat := natBits e 359 344

def State.shardAt (s : State) (e : Nat) (cs : List Nat) (esize c0 : Nat) : Except Flt (Nat × Nat) :=
  shardOwner (fun g => s.see 0x07 (shOwners e + g)) e cs esize c0

/-- The address that an owner entry gives: a VA of this package, or a fabric address (15 R340). -/
def State.shardAddr (s : State) (o off : Nat) : Bool × Nat :=
  if natBits o 126 115 = s.ownNode then (false, natBits o 114 95 * 2 ^ 40 + off)
  else (true, natBits o 106 95 * 2 ^ 40 + off)

end Sys2Proof.Machine
end

