-- ==== Sys2Proof/Machine/LoadStore.lean ====
section
/-! DEFINITION. The meanings of LD and ST commands and of their events (09 R213 to R225; 08 R191 to R197, R209; 13 R300, R301,
R303). -/
namespace Sys2Proof.Machine

/-! ### Lanes -/

/-- The active lanes of a mask, ascending. -/
def activeLanes (m : Word) : List Nat := (below 64).filter fun i => m.getLsbD i

/-- The checks of one lane (09 R216): R165 or R179, then BANK_CONFLICT. A contiguous access from SA `base` does not run into
another slice (07 R165). -/
def State.laneAt (s : State) (i : Issuer) (isVa : Bool) (base : Option Nat) (right l a e : Nat) : Except Flt LaneAcc := do
  match isVa, base with
  | false, some b => must (decide (a / 2 ^ 22 = b / 2 ^ 22)) fBound a
  | _, _ => .ok ()
  let (k, kid) ← s.checkAt i isVa a e right
  .ok { lane := l, addr := a, size := e, key := k, kid := kid }

/-- Lanes checked in order: the first failure is the answer. -/
def checkLanes (f : Nat → Nat → Except Flt LaneAcc) : List (Nat × Nat) → Except Flt (List LaneAcc)
  | [] => .ok []
  | (l, a) :: r => do
    let x ← f l a
    let xs ← checkLanes f r
    .ok (x :: xs)

/-- ALIGN for lanes, the first in order (09 R216). -/
def alignLanes (e : Nat) (ls : List (Nat × Nat)) : Except Flt Unit :=
  match ls.find? fun p => p.2 % e ≠ 0 with
  | some p => .error ⟨fAlign, p.2⟩
  | none => .ok ()

/-- Lane addresses of a contiguous access (09 R215). -/
def contiguous (ea : Word) (e : Nat) (m : Word) : List (Nat × Nat) := (activeLanes m).map fun i => (i, wrapAdd ea (e * i))

/-- Lane addresses of a gather or scatter (09 R220). -/
def gathered (ea : Word) (e : Nat) (m : Word) (idx : BitVec 2048) : List (Nat × Nat) :=
  (activeLanes m).map fun i => (i, wrapAdd ea (e * (lane idx i).toNat))

/-- Lanes of a fabric access that its window admits (09 R221). -/
def State.fabricLanes (s : State) (n : Nat) (ea : Word) (e bit : Nat) (ls : List (Nat × Nat)) : Except Flt (List LaneAcc) := do
  let off := fun (a : Nat) => (a + 2 ^ 64 - ea.toNat) % 2 ^ 64 + ea.toNat % 2 ^ 40
  let _ ← s.checkWindow n (s.slot n).y.tenant.toNat ea.toNat (ls.map fun p => (off p.2, e)) bit
  .ok (ls.map fun p =>
    { lane := p.1, addr := p.2, size := e, key := 0, kid := 0, remote := some (winOf ea.toNat, off p.2) })

/-- The result that post-increment leaves (09 R213, R214). -/
def incResult (e : Engine) (a : BitVec 5) (v : Option Word) : List Result :=
  match v with
  | some w => [⟨.x (viewOf e) a, w.setWidth 2048, BitVec.allOnes 64⟩]
  | none => []

/-! ### Loads -/

/-- What every LD command waits for besides its data queues (08 R195, R201). -/
def State.ldReady (s : State) (en : Entry) : M Unit := do
  let x := s.me
  need (x.loadSlips en)
  need (!s.scHolds s.cur en.ord)

/-- Issue a load of these lanes; its remote spans are requested (09 R217, R221). `bad` marks a wholly poisoned entry. -/
def State.issueLoad (s : State) (en : Entry) (q sx : Bool) (d : BitVec 5) (m : Word) (ls : List LaneAcc) (bad : Option Nat)
    (inc : List Result) : M Done := do
  need (!s.fenced s.cur en.ord .load (ls.map (·.home)))
  let a : LoadAcc := {
    entry := en, q := q, d := d, sx := sx, mask := m, lanes := ls, data := 0#2048,
    poison := if bad.isSome then BitVec.allOnes 64 else 0#64, poisonAddr := bad.getD 0, flt := none }
  let s := s.upMe fun x => { x with loads := x.loads ++ [a] }
  let far := ls.foldl (fun (acc : List (Nat × Nat × Nat)) l => match l.remote with
    | some (w, o) => acc ++ (below l.size).map fun j => (w, o + j, j)
    | none => acc) []
  let wins := far.foldl (fun (ws : List Nat) p => if ws.contains p.1 then ws else ws ++ [p.1]) []
  let s := wins.foldl (fun s w =>
    s.requestAll s.cur (.load en.seq) w .read ((far.filter fun p => p.1 = w).map fun p => (p.2.1, (0#8 : Byte)))) s
  .ok { s := s, results := inc, retire := false, token := false }

/-- A contiguous load (09 R219). -/
def loadBody (sz : ESize) (sx q : Bool) (d : BitVec 5) (m : BitVec 3) (a : BitVec 5) (am : AddrForm) (isVa : Bool)
    (s : State) (en : Entry) : M Done := do
  s.ldReady en
  let e := esizeBytes sz
  let x := s.me
  let xa := x.getX 0#2 a
  let ea := addrEa am xa e en.cap
  let mask := x.getK m
  liftF (must (decide (ea.toNat % e = 0)) fAlign ea.toNat)
  let ls ← liftF (checkLanes (fun l a => s.laneAt (s.issuer s.cur) isVa (some ea.toNat) rR l a e) (contiguous ea e mask))
  s.issueLoad en q sx d mask ls none (incResult .ld a (addrInc am xa e))

/-- LD: 09 R219. -/
def execLd (k : Ctl) (sz : ESize) (sx q : Bool) (d : BitVec 5) (m : BitVec 3) (a : BitVec 5) (am : AddrForm) (s : State) : Res :=
  s.runCmd .ld k (loadBody sz sx q d m a am false)

/-- LDB: 09 R219. -/
def execLdb (k : Ctl) (sz : ESize) (sx q : Bool) (d : BitVec 5) (m : BitVec 3) (a : BitVec 5) (am : AddrForm) (s : State) : Res :=
  s.runCmd .ld k (loadBody sz sx q d m a am true)

/-- LDG: 09 R220. The index vector is read at issue, as one load of the LD queue. -/
def execLdg (k : Ctl) (sz : ESize) (sx q : Bool) (d : BitVec 5) (m : BitVec 3) (a : BitVec 5) (buf : Bool) (b : BitVec 5)
    (am : AddrForm) (s : State) : Res :=
  s.runCmd .ld k fun s en => do
    s.ldReady en
    let e := esizeBytes sz
    let x := s.me
    let i := s.issuer s.cur
    let at_ := (x.getX 0#2 b).toNat
    let _ ← liftF (s.checkAt i buf at_ 256 rR)
    let ks := s.keysAt buf at_ 256
    need (!s.fenced s.cur en.ord .load (ks.map fun k => homeOf k.1))
    need (x.loads.all fun c => c.lanes.all fun l => !(ks.any fun k => decide (homeOf k.1 = l.home)))
    let (s, bs, p) := s.loadKeys x.y.ctx.toNat ks
    let vas := if buf then (below 256).map (at_ + ·) else []
    let s := (s.heatAll vas).fillStream s.cur 0 vas
    let xa := x.getX 0#2 a
    let ea := addrEa am xa e en.cap
    let inc := incResult .ld a (addrInc am xa e)
    let mask := x.getK m
    if p then s.issueLoad en q sx d mask [] (some at_) inc
    else do
      let as_ := gathered ea e mask (BitVec.ofNat 2048 (leNat bs))
      afterF s (alignLanes e as_)
      let ls ← afterF s (checkLanes (fun l a => s.laneAt i buf none rR l a e) as_)
      s.issueLoad en q sx d mask ls none inc

/-- LDF: 09 R221. -/
def execLdf (k : Ctl) (sz : ESize) (sx q : Bool) (d : BitVec 5) (m : BitVec 3) (a : BitVec 5) (am : AddrForm) (s : State) : Res :=
  s.runCmd .ld k fun s en => do
    s.ldReady en
    let e := esizeBytes sz
    let x := s.me
    let xa := x.getX 0#2 a
    let ea := addrEa am xa e en.cap
    let mask := x.getK m
    liftF (must (decide (ea.toNat % e = 0)) fAlign ea.toNat)
    let ls ← liftF (s.fabricLanes s.cur ea e 126 (contiguous ea e mask))
    s.issueLoad en q sx d mask ls none (incResult .ld a (addrInc am xa e))

/-- One lane of LDS (09 R222): SHARD_RANGE, then the checks of the owner's access. -/
def State.shardLane (s : State) (ent e : Nat) (cs : List Nat) (l : Nat) : Except Flt LaneAcc := do
  let c0 := cs.getD 0 0
  let (o, off) ← s.shardAt ent cs e c0
  let (far, a) := s.shardAddr o off
  must (decide (a % e = 0)) fAlign (a % 2 ^ 64)
  must (decide (off < 2 ^ 40)) fBound (a % 2 ^ 64)
  if far then do
    let _ ← s.checkWindow s.cur s.me.y.tenant.toNat a [(off, e)] 126
    .ok { lane := l, addr := a, size := e, key := 0, kid := 0, remote := some (winOf a, off) }
  else s.laneAt (s.issuer s.cur) true none rR l a e

/-- LDS: 09 R222, 15 R340, R341. -/
def execLds (k : Ctl) (sz : ESize) (sx q : Bool) (d : BitVec 5) (m : BitVec 3) (a : BitVec 5) (b : BitVec 5) (rank : BitVec 2)
    (s : State) : Res :=
  s.runCmd .ld k fun s en => do
    s.ldReady en
    let e := esizeBytes sz
    let x := s.me
    let va := (x.getX 0#2 a).toNat
    let mask := x.getK m
    let cs := (below (rank.toNat + 1)).map fun j => (en.cap (b + BitVec.ofNat 5 j)).toNat
    let coords := fun (i : Nat) => cs.dropLast ++ [cs.getLastD 0 + i]
    let act := activeLanes mask
    let ent ← liftF (s.shardEntry (s.issuer s.cur) va ((coords (act.headD 0)).getD 0 0))
    let s := s.fillShard s.cur va
    let ls ← liftF (checkLanes (fun l _ => s.shardLane ent e (coords l) l) (act.map fun i => (i, 0)))
    s.issueLoad en q sx d mask ls none []

/-! ### Stores -/

/-- What every store of ST waits for besides its queues (08 R195, R201). -/
def State.stReady (s : State) (en : Entry) : M Unit := do
  let x := s.me
  need (x.storeSlips en)
  need (!s.scHolds s.cur en.ord)

/-- The stripes that parked stores name (08 R209). -/
def Slot.parkedStripes (x : Slot) : List Nat :=
  x.replay.foldl (fun acc a => acc ++ a.lanes.map fun l => l.acc.addr / 2 ^ 21) []

/-- A lane as written by its address alone, for a store that parks. -/
def bareLane (l a e : Nat) : LaneAcc := { lane := l, addr := a, size := e, key := 0, kid := 0 }

/-- How the checks of a store's lanes end (08 R209, 09 R216): it goes on, it parks (with the address of an XLATE, or behind a
parked store of one of its stripes), or it faults. -/
inductive StoreCheck where
  | go (ls : List LaneAcc)
  | park (report : Option Nat)
  | fail (f : Flt)

/-- The lanes of a store, checked in order: the first failure decides, and an XLATE parks the store. -/
def State.checkStore (s : State) (i : Issuer) (isVa : Bool) (base : Option Nat) (right e : Nat) (parked : List Nat)
    (as_ : List (Nat × Nat)) : StoreCheck :=
  match checkLanes (fun l a => s.laneAt i isVa base right l a e) as_ with
  | .ok ls => if isVa && as_.any (fun p => parked.contains (p.2 / 2 ^ 21)) then .park none else .go ls
  | .error f => if f.code = fXlate then .park (some f.info) else .fail f

/-- An entry that issues keeps the value of the X register that its post-increment changes (09 R217). -/
def Entry.keepX (en : Entry) (x : Slot) (inc : List Result) : Entry :=
  { en with xOld := inc.head?.bind fun r => match r.dest with
      | .x w a => some (a, x.getX w a)
      | .v _ => none
      | .k _ => none
      | .g _ => none }

/-- Issue a store (08 R209; 09 R216, R217): lanes as (lane, address), `val` and `kind` give what each lane writes. -/
def State.issueStore (s : State) (en : Entry) (isVa : Bool) (base : Option Nat) (right e : Nat) (as_ : List (Nat × Nat))
    (val : Nat → W32) (kind : Nat → StoreKind) (ak : AccKind) (inc : List Result) : M Done :=
  let x := s.me
  let acc := fun (ls : List LaneAcc) => ({
    entry := en.keepX x inc, lanes := ls.map fun l => ⟨l, val l.lane, kind l.lane⟩, right := right, bad := none,
    phase := s.phaseAt s.cur en.ord } : StoreAcc)
  match s.checkStore (s.issuer s.cur) isVa base right e x.parkedStripes as_ with
  | .fail f => .error (.fault f)
  | .park rep => do
    need (!s.fenced s.cur en.ord ak (s.parkedHomes isVa (as_.map fun p => (p.2, e))))
    let s := s.countCtx x.y.ctx.toNat 5
    let s := match rep with
      | some a => s.report s.cur fXlate a
      | none => s
    let s := s.upMe fun x => { x with replay := x.replay ++ [acc (as_.map fun p => bareLane p.1 p.2 e)] }
    .ok { s := s, results := inc }
  | .go ls => do
    need (!s.fenced s.cur en.ord ak (ls.map (·.home)))
    .ok { s := s.upMe fun x => { x with storeQ := x.storeQ ++ [acc ls] }, results := inc, retire := false }

/-- A contiguous store (09 R219). -/
def storeBody (sz : ESize) (d : BitVec 5) (m : BitVec 3) (a : BitVec 5) (am : AddrForm) (isVa : Bool) (s : State) (en : Entry) :
    M Done := do
  s.stReady en
  let e := esizeBytes sz
  let x := s.me
  let xa := x.getX 1#2 a
  let ea := addrEa am xa e en.cap
  let v := x.getV d
  liftF (must (decide (ea.toNat % e = 0)) fAlign ea.toNat)
  s.issueStore en isVa (some ea.toNat) rW e (contiguous ea e (x.getK m)) (lane v) (fun _ => .plain) .store
    (incResult .st a (addrInc am xa e))

/-- ST: 09 R219. -/
def execSt (k : Ctl) (sz : ESize) (d : BitVec 5) (m : BitVec 3) (a : BitVec 5) (am : AddrForm) (s : State) : Res :=
  s.runCmd .st k (storeBody sz d m a am false)

/-- STB: 09 R219. -/
def execStb (k : Ctl) (sz : ESize) (d : BitVec 5) (m : BitVec 3) (a : BitVec 5) (am : AddrForm) (s : State) : Res :=
  s.runCmd .st k (storeBody sz d m a am true)

/-- STG: 09 R220. -/
def execStg (k : Ctl) (sz : ESize) (d : BitVec 5) (m : BitVec 3) (a : BitVec 5) (buf : Bool) (b : BitVec 5) (am : AddrForm)
    (s : State) : Res :=
  s.runCmd .st k fun s en => do
    s.stReady en
    let e := esizeBytes sz
    let x := s.me
    let xa := x.getX 1#2 a
    let ea := addrEa am xa e en.cap
    let as_ := gathered ea e (x.getK m) (x.getV b)
    liftF (alignLanes e as_)
    s.issueStore en buf none rW e as_ (lane (x.getV d)) (fun _ => .plain) .store (incResult .st a (addrInc am xa e))

/-- The bytes that the remote lanes of a store write. -/
def farBytes (ls : List LaneAcc) (v : BitVec 2048) : List (Nat × Byte) :=
  ls.foldl (fun acc l => match l.remote with
    | some (_, o) => acc ++ (below l.size).map fun j => (o + j, (lane v l.lane >>> (8 * j)).setWidth 8)
    | none => acc) []

/-- STF: 09 R221; it retires on its acknowledgement (R217). -/
def execStf (k : Ctl) (sz : ESize) (d : BitVec 5) (m : BitVec 3) (a : BitVec 5) (am : AddrForm) (s : State) : Res :=
  s.runCmd .st k fun s en => do
    s.stReady en
    let e := esizeBytes sz
    let x := s.me
    let xa := x.getX 1#2 a
    let ea := addrEa am xa e en.cap
    liftF (must (decide (ea.toNat % e = 0)) fAlign ea.toNat)
    let ls ← liftF (s.fabricLanes s.cur ea e 125 (contiguous ea e (x.getK m)))
    need (!s.fenced s.cur en.ord .store (ls.map (·.home)))
    let v := x.getV d
    let inc := incResult .st a (addrInc am xa e)
    let st : StoreAcc := {
      entry := en.keepX x inc, lanes := ls.map fun l => ⟨l, lane v l.lane, .plain⟩, right := rW, bad := none, phase := s.phaseAt s.cur en.ord }
    let s := s.upMe fun x => { x with storeQ := x.storeQ ++ [st] }
    .ok { s := s.requestAll s.cur (.store en.seq) (winOf ea.toNat) .write (farBytes ls v),
          results := inc, retire := false }

/-- STN4: 09 R223. -/
def execStn4 (k : Ctl) (d : BitVec 5) (m : BitVec 3) (a : BitVec 5) (buf : Bool) (am : AddrForm) (s : State) : Res :=
  s.runCmd .st k fun s en => do
    s.stReady en
    let x := s.me
    let xa := x.getX 1#2 a
    let ea := addrEa am xa 1 en.cap
    let as_ := (activeLanes (x.getK m)).map fun i => (i, wrapAdd ea (i / 2))
    s.issueStore en buf (some ea.toNat) rW 1 as_ (lane (x.getV d)) (fun i => .nibble (i % 2 == 1)) .store
      (incResult .st a (addrInc am xa 1))

/-- VAMO: 09 R224. -/
def execVamo (k : Ctl) (op : AmoOp) (t : ATy) (d : BitVec 5) (m : BitVec 3) (a b : BitVec 5) (c : BitVec 3) (buf : Bool)
    (am : AddrForm) (s : State) : Res :=
  s.runCmd .st k fun s en => do
    s.stReady en
    let x := s.me
    let xa := x.getX 1#2 a
    let ea := addrEa am xa 4 en.cap
    let as_ := gathered ea 4 (x.getK m) (x.getV b)
    liftF (alignLanes 4 as_)
    let vc := x.getV (c.setWidth 5)
    s.issueStore en buf none rA 4 as_ (lane (x.getV d)) (fun i => .atomic op t (lane vc i)) .both
      (incResult .st a (addrInc am xa 4))

/-! ### MARK (08 R197, 09 R225) -/

/-- A MARK at the head of its queue issues; it holds the engine until the pair retires. -/
def Slot.issueMark (x : Slot) (now : Nat) (e : Engine) (lb : BitVec 4) : Slot :=
  let q := x.eng e
  match q.entries with
  | [] => x
  | h :: _ =>
    if !h.isMark || q.active.isSome || x.backed e || (h.pop && decide (x.tokens h.popF = 0)) || (h.push && !x.tokenRoom h.pushF) then x
    else
      let x := if h.pop then x.popToken h.popF else x
      let x := if h.push then x.reserveToken h.pushF else x
      (x.activate e h).noteBound e h.pos (now + lbCycles lb)

/-- MARK: 09 R225. -/
def execMark (onSt : Bool) (lb : BitVec 4) (s : State) : Res :=
  .next (s.upMe fun x => x.issueMark s.dcc.toNat (if onSt then .st else .ld) lb)

/-- MARK_RETIRE: 08 R197. -/
def execMarkRetire (s : State) : Res := .next (s.upMe Slot.retireMarks)

/-! ### Events -/

/-- LOAD_PERFORMED: 08 R191, R194. Lanes of the n-th issued load are performed; loads whose data is whole are placed. -/
def execLoadPerformed (n : Nat) (lanes : Word) (s : State) : Res :=
  .next ((s.performLoad s.cur n lanes).upMe fun x => x.placeLoads false x.loads.length)

/-- STORE_PERFORMED: 08 R191, R194. Lanes of the n-th issued store are performed; it retires with the last. -/
def execStorePerformed (n : Nat) (lanes : Word) (s : State) : Res :=
  .next ((s.performStore s.cur n lanes).retireStoresOf s.cur)

/-- LOAD_DATA_HEAD: 09 R216, R217, R221; 13 R300. -/
def execLoadDataHead (s : State) : Res :=
  .next (match s.me.ldq with
    | [] => s
    | a :: r =>
      match a.fault with
      | none => s.upMe fun x => x.deliverHead a r
      | some f =>
        if s.me.e.ld.latch.isSome then s
        else (s.upMe fun x => { x with ldq := r }).raiseLate s.cur .ld f a.tag)

/-! ### Replay (13 R303) -/

/-- The lanes of a parked store, translated again. -/
def State.replayLanes (s : State) (n : Nat) (a : StoreAcc) : Except Flt (List StoreLane) := do
  let ls ← checkLanes (fun l v => s.laneAt (s.issuer n) true none a.right l v
    (match a.lanes.find? (fun (q : StoreLane) => decide (q.acc.lane = l)) with
      | some q => q.acc.size
      | none => 1)) (a.lanes.map fun l => (l.acc.lane, l.acc.addr))
  .ok ((a.lanes.zip ls).map fun p => { p.1 with acc := p.2 })

def StoreAcc.stripes (a : StoreAcc) : List Nat := a.lanes.map fun l => l.acc.addr / 2 ^ 21

def meets (a b : List Nat) : Bool := a.any b.contains

/-- Replay the parked stores that share a stripe with the oldest, in queue order; `kept` are those that stay. -/
def State.replayFrom (s : State) (n : Nat) (stripes : List Nat) : List StoreAcc → List StoreAcc → State
  | [], kept => s.upSlot n fun x => { x with replay := kept }
  | a :: r, kept =>
    if !meets a.stripes stripes || (kept.any fun k => meets k.stripes a.stripes) then s.replayFrom n stripes r (kept ++ [a])
    else match s.replayLanes n a with
      | .ok ls =>
        let (s, bad) := s.performLanes n a.phase ls
        let s := match bad with
          | some v => s.raiseLate n .st ⟨fPoison, v⟩ a.entry.tag
          | none => s
        (s.upSlot n fun x => { x with stuck := x.stuck.filter (· ≠ a.entry.ord) }).replayFrom n stripes r kept
      | .error f =>
        let s :=
          if f.code = fXlate || (s.slot n).stuck.contains a.entry.ord then s
          else (s.report n rStuck a.entry.tag.toNat).upSlot n fun x => { x with stuck := a.entry.ord :: x.stuck }
        s.replayFrom n stripes r (kept ++ [a])

/-- STORE_REPLAY: 13 R303. -/
def execStoreReplay (s : State) : Res :=
  .next (match s.me.replay with
    | [] => s
    | a :: r => s.replayFrom s.cur a.stripes (a :: r) [])

end Sys2Proof.Machine
end

