-- ==== Sys2Proof/Machine/Flags.lean ====
section
/-! DEFINITION. Every flag computation: relations of CMP and CMPI (05 R119), of VCMP (06 R147), and the bits of a status-file
entry (04 R104, 10 R239, R248, R249). -/
namespace Sys2Proof.Machine

/-- The relation of CMP.cc and CMPI.cc (05 R119). -/
def ccHolds (cc : Cc) (a b : Word) : Bool :=
  match cc with
  | .eq => decide (a = b)
  | .ne => decide (a ≠ b)
  | .lt => decide (a.toInt < b.toInt)
  | .ltn => decide (a.toNat < b.toNat)
  | .le => decide (a.toInt ≤ b.toInt)
  | .len => decide (a.toNat ≤ b.toNat)
  | .gt => decide (a.toInt > b.toInt)
  | .gtn => decide (a.toNat > b.toNat)
  | .ge => decide (a.toInt ≥ b.toInt)
  | .gen => decide (a.toNat ≥ b.toNat)

/-- The relation of VCMP.cc on two numbers (06 R147). -/
def vccHolds (cc : VCc) (a b : Num) : Bool :=
  let un := a.isNan || b.isNan
  match cc with
  | .eq => a.eq b
  | .ne => !a.eq b
  | .lt => a.lt b
  | .le => !un && !b.lt a
  | .gt => b.lt a
  | .ge => !un && !a.lt b
  | .un => un

/-! ### Status-file entries (04 R104) -/

def stNan : Nat := 0
def stInf : Nat := 1
def stPoison : Nat := 2
def stAbandoned : Nat := 3

def Tile.status (t : Tile) (z : Nat) : BitVec 8 := mget 0#8 t.zStatus z
def Tile.setStatus (t : Tile) (z bit : Nat) : Tile := { t with zStatus := mput t.zStatus z (putBit (t.status z) bit true) }

/-- The entry with NAN_SEEN and INF_SEEN set as a value written by a reduction or drain asks (10 R239, R248). -/
def seen (e : BitVec 8) (nan inf : Bool) : BitVec 8 :=
  let e := if nan then putBit e stNan true else e
  if inf then putBit e stInf true else e

/-- The guard that MSTAT computes (10 R249). -/
def statGuard (nz : Bool) (e : BitVec 8) (mask : BitVec 4) : Bool :=
  let hit := decide (e.setWidth 4 &&& mask ≠ 0#4)
  if nz then hit else !hit

end Sys2Proof.Machine
end

