-- ==== Sys2Proof/Machine/Spill.lean ====
section
/-! DEFINITION. Spill locations: choice, write, read and move (06 R159 to R162; 07 R171, R178; 04 R108), and codebook slots as
a team reads them (16 R360, 27 R472). -/
namespace Sys2Proof.Machine

/-! ### Accumulator tiles (07 R178) -/

/-- The slot that an accumulator tile is allocated to (10 R230). -/
def Tile.allocOf (t : Tile) (z : Nat) : Option Nat := mget none t.zAlloc z
/-- A column: row m at lane m. -/
def Tile.col (t : Tile) (z c : Nat) : BitVec 2048 := mget 0#2048 t.z (z * 64 + c)
def Tile.setCol (t : Tile) (z c : Nat) (v : BitVec 2048) : Tile := { t with z := mput t.z (z * 64 + c) v }
/-- An accumulator element of a tile holds an uncorrectable error (23 R453); elements are numbered (Z × 64 + column) × 64 + row. -/
def Tile.colPoison (t : Tile) (z c : Nat) : Bool := t.zPoison.any fun i => decide (i / 64 = z * 64 + c)
def Tile.cleanCol (t : Tile) (z c : Nat) : Tile := { t with zPoison := t.zPoison.filter fun i => i / 64 ≠ z * 64 + c }
/-- Make a tile fresh: every element and the status entry read zero (07 R178, 04 R104). -/
def Tile.freshZ (t : Tile) (z : Nat) : Tile :=
  { t with
    z := mclear t.z (z * 64) (z * 64 + 64)
    zPoison := t.zPoison.filter fun i => i / 4096 ≠ z
    zStatus := mput t.zStatus z 0#8 }

/-! ### SPILL_MAP (04 R108) -/

def Slot.spillMap (x : Slot) (id : Nat) : Word := mget 0#64 x.y.spill id
def Slot.setSpillMap (x : Slot) (id : Nat) (v : Word) : Slot := { x with y := { x.y with spill := mput x.y.spill id v } }

/-- A location: an accumulator column, or an SA of the private region. -/
inductive SpillLoc where
  | col (z c : Nat)
  | mem (sa : Nat)
deriving DecidableEq, Repr

def SpillLoc.word : SpillLoc → Word
  | .col z c => BitVec.ofNat 64 (2 ^ 63 + z * 64 + c)
  | .mem sa => BitVec.ofNat 64 (2 ^ 63 + 2 ^ 62 + sa)

/-- The location that a SPILL_MAP entry names, when valid. -/
def spillLocOf (w : Word) : Option SpillLoc :=
  if !w.getLsbD 63 then none
  else if w.getLsbD 62 then some (.mem (fld w 31 0))
  else some (.col (fld w 9 6) (fld w 5 0))

/-- The private-region entry of slot n for an id, when its team has a spill granule on the tile (07 R171). -/
def State.privateSa (s : State) (n id : Nat) : Option Nat :=
  match mget none (s.tile (tileOf n)).spillGran (s.slot n).job.team with
  | some g => some (saTile (tileOf n) * 2 ^ 22 + g * 2 ^ 16 + n % 8 * 8192 + id * 256)
  | none => none

/-- The free column that VSPILL takes: the lowest of the lowest tile allocated to no slot (06 R159). -/
def Tile.freeCol (t : Tile) : Option (Nat × Nat) :=
  ((below 16).findSome? fun z =>
    if (t.allocOf z).isSome then none
    else (firstBelow 64 fun c => (mget none t.spillCol (z * 64 + c)).isNone).map fun c => (z, c))

/-- The location for a spill (06 R159). -/
def State.spillLoc (s : State) (n id : Nat) : Option SpillLoc :=
  match spillLocOf ((s.slot n).spillMap id) with
  | some l => some l
  | none =>
    match (s.tile (tileOf n)).freeCol with
    | some (z, c) => some (.col z c)
    | none => (s.privateSa n id).map .mem

def keys256 (sa : Nat) : List (Nat × Nat) := (below 256).map fun j => (sa + j, 0)

/-- R162: an entry of the private region in a bank that MX holds reserved is BANK_CONFLICT, with the SA of the entry; R176 would give
the first byte that conflicts (log 67). -/
def State.checkSpill (s : State) (sa : Nat) : Except Flt Unit :=
  must ((below 256).all fun j => !s.reserved (sa + j)) fBank (bankInfo sa 0)

/-- Write 2048 bits to a location and record it. -/
def State.spillTo (s : State) (n id : Nat) (v : BitVec 2048) : M State :=
  match s.spillLoc n id with
  | none => waitM
  | some (.col z c) =>
    let t := s.tile (tileOf n)
    let t := { (t.setCol z c v).cleanCol z c with spillCol := mput t.spillCol (z * 64 + c) (some (n, id)) }
    .ok ((s.setTile (tileOf n) t).upSlot n fun x => x.setSpillMap id (SpillLoc.col z c).word)
  | some (.mem sa) => do
    liftF (s.checkSpill sa)
    let s := s.writeKeys (s.slot n).y.ctx.toNat (keys256 sa) (leBytes 256 v.toNat)
    .ok (s.upSlot n fun x => x.setSpillMap id (SpillLoc.mem sa).word)

/-- Read a location: the state after it, the bits, and whether the read met an uncorrectable error. -/
def State.spillRead (s : State) (n : Nat) (l : SpillLoc) : M (State × BitVec 2048 × Bool) :=
  match l with
  | .col z c => .ok (s, (s.tile (tileOf n)).col z c, (s.tile (tileOf n)).colPoison z c)
  | .mem sa => do
    liftF (s.checkSpill sa)
    let (s, bs, p) := s.loadKeys (s.slot n).y.ctx.toNat (keys256 sa)
    .ok (s, BitVec.ofNat 2048 (leNat bs), p)

/-- A column that no spill holds any more: +0 in every row, without poison. R250 says so of MUNPARK; the spec is silent for VFILL
(R160) and for a move (R161) (log 67). -/
def Tile.vacate (t : Tile) (z c : Nat) : Tile :=
  { (t.setCol z c 0#2048).cleanCol z c with spillCol := mput t.spillCol (z * 64 + c) none }

/-- Free a location and clear VALID (06 R160, 10 R250). -/
def State.spillFree (s : State) (n id : Nat) (l : SpillLoc) : State :=
  let s := match l with
    | .col z c => s.setTile (tileOf n) ((s.tile (tileOf n)).vacate z c)
    | .mem _ => s
  s.upSlot n fun x => x.setSpillMap id (putBit (x.spillMap id) 63 false)

/-- The rows of a column that hold an uncorrectable error. -/
def Tile.badRows (t : Tile) (z c : Nat) : List Nat := (t.zPoison.filter fun i => decide (i / 64 = z * 64 + c)).map (· % 64)

/-- Move the spills of accumulator tile z to their private-region entries before MX allocates it; what is poisoned stays so (06 R161;
23 R453). -/
def State.moveSpills (s : State) (tile z : Nat) : M State :=
  (below 64).foldl (fun r c => do
    let s ← r
    match mget none (s.tile tile).spillCol (z * 64 + c) with
    | none => .ok s
    | some (n, id) =>
      match s.privateSa n id with
      | none => waitM
      | some sa => do
        liftF (s.checkSpill sa)
        let t := s.tile tile
        let s := s.writeKeys (s.slot n).y.ctx.toNat (keys256 sa) (leBytes 256 (t.col z c).toNat)
        let s := (t.badRows z c).foldl (fun s m => s.markPoison (sa + 4 * m)) s
        .ok ((s.setTile tile ((s.tile tile).vacate z c)).upSlot n fun x => x.setSpillMap id (SpillLoc.mem sa).word)) (.ok s)

/-- A codebook slot as team `team` reads it: sixteen +0 where the team does not claim it (27 R472). -/
def Tile.codebookFor (t : Tile) (team cb : Nat) : BitVec 256 :=
  if t.claims.any fun c => c.cb && decide (c.team = team) && decide (c.idx = cb) then mget 0#256 t.codebook cb else 0#256

end Sys2Proof.Machine
end

