-- ==== Sys2Proof/Machine/Matrix.lean ====
section
/-! DEFINITION. The meanings of the MX instructions (10 R230 to R250) and of STAMP_REACHED (01 R29 to R31). An MX command
has its whole effect when it starts, or, where it starts before its queue entries are all there, when it completes; it holds the array
and its banks until its occupancy ends (log 11). -/
namespace Sys2Proof.Machine

/-! ### Answers -/

/-- Why an MX command does not start: it waits, it faults, it faults with an effect on the state, or it waits with one (10 R232, R244). -/
inductive MxStop where
  | wait
  | fault (f : Flt)
  | after (s : State) (f : Flt)
  | moved (s : State)

abbrev P (α : Type) := Except MxStop α

def pWait {α : Type} : P α := .error .wait
def pFault {α : Type} (code info : Nat) : P α := .error (.fault ⟨code, info⟩)
def pNeed (c : Bool) : P Unit := if c then .ok () else .error .wait
def pMust (c : Bool) (code info : Nat) : P Unit := if c then .ok () else pFault code info
def liftP {α : Type} : Except Flt α → P α
  | .ok a => .ok a
  | .error f => .error (.fault f)
def liftM_ {α : Type} : M α → P α
  | .ok a => .ok a
  | .error .wait => .error .wait
  | .error (.fault f) => .error (.fault f)
  | .error (.after s f) => .error (.after s f)

/-- Whether the answer is a wait. -/
def P.waits {α : Type} : P α → Bool
  | .error .wait => true
  | .error (.moved _) => true
  | .error (.fault _) => false
  | .error (.after _ _) => false
  | .ok _ => false

/-- What a started MX command leaves: its covered result and the cycles within which it lands, whether the command retires at once, the
banks it reserves until its occupancy ends, the queue entries it has still to take, and a fault raised after its retirement. -/
structure MxDone where
  s : State
  results : List Result := []
  cap : Option Nat := none
  quick : Bool := false
  banks : Nat := 0
  feed : Option MmaFeed := none
  late : Option Flt := none

/-! ### What a command needs before its checks (01 R30; 07 R177; 08 R198, R201; 10 R236) -/

/-- The LD→MX entries that a command pops and those of its first group, the banks it reserves, and the access that fences and earlier
stores of the slot order. -/
structure MxNeed where
  pops : Nat := 0
  first : Nat := 0
  banks : Nat := 0
  kind : Option AccKind := none

/-- Whether an access issued earlier is outstanding on a bank: a lane of a load or store, or a unit that CP has checked (07 R177). -/
def State.bankBusy (s : State) (tile mask : Nat) : Bool :=
  let hit := fun (l : LaneAcc) => l.remote.isNone && !isHbm l.key && decide (tileOfSa l.key = tile) && natBit mask (bankOf l.key)
  s.slots.any fun e => (e.2.loads.any fun a => a.lanes.any hit) || (e.2.storeQ.any fun a => a.lanes.any fun l => hit l.acc) ||
    s.copyUses e.1 tile mask

/-- Whether a command of slot n has what it needs: in STAMPED mode every entry and every bank, in DRAWN mode the entries of its first
group with every load issued, the banks being waited for as check 7 (01 R30; 10 R236, R238). -/
def State.mxHas (s : State) (n : Nat) (en : Entry) (d : MxNeed) : Bool :=
  let x := s.slot n
  (match d.kind with
    | some k => s.pushClear n .t en.ord && !s.scHolds n en.ord && !s.fenced n en.ord k [saTile (tileOf n)]
    | none => true) &&
  (if (s.tile (tileOf n)).stamped then decide (d.pops ≤ x.mxq.length) && !s.bankBusy (tileOf n) d.banks
   else decide (min d.first d.pops ≤ x.mxq.length) && decide (d.pops ≤ x.mxq.length + (x.loads.filter (·.q)).length))

/-! ### Starting a command (10 R234, R238; 01 R29 to R31) -/

/-- The resolved start stamp (01 R30). -/
def stampOf (en : Entry) (c : BitVec 5) : Word := en.stampBase + ((en.cap c).setWidth 32).setWidth 64

/-- Whether a slot's control core owns the window of a stamp (01 R15, R29). -/
def ownsWindow (n win st : Nat) : Bool := decide ((st / win) % 2 = (n % 8) / 4)

/-- Whether an occupancy from a stamp on lies in one window of the slot's control core (01 R30). -/
def State.inWindow (s : State) (n st occ : Nat) : Bool :=
  let win := (s.tile (tileOf n)).windowLen
  ownsWindow n win st && decide (st + occ ≤ (st / win + 1) * win)

def Slot.closeRed (x : Slot) : Slot := { x with redOpen := false, redCount := 0 }

/-- A command at the head of slot n's queue fails its checks: it has not started, MX stops before it, and a reduction that is open is
closed there by the cut (10 R238, R242). -/
def State.mxFail (s : State) (n : Nat) (f : Flt) (tag : Word) : State := (s.upSlot n Slot.closeRed).raiseEng n .mx f tag

/-- SCHED_MISS at slot n (01 R30, 18 R389). -/
def State.schedMiss (s : State) (n : Nat) (en : Entry) (st : Word) : State :=
  if !(s.slot n).mayIssue .mx then s
  else (s.countCtx (s.slot n).y.ctx.toNat 1).mxFail n ⟨fSched, st.toNat⟩ en.tag

/-- The first cycle of the next window that the control core of slot n owns (01 R29). -/
def nextWindow (n win now : Nat) : Nat :=
  let w := now / win + 1
  (if w % 2 = (n % 8) / 4 then w else w + 1) * win

/-- A fault that a command raises after its retirement: at once, but PAIR_ABANDON in STAMPED mode at the start of the next window of
its side (10 R243, R245, R248, R250). -/
def State.mxLate (s : State) (n : Nat) (f : Flt) (tag : Word) : State :=
  let t := s.tile (tileOf n)
  if f.code = fPair ∧ t.stamped then
    s.upSlot n fun x => { x with pairDue := some (nextWindow n t.windowLen s.dcc.toNat, ⟨f, tag⟩) }
  else s.raiseLate n .mx f tag

/-- PAIR_ABANDON that was put off to this cycle is raised (10 R245). -/
def State.pairDueAt (s : State) (n : Nat) : State :=
  match (s.slot n).pairDue with
  | some (due, l) =>
    if due ≤ s.dcc.toNat then (s.upSlot n fun x => { x with pairDue := none }).raiseLate n .mx l.flt l.tag else s
  | none => s

/-- Start a command whose waits are over: guard, TAG_MISUSE, the checks and effect of `body`; `stop` answers a wait. -/
def State.mxStart (s : State) (k : Ctl) (en : Entry) (occ : Nat) (body : State → Entry → P MxDone) (stop : State → State) :
    State :=
  let x := s.me
  if en.scoreboard && x.tagPending .mx k.ta then s.mxFail s.cur ⟨fTag, (k.ta.map (·.toNat)).getD 0⟩ en.tag
  else
    match body s en with
    | .error .wait => stop s
    | .error (.moved t) => t
    | .error (.fault f) => s.mxFail s.cur f en.tag
    | .error (.after t f) => t.mxFail s.cur f en.tag
    | .ok d =>
      let quick := d.quick || d.late.isSome
      let t := d.s.commit .mx k en d.results quick quick d.cap
      let y := t.tile (tileOf s.cur)
      let t := t.setTile (tileOf s.cur) { y with busy := some ⟨s.cur, en, s.dcc.toNat + occ, d.banks, quick, d.feed⟩ }
      match d.late with
      | some f => t.mxLate s.cur f en.tag
      | none => t

/-- Issue an MX command: in STAMPED mode at its stamp, where what R30 asks for is tested first; in DRAWN mode when the array is free
(01 R27, R30; 10 R234, R238). `other` tells the partner of a pair that this side missed (10 R244). -/
def State.mxIssue (s : State) (k : Ctl) (c : BitVec 5) (occ : State → Entry → Nat) (nd : State → Nat → MxNeed)
    (body : State → Entry → P MxDone) (other : State → State) : State :=
  let en := s.entryNow .mx
  let t := s.tile (tileOf s.cur)
  let o := occ s en
  let st := stampOf en c
  let held := s.me.held s.dcc.toNat .mx k en
  if t.stamped && decide (s.dcc.toNat < st.toNat) then s
  else if !s.me.guardFor en k.guard then (if held || (!t.stamped && t.busy.isSome) then s else s.commit .mx k en [] true true)
  else if t.stamped then
    let miss := fun (s : State) => (other s).schedMiss s.cur en st
    if decide (s.dcc ≠ st) || t.busy.isSome || held || !s.inWindow s.cur st.toNat o || !s.mxHas s.cur en (nd s s.cur) then miss s
    else s.mxStart k en o body miss
  else if t.busy.isSome || held || !s.mxHas s.cur en (nd s s.cur) then s
  else s.mxStart k en o body fun s => s

def noOther (s : State) : State := s

def noNeed (_ : State) (_ : Nat) : MxNeed := {}

/-! ### Allocation and reduction (10 R230, R232) -/

/-- The slot of a tile that a slot number names. -/
def slotIn (n : Nat) : Nat := n % 8

/-- Check 1 of R238: no named tile is allocated to another slot. -/
def State.zFree (s : State) (n z : Nat) : P Unit :=
  match (s.tile (tileOf n)).allocOf z with
  | some o => pMust (decide (o = slotIn n)) fBank 4
  | none => .ok ()

/-- Allocate a tile to a slot: its spills move first, and a tile of another tenant's is fresh (06 R161, 07 R178). -/
def State.allocZ (s : State) (n z : Nat) : P State :=
  match (s.tile (tileOf n)).allocOf z with
  | some _ => .ok s
  | none => do
    let s ← liftM_ (s.moveSpills (tileOf n) z)
    let t := s.tile (tileOf n)
    let who := (s.slot n).y.tenant.toNat
    let t := if (mget none t.zLast z).map Prod.fst = some who then t else t.freshZ z
    .ok (s.setTile (tileOf n) { t with
      zAlloc := mput t.zAlloc z (some (slotIn n)), zLast := mput t.zLast z (some (who, (s.slot n).job.team)) })

/-- Open the reduction if it is closed and count K (10 R232, R239). -/
def Slot.openRed (x : Slot) (k : Nat) : Slot := { x with redOpen := true, redCount := (if x.redOpen then x.redCount else 0) + k }

/-- The quantum of MX runs on to the closing MRET (01 R35). -/
def Tile.openQuantum (t : Tile) : Tile :=
  match t.holdMx with
  | some q => { t with holdMx := some { q with opened := true } }
  | none => t

/-! ### Operands (10 R235 to R237; 07 R174) -/

/-- The 64-byte chunks of a span, the first at its start. -/
def chunks (a len : Nat) : List Nat := (below ((a % 64 + len + 63) / 64)).map fun j => if j = 0 then a else (a / 64 + j) * 64

/-- Check 3 of R238: the span lies in the issuing tile, under R165. -/
def State.mxSpan (s : State) (n a len : Nat) : P Unit := do
  pMust (decide (a / 2 ^ 22 = saTile (tileOf n))) fBound a
  let _ ← liftP (s.checkSa (s.issuer n) a len)
  .ok ()

/-- BANK_CONFLICT of MX (10 R238, 20 R404). -/
def pBank {α : Type} (sa bit : Nat) : P α := pFault fBank (bankInfo sa bit)

/-- The first chunk whose bank has another format than the first bank, or that lies in a scale area (10 R237, 07 R174). -/
def Tile.badChunk (t : Tile) (cs : List Nat) (scaleArea : Bool) : Option Nat :=
  let f := t.bankFmt (bankOf (cs.headD 0))
  cs.find? fun c => decide (t.bankFmt (bankOf c) ≠ f) ||
    (scaleArea && scaledOf (t.bankFmt (bankOf c)) && decide (0x38000 ≤ bankLocal c))

/-- The mask of the banks of chunks. -/
def bankMask (cs : List Nat) : Nat := upTo 16 (fun b m => if cs.any fun c => bankOf c = b then m + 2 ^ b else m) 0

/-- Every bank of each bank group that a mask touches (07 R176). -/
def groupMask (m : Nat) : Nat := upTo 4 (fun g a => if natBits m (4 * g + 3) (4 * g) = 0 then a else a + 15 * 16 ^ g) 0

/-- The chunks that lie in a tile. -/
def inTile (tile : Nat) (cs : List Nat) : List Nat := cs.filter fun c => decide (c / 2 ^ 22 = saTile tile)

/-- An operand: rows in banks of one format, or entries of the LD→MX data queue. -/
inductive Src where
  | bank (base rp : Nat) (fmt : BitVec 16)
  | queue (es : List LoadData) (fmt : BitVec 16)

def Src.reg : Src → BitVec 16
  | .bank _ _ f => f
  | .queue _ f => f

/-- The SA of the scale of the block that holds a byte (07 R174). -/
def scaleSa (tile : Nat) (f : Fmt) (sa : Nat) : Nat :=
  let b := match f with | .c4 => 16 | _ => 32
  saOfBank tile (bankOf sa) (0x38000 + 2 * (bankLocal sa / b))

/-- The first byte of element (m, k) (10 R235). -/
def elemSa (base rp m k : Nat) (f : Fmt) : Nat := base + m * rp + k * elemBits f / 8

/-- The bits of an element at a byte address; C4 takes the nibble of its index (02 R47). -/
def State.elemAt (s : State) (f : Fmt) (sa idx : Nat) : Nat :=
  match f with
  | .c4 => (s.byte sa).toNat / 16 ^ (idx % 2) % 16
  | f => leNat ((below (fmtBits f / 8)).map fun j => s.byte (sa + j))

/-- The bits of element (m, k) of an operand (10 R235, R236). -/
def State.srcBits (s : State) (o : Src) (m k : Nat) : Nat :=
  let f := fmtOf o.reg
  match o with
  | .bank base rp _ => s.elemAt f (elemSa base rp m k f) k
  | .queue es _ =>
    let i := k * 64 + m
    let at_ := i * elemBits f / 8
    match es[at_ / 256]? with
    | some e =>
      match f with
      | .c4 => fld e.data (8 * (at_ % 256) + 7) (8 * (at_ % 256)) / 16 ^ (i % 2) % 16
      | f => fld e.data (8 * (at_ % 256) + fmtBits f - 1) (8 * (at_ % 256))
    | none => 0

/-- The scale of the block that holds element (m, k); 1.0 without SCALED (07 R174, 10 R235, R236). -/
def State.srcScale (s : State) (tile : Nat) (o : Src) (m k : Nat) : Num :=
  match o with
  | .bank base rp r =>
    if scaledOf r then
      let a := scaleSa tile (fmtOf r) (elemSa base rp m k (fmtOf r))
      scaleNum (leNat [s.byte a, s.byte (a + 1)] % 1024)
    else scaleNum 0x1FC
  | .queue _ _ => scaleNum 0x1FC

/-- Whether element (m, k) or its scale meets an uncorrectable error, and the SA of the element (10 R243). -/
def State.srcBad (s : State) (tile : Nat) (o : Src) (m k : Nat) : Option Nat :=
  match o with
  | .bank base rp r =>
    let f := fmtOf r
    let a := elemSa base rp m k f
    let bad := ((below (max 1 (elemBits f / 8))).any fun j => s.poisoned (a + j)) ||
      (scaledOf r && s.poisoned (scaleSa tile f a))
    if bad then some a else none
  | .queue es r =>
    match es[(k * 64 + m) * elemBits (fmtOf r) / 8 / 256]? with
    | some e => if e.poison = 0#64 then none else some 0
    | none => none

/-- The first K-step whose element in some row meets an error. -/
def State.firstBad (s : State) (tile : Nat) (o : Src) (rows k : Nat) : Option (Nat × Nat) :=
  (below k).findSome? fun j => (below rows).findSome? fun m => (s.srcBad tile o m j).map fun a => (j, a)

/-- An element as a number; C4 through a codebook (02 R47). -/
def elemNum (f : Fmt) (cb : BitVec 256) (bits : Nat) : Num :=
  match f with
  | .c4 => bf16Fmt.decode (cbEntry cb bits)
  | f => decodeFmt f bits

/-! ### Accumulating commands (10 R239 to R245) -/

/-- What a checked MMA, MMAZ or MMAP works on. -/
structure MmaPlan where
  z : Nat
  k : Nat
  pt : Nat
  a : Src
  b : Src
  pops : Nat
  banks : Nat
  cbA : BitVec 256
  cbB : BitVec 256

/-- The admitted pairs (10 R237). -/
def pairOk (fa fb : BitVec 16) (k : Nat) (pt : Option PTab) : Bool :=
  let scaledK := decide (k % 32 = 0) || !(scaledOf fa || scaledOf fb)
  match fmtOf fa, fmtOf fb with
  | .bf16, .bf16 => true
  | .fp16, .fp16 => true
  | .e4m3, .e4m3 => scaledK
  | .e4m3, .e5m2 => scaledK
  | .e5m2, .e4m3 => scaledK
  | .e5m2, .e5m2 => scaledK
  | .c4, .c4 =>
    match pt with
    | some p => decide (k % 32 = 0) && decide (p.slotA.toNat = cbSlotOf fa) && decide (p.slotB.toNat = cbSlotOf fb)
    | none => false
  | _, _ => false

/-- What an accumulating command of slot n whose A operand has `rows` rows needs. -/
def mmaNeed (q : Bool) (a b : BitVec 5) (kk : BitVec 12) (rows : Nat) (s : State) (n : Nat) : MxNeed :=
  let t := s.tile (tileOf n)
  let at_ := fun (r : BitVec 5) => ((s.slot n).getX 3#2 r).toNat
  let f := fun (r : BitVec 5) => fmtOf (t.bankFmt (bankOf (at_ r)))
  let ca := if q then [] else chunks (at_ a) (rows * rowPitch (kOf kk) (f a))
  let banks := groupMask (bankMask (inTile (tileOf n) (ca ++ chunks (at_ b) (64 * rowPitch (kOf kk) (f b)))))
  { pops := if q then qEntries (kOf kk) (f b) else 0, first := if q then qEntries (kGroup (f b)) (f b) else 0,
    banks := banks, kind := some .load }

/-- RED_MAX as it was when an entry was dispatched (04 R107). -/
def Slot.redMaxFor (x : Slot) (en : Entry) : Nat := (mget (x.y.redMax.setWidth 64) en.caps capRedMax).toNat

/-- The checks of R238 for an accumulating command whose A operand has `rows` rows. -/
def State.mmaPlan (s : State) (n : Nat) (en : Entry) (pt : BitVec 2) (z : BitVec 4) (q : Bool) (a b : BitVec 5) (kk : BitVec 12)
    (rows : Nat) : P MmaPlan := do
  let x := s.slot n
  let t := s.tile (tileOf n)
  let k := kOf kk
  s.zFree n z.toNat
  pMust (!(t.status z.toNat).getLsbD stPoison) fPoison (Config.openWord s.freeCtr).toNat
  let xa := (x.getX 3#2 a).toNat
  let xb := (x.getX 3#2 b).toNat
  let fa := t.bankFmt (bankOf xa)
  let fb := t.bankFmt (bankOf xb)
  let ra := rowPitch k (fmtOf fa)
  let rb := rowPitch k (fmtOf fb)
  if q then .ok () else s.mxSpan n xa (rows * ra)
  s.mxSpan n xb (64 * rb)
  pMust (q || decide (xa % 64 = 0)) fAlign xa
  pMust (decide (xb % 64 = 0)) fAlign xb
  let ca := if q then [] else chunks xa (rows * ra)
  let cb := chunks xb (64 * rb)
  match ca.find? fun c => 8 ≤ bankOf c with
  | some c => pBank c 1
  | none => .ok ()
  match cb.find? fun c => bankOf c < 8 with
  | some c => pBank c 1
  | none => .ok ()
  match (if q then none else t.badChunk ca true), t.badChunk cb true with
  | some c, _ => pBank c 2
  | none, some c => pBank c 2
  | none, none => .ok ()
  let fa := if q then fb else fa
  let tab := mget none t.ptab pt.toNat
  if pairOk fa fb k tab then .ok () else pBank (if q then xb else xa) 2
  let banks := groupMask (bankMask (ca ++ cb))
  let pops := if q then qEntries k (fmtOf fb) else 0
  pNeed (!s.bankBusy (tileOf n) banks)
  let count := if x.redOpen then x.redCount else 0
  if count + k ≤ x.redMaxFor en then .ok ()
  else .error (.after (s.upSlot n Slot.closeRed) ⟨fRedOver, count⟩)
  .ok {
    z := z.toNat, k := k, pt := pt.toNat,
    a := if q then .queue (x.mxq.take pops) fb else .bank xa ra fa,
    b := .bank xb rb fb, pops := pops, banks := banks,
    cbA := (tab.map (·.a)).getD 0#256, cbB := (tab.map (·.b)).getD 0#256 }

/-- K-steps per group of a plan (02 R54). -/
def MmaPlan.group (p : MmaPlan) : Nat := kGroup (fmtOf p.a.reg)

/-- Groups of a plan. -/
def MmaPlan.groups (p : MmaPlan) : Nat := ceilDiv p.k p.group

/-- Scales enter the group value of C4 and FP8 (02 R57). -/
def MmaPlan.scales (p : MmaPlan) : Bool := match fmtOf p.a.reg with | .bf16 => false | .fp16 => false | _ => true

/-- The first group that an operand error stops, and the SA of the element (10 R243). -/
def State.planBad (s : State) (n : Nat) (p : MmaPlan) (rows : Nat) : Option (Nat × Nat) :=
  let g := fun (r : Nat × Nat) => (r.1 / p.group, r.2)
  match (s.firstBad (tileOf n) p.a rows p.k).map g, (s.firstBad (tileOf n) p.b 64 p.k).map g with
  | some a, some b => if a.1 ≤ b.1 then some a else some b
  | some a, none => some a
  | none, some b => some b
  | none, none => none

/-- One side's A operand as the array receives it: the bits and the scale of element (row, K-step). -/
structure ARows where
  el : Nat → Nat → Nat
  sc : Nat → Nat → Num

def State.aRows (s : State) (n : Nat) (p : MmaPlan) : ARows :=
  { el := fun m k => s.srcBits p.a m k
    sc := fun m k => s.srcScale (tileOf n) p.a m k }

/-- The value of group g for an output element (02 R54 to R57); C4 through the array's own product table (02 R55). -/
def State.groupVal (s : State) (n : Nat) (p : MmaPlan) (a : ARows) (m c g : Nat) : Num :=
  let lo := g * p.group
  let ks := (below (min p.group (p.k - lo))).map (lo + ·)
  let ps := ks.map fun k => (elemNum (fmtOf p.a.reg) p.cbA (a.el m k)).mul (elemNum (fmtOf p.b.reg) p.cbB (s.srcBits p.b c k))
  groupValue ps (if p.scales then some (a.sc m lo, s.srcScale (tileOf n) p.b c lo) else none)

/-- An accumulator element after groups 0 to ng - 1, and whether a NaN or an infinity was written (10 R239). -/
def accRun (ng : Nat) (gv : Nat → Num) (acc : Nat) : Nat × Bool × Bool :=
  upTo ng (fun g (r : Nat × Bool × Bool) =>
    let v := accAdd r.1 (gv g)
    (v, r.2.1 || (f32Fmt.decode v).isNan, r.2.2 || (f32Fmt.decode v).isInf)) (acc, false, false)

/-- A column after the groups. -/
def accCol (ng : Nat) (gv : Nat → Nat → Num) (col : BitVec 2048) : BitVec 2048 × Bool × Bool :=
  upTo 64 (fun m (r : BitVec 2048 × Bool × Bool) =>
    let e := accRun ng (gv m) (lane r.1 m).toNat
    (setLane r.1 m (BitVec.ofNat 32 e.1), r.2.1 || e.2.1, r.2.2 || e.2.2)) (col, false, false)

/-- The words of a span that hold errors are met: a single one is corrected and counted, more leave the word poisoned (23 R453). -/
def State.meetSpan (s : State) (a len : Nat) : State :=
  (s.upsets.filter fun (e : Nat × Nat) => decide (e.1 < 2 ^ 32) && decide (a < e.1 * 8 + 8) && decide (e.1 * 8 < a + len)).foldl
    (fun s (e : Nat × Nat) => s.meetUnit 0 (e.1 * 8)) s

/-- MX reads the banks of a mask: each wakes, and the words of the spans are met (07 R185; 23 R453). -/
def State.readBanks (s : State) (n banks : Nat) (spans : List (Nat × Nat)) : State :=
  let s := s.touchAll (s.slot n).y.ctx.toNat
    ((below 16).filterMap fun b => if natBit banks b then some (saOfBank (tileOf n) b 0, 0) else none)
  spans.foldl (fun s p => s.meetSpan p.1 p.2) s

/-- The bytes of an operand, with the scale area of a SCALED bank (10 R235; 07 R174). -/
def srcSpans (tile rows : Nat) : Src → List (Nat × Nat)
  | .bank base rp f => (base, rows * rp) ::
      (if scaledOf f then [(saOfBank tile (bankOf base / 4 * 4) 0x38000, 2 ^ 17)] else [])
  | .queue _ _ => []

/-- An accumulating command of slot n starts (10 R239): its operands' banks are read, its tile is allocated, MMAZ zeroes it, the reduction
opens and counts K, and the entries that are present leave the data queue. -/
def State.mmaStart (s : State) (n : Nat) (zero : Bool) (p : MmaPlan) (rows : Nat) : P State := do
  let s := s.readBanks n p.banks (srcSpans (tileOf n) rows p.a ++ srcSpans (tileOf n) 64 p.b)
  let s ← s.allocZ n p.z
  let t := s.tile (tileOf n)
  let t := if zero then
      { t with z := mclear t.z (p.z * 64) (p.z * 64 + 64), zPoison := t.zPoison.filter fun i => i / 4096 ≠ p.z }
    else t
  let s := s.setTile (tileOf n) t.openQuantum
  .ok (s.upSlot n fun x => { x.openRed p.k with mxq := x.mxq.drop p.pops })

/-- Groups 0 to ng - 1 are added to the accumulators, and the status entry follows (10 R239). -/
def State.addGroups (s : State) (n : Nat) (p : MmaPlan) (a : ARows) (ng : Nat) : State :=
  let r := upTo 64 (fun c (r : Tile × Bool × Bool) =>
    let e := accCol ng (fun m g => s.groupVal n p a m c g) (r.1.col p.z c)
    (r.1.setCol p.z c e.1, r.2.1 || e.2.1, r.2.2 || e.2.2)) (s.tile (tileOf n), false, false)
  s.setTile (tileOf n) { r.1 with zStatus := mput r.1.zStatus p.z (seen (r.1.status p.z) r.2.1 r.2.2) }

/-- The occupancy of an accumulating command (10 R234). -/
def mmaOcc (b : BitVec 5) (kk : BitVec 12) (s : State) (_ : Entry) : Nat :=
  ceilDiv (kOf kk) (kRate (fmtOf ((s.tile (tileOf s.cur)).bankFmt (bankOf (s.me.getX 3#2 b).toNat))))

/-- Stop at an operand error: POISON in the status, the reduction closed (10 R243). -/
def State.mxPoison (s : State) (n z : Nat) : State :=
  (s.setTile (tileOf n) ((s.tile (tileOf n)).setStatus z stPoison)).upSlot n Slot.closeRed

/-- What MMA or MMAZ adds once its operands are all at hand, and the fault of an operand error (10 R239, R243). -/
def State.mmaEnd (s : State) (n : Nat) (p : MmaPlan) : State × Option Flt :=
  match s.planBad n p 64 with
  | none => (s.addGroups n p (s.aRows n p) p.groups, none)
  | some (g, sa) => ((s.addGroups n p (s.aRows n p) g).mxPoison n p.z, some ⟨fPoison, sa * 2 ^ 32 + g⟩)

/-- What a started command has still to take from the data queue; none where every entry is at hand (10 R236). -/
def MmaPlan.feed (p : MmaPlan) (rows : Nat) (pair : Option Nat) : MmaFeed :=
  { z := p.z, k := p.k, pt := p.pt, fa := p.a.reg, fb := p.b.reg
    a := match p.a with | .bank x r _ => some (x, r) | .queue _ _ => none
    b := match p.b with | .bank x r _ => (x, r) | .queue _ _ => (0, 0)
    rows := rows, need := p.pops
    got := match p.a with | .bank _ _ _ => [] | .queue es _ => es
    steps := 0, pair := pair }

def MmaFeed.whole (f : MmaFeed) : Bool := decide (f.need ≤ f.got.length)

/-- The plan of a command that runs on what it has taken. -/
def MmaFeed.plan (f : MmaFeed) (t : Tile) (banks : Nat) : MmaPlan :=
  let tab := mget none t.ptab f.pt
  { z := f.z, k := f.k, pt := f.pt, pops := 0, banks := banks
    a := match f.a with | some (x, r) => .bank x r f.fa | none => .queue f.got f.fa
    b := .bank f.b.1 f.b.2 f.fb
    cbA := (tab.map (·.a)).getD 0#256, cbB := (tab.map (·.b)).getD 0#256 }

/-- MMA and MMAZ. -/
def mmaBody (zero : Bool) (pt : BitVec 2) (z : BitVec 4) (q : Bool) (a b : BitVec 5) (kk : BitVec 12) (s : State) (en : Entry) :
    P MxDone := do
  let n := s.cur
  let p ← s.mmaPlan n en pt z q a b kk 64
  let t ← s.mmaStart n zero p 64
  let f := p.feed 64 none
  if !f.whole then .ok { s := t, banks := p.banks, feed := some f }
  else
    match t.mmaEnd n p with
    | (t, none) => .ok { s := t, banks := p.banks }
    | (t, some flt) => .ok { s := t, late := some flt }

/-- MMA: 10 R239. -/
def execMma (k : Ctl) (pt : BitVec 2) (z : BitVec 4) (q : Bool) (a b c : BitVec 5) (kk : BitVec 12) (s : State) : Res :=
  .next (s.mxIssue k c (mmaOcc b kk) (mmaNeed q a b kk 64) (mmaBody false pt z q a b kk) noOther)

/-- MMAZ: 10 R239. -/
def execMmaz (k : Ctl) (pt : BitVec 2) (z : BitVec 4) (q : Bool) (a b c : BitVec 5) (kk : BitVec 12) (s : State) : Res :=
  .next (s.mxIssue k c (mmaOcc b kk) (mmaNeed q a b kk 64) (mmaBody true pt z q a b kk) noOther)

/-! ### Paired reductions (10 R244, R245) -/

/-- The head of a slot's MX queue, when it is an MMAP: its entry and fields. -/
structure PairHead where
  n : Nat
  en : Entry
  k : Ctl
  pt : BitVec 2
  z : BitVec 4
  q : Bool
  a : BitVec 5
  b : BitVec 5
  c : BitVec 5
  kk : BitVec 12

def State.pairHead (s : State) (n : Nat) : Option PairHead :=
  match (s.slot n).e.mx.entries with
  | [] => none
  | en :: _ =>
    if !en.isEng then none
    else match decodeEngine 2#3 en.word with
      | .ok (.mmap k pt z q a b c kk) => some ⟨n, en, k, pt, z, q, a, b, c, kk⟩
      | _ => none

/-- The logical tile that pairs with a slot's tile: t XOR 1 on its die. -/
def partnerTile (n : Nat) : Nat := tileOf n / 48 * 48 + Nat.xor (tileOf n % 48) 1

/-- Run `f` as another slot, whose entry `en` issues. -/
def State.asSlot (s : State) (n : Nat) (en : Entry) (f : State → State) : State :=
  let t := f { s with cur := n, phase := .issue en }
  { t with cur := s.cur, phase := s.phase }

/-- The occupancy of one side of a pair. -/
def State.pairOcc (s : State) (h : PairHead) : Nat :=
  ceilDiv (kOf h.kk) (kRate (fmtOf ((s.tile (tileOf h.n)).bankFmt (bankOf ((s.slot h.n).getX 3#2 h.b).toNat))))

/-- Whether a side of a pair could start now if its array were given to it: R30 on its own tile in STAMPED mode (10 R244). -/
def State.sideReady (s : State) (h : PairHead) : Bool :=
  let x := s.slot h.n
  let t := s.tile (tileOf h.n)
  let st := stampOf h.en h.c
  t.busy.isNone && !x.held s.dcc.toNat .mx h.k h.en && x.guardFor h.en h.k.guard && x.mayIssue .mx &&
  s.mxHas h.n h.en (mmaNeed h.q h.a h.b h.kk 32 s h.n) &&
  (!t.stamped || (decide (s.dcc = st) && s.inWindow h.n st.toNat (s.pairOcc h)))

/-- Whether a slot holds MX of its tile, or in DRAWN mode nobody does. -/
def Tile.freeFor (t : Tile) (n : Nat) : Bool :=
  t.stamped || (match t.holdMx with
    | some q => decide (q.slot = n)
    | none => true)

/-- The slot of the partner tile whose MMAP stands at its head: in STAMPED mode with the same stamp, in DRAWN mode ready and not behind
another slot's quantum. Where several do, the lowest, of any team: the spec names none (log 71). -/
def State.partner (s : State) (n : Nat) (st : Option Word) : Option PairHead :=
  (below 8).findSome? fun j =>
    match s.pairHead (partnerTile n * 8 + j) with
    | some h => match st with
      | some w => if stampOf h.en h.c = w then some h else none
      | none => if s.sideReady h && (s.tile (tileOf h.n)).freeFor h.n then some h else none
    | none => none

/-- Whether the partner's side can start now: in DRAWN mode its slot holds MX of its tile (01 R32, R35). -/
def State.partnerReady (s : State) (h : PairHead) : Bool :=
  let t := s.tile (tileOf h.n)
  s.sideReady h && (t.stamped || (match t.holdMx with
    | some q => decide (q.slot = h.n)
    | none => false))

/-- The 64 rows of a pair: rows 0 to 31 from the side of the even tile. -/
def joinRows (even odd : ARows) : ARows :=
  { el := fun m k => if m < 32 then even.el m k else odd.el (m - 32) k
    sc := fun m k => if m < 32 then even.sc m k else odd.sc (m - 32) k }

/-- TRAP_INFO of PAIR_ABANDON after a start (10 R245). -/
def pairInfo (g : Nat) (mine : Bool) : Nat := g * 2 ^ 32 + 2 + (if mine then 4 else 0)

/-- One side of a pair that stops before group g. -/
def State.abandon (s : State) (n z : Nat) (mine : Bool) : State :=
  let t := (s.tile (tileOf n)).setStatus z stAbandoned
  (s.setTile (tileOf n) (if mine then t.setStatus z stPoison else t)).upSlot n Slot.closeRed

/-- The 64 rows of the pair of slots n and m, with their plans. -/
def State.pairRows (s : State) (n m : Nat) (p r : MmaPlan) : ARows :=
  if tileOf n % 2 = 0 then joinRows (s.aRows n p) (s.aRows m r) else joinRows (s.aRows m r) (s.aRows n p)

/-- What the two sides of a pair add once their operands are all at hand, and the faults of an operand error: both stop before the same
group (10 R244, R245). -/
def State.pairEnd (s : State) (n m : Nat) (p r : MmaPlan) : State × Option (Flt × Flt) :=
  let rows := s.pairRows n m p r
  let bad1 := (s.planBad n p 32).map (·.1)
  let bad2 := (s.planBad m r 32).map (·.1)
  match minOf (bad1.toList ++ bad2.toList) with
  | none => ((s.addGroups n p rows p.groups).addGroups m r rows r.groups, none)
  | some g =>
    let t := (s.addGroups n p rows g).addGroups m r rows g
    ((t.abandon n p.z (bad1 = some g)).abandon m r.z (bad2 = some g),
      some (⟨fPair, pairInfo g (bad1 = some g)⟩, ⟨fPair, pairInfo g (bad2 = some g)⟩))

/-- The partner of slot n fails its checks: its fault is its own; this side does not start, which in STAMPED mode misses its stamp. -/
def State.partnerFails (s : State) (en : Entry) (c : BitVec 5) (h : PairHead) (e : MxStop) : MxStop :=
  let on := fun (t : State) =>
    if (t.tile (tileOf t.cur)).stamped then .after (t.countCtx t.me.y.ctx.toNat 1) ⟨fSched, (stampOf en c).toNat⟩ else .moved t
  match e with
  | .wait => .wait
  | .moved t => .moved t
  | .fault f => on (s.mxFail h.n f h.en.tag)
  | .after t f => on (t.mxFail h.n f h.en.tag)

/-- The partner's command starts, or has stopped at an operand error already. -/
def State.partnerStarts (s : State) (h : PairHead) (till banks : Nat) (feed : Option MmaFeed) (late : Option Flt) : State :=
  s.asSlot h.n h.en fun u =>
    let u := u.commit .mx h.k h.en [] late.isSome late.isSome
    let y := u.tile (tileOf h.n)
    let u := u.setTile (tileOf h.n) { y with busy := some ⟨h.n, h.en, till, banks, late.isSome, feed⟩ }
    match late with
    | some f => u.mxLate h.n f h.en.tag
    | none => u

/-- MMAP (10 R244): both sides start together, or neither. -/
def mmapBody (pt : BitVec 2) (z : BitVec 4) (q : Bool) (a b c : BitVec 5) (kk : BitVec 12) (s : State) (en : Entry) : P MxDone := do
  let n := s.cur
  let stamped := (s.tile (tileOf n)).stamped
  let p ← s.mmaPlan n en pt z q a b kk 32
  match s.partner n (if stamped then some (stampOf en c) else none) with
  | none => pWait
  | some h => do
    pNeed (s.partnerReady h && decide ((s.tile (tileOf h.n)).stamped = stamped))
    let r ← match s.mmaPlan h.n h.en h.pt h.z h.q h.a h.b h.kk 32 with
      | .ok r => (.ok r : P MmaPlan)
      | .error e => .error (s.partnerFails en c h e)
    if p.k ≠ r.k ∨ p.pt ≠ r.pt ∨ fmtOf p.a.reg ≠ fmtOf r.a.reg ∨ fmtOf p.b.reg ≠ fmtOf r.b.reg then
      .error (.after (s.mxFail h.n ⟨fPair, 1⟩ h.en.tag) ⟨fPair, 1⟩)
    else do
      let t ← s.mmaStart n false p 32
      let t ← t.mmaStart h.n false r 32
      let till := s.dcc.toNat + mmaOcc b kk s en
      let f1 := p.feed 32 (some h.n)
      let f2 := r.feed 32 (some n)
      if !(f1.whole && f2.whole) then
        .ok { s := t.partnerStarts h till r.banks (some f2) none, banks := p.banks, feed := some f1 }
      else
        match t.pairEnd n h.n p r with
        | (t, none) => .ok { s := t.partnerStarts h till r.banks none none, banks := p.banks }
        | (t, some (mine, its)) => .ok { s := t.partnerStarts h till 0 none (some its), late := some mine }

/-! ### Entries that come while a command runs (10 R234, R236) -/

/-- The data-queue entries that the first j K-steps of a command need. -/
def MmaFeed.needs (f : MmaFeed) (j : Nat) : Nat :=
  if f.need = 0 then 0 else ceilDiv (64 * min f.k j * elemBits (fmtOf f.fa)) 2048

/-- The command that runs on a tile takes what has come into its slot's data queue. -/
def State.feedTake (s : State) (tile : Nat) : State :=
  let t := s.tile tile
  match t.busy with
  | some b => match b.feed with
    | some f =>
      let x := s.slot b.slot
      let l := x.mxq.take (f.need - f.got.length)
      let s := s.setTile tile { t with busy := some { b with feed := some { f with got := f.got ++ l } } }
      s.setSlot b.slot { x with mxq := x.mxq.drop l.length }
    | none => s
  | none => s

/-- The running command of a tile that still takes entries. -/
def State.feedOf (s : State) (tile : Nat) : Option (MxBusy × MmaFeed) := (s.tile tile).busy.bind fun b => b.feed.map fun f => (b, f)

/-- Whether the array can add the next K-steps. -/
def MmaFeed.fed (f : MmaFeed) : Bool := decide (f.needs (f.steps + kRate (fmtOf f.fa)) ≤ f.got.length)

/-- The array adds K-steps in this cycle. -/
def State.feedOn (s : State) (tile : Nat) : State :=
  match s.feedOf tile with
  | some (b, f) => s.setTile tile { s.tile tile with busy := some { b with feed := some { f with steps := f.steps + kRate (fmtOf f.fa) } } }
  | none => s

/-- A command that has run to its end completes: it retires, the array is free, and a late fault is raised. -/
def State.feedDone (s : State) (tile : Nat) (b : MxBusy) (late : Option Flt) : State :=
  let s := s.completeMx tile
  match late with
  | some f => s.mxLate b.slot f b.entry.tag
  | none => s

/-- One cycle of a command that takes its entries while it runs: it adds K-steps where the entries they need are there, and stalls
otherwise; both sides of a pair advance together (10 R234, R236, R244). The side of the lower tile moves both. -/
def State.feedCycle (s : State) (tile : Nat) : State :=
  match s.feedOf tile with
  | none => s
  | some (_, f) =>
    match f.pair with
    | none =>
      let s := s.feedTake tile
      match s.feedOf tile with
      | none => s
      | some (_, f) =>
        if !f.fed then s
        else
          let s := s.feedOn tile
          match s.feedOf tile with
          | none => s
          | some (b, f) =>
            if f.steps < f.k then s
            else
              let (s, late) := s.mmaEnd b.slot (f.plan (s.tile tile) b.banks)
              s.feedDone tile b late
    | some m =>
      if tileOf m < tile then s
      else
        let s := (s.feedTake tile).feedTake (tileOf m)
        match s.feedOf tile, s.feedOf (tileOf m) with
        | some (_, f), some (_, g) =>
          if !(f.fed && g.fed) then s
          else
            let s := (s.feedOn tile).feedOn (tileOf m)
            match s.feedOf tile, s.feedOf (tileOf m) with
            | some (b, f), some (c, g) =>
              if f.steps < f.k then s
              else
                let (s, late) := s.pairEnd b.slot c.slot (f.plan (s.tile tile) b.banks) (g.plan (s.tile (tileOf m)) c.banks)
                (s.feedDone tile b (late.map Prod.fst)).feedDone (tileOf m) c (late.map Prod.snd)
            | _, _ => s
        | _, _ => s

/-- A command whose occupancy has ended completes; one that takes its entries while it runs goes on (10 R234). -/
def State.completeDueAt (s : State) (tile : Nat) : State :=
  match (s.tile tile).busy with
  | some b =>
    if b.feed.isSome then s.feedCycle tile
    else if b.till ≤ s.dcc.toNat then s.completeMx tile else s
  | none => s

/-- The partner of a side that misses its stamp misses too (10 R244). -/
def pairMiss (c : BitVec 5) (s : State) : State :=
  let st := stampOf (s.entryNow .mx) c
  match s.partner s.cur (some st) with
  | some h => s.schedMiss h.n h.en st
  | none => s

/-- MMAP: 10 R244, R245. -/
def execMmap (k : Ctl) (pt : BitVec 2) (z : BitVec 4) (q : Bool) (a b c : BitVec 5) (kk : BitVec 12) (s : State) : Res :=
  .next (s.mxIssue k c (mmaOcc b kk) (mmaNeed q a b kk 32) (mmapBody pt z q a b c kk) (pairMiss c))

/-! ### MRET, MZERO, MLDCB, MSTAT (10 R240, R246, R247, R249) -/

/-- An occupancy that the operands do not change. -/
def fixedOcc (o : Nat) (_ : State) (_ : Entry) : Nat := o

/-- In DRAWN mode MRET ends the slot's MX quantum (01 R35). -/
def Tile.endMx (t : Tile) (n : Nat) : Tile :=
  match t.holdMx with
  | some q => if !t.stamped && q.slot = n then { t with holdMx := none } else t
  | none => t

/-- MRET: 10 R240. -/
def execMret (k : Ctl) (c : BitVec 5) (s : State) : Res :=
  .next (s.mxIssue k c (fixedOcc 1) noNeed (fun s _ =>
    let s := s.setTile (tileOf s.cur) ((s.tile (tileOf s.cur)).endMx s.cur)
    .ok { s := s.upMe Slot.closeRed, quick := true }) noOther)

/-- MZERO: 10 R246. -/
def execMzero (k : Ctl) (z : BitVec 4) (c : BitVec 5) (s : State) : Res :=
  .next (s.mxIssue k c (fixedOcc 16) noNeed (fun s _ => do
    s.zFree s.cur z.toNat
    let s ← s.allocZ s.cur z.toNat
    .ok { s := s.setTile (tileOf s.cur) ((s.tile (tileOf s.cur)).freshZ z.toNat) }) noOther)

/-- MLDCB: 10 R247; the slots as the issuing team reads them (27 R472). -/
def execMldcb (k : Ctl) (pt : BitVec 2) (cba cbb : BitVec 3) (c : BitVec 5) (s : State) : Res :=
  .next (s.mxIssue k c (fixedOcc 16) noNeed (fun s _ =>
    let t := s.tile (tileOf s.cur)
    let team := s.me.job.team
    let p : PTab := ⟨cba, cbb, t.codebookFor team cba.toNat, t.codebookFor team cbb.toNat⟩
    .ok { s := s.setTile (tileOf s.cur) { t with ptab := mput t.ptab pt.toNat (some p) } }) noOther)

/-- MSTAT: 10 R249; a free tile gives 0, and the guard lands within 16 cycles. -/
def execMstat (k : Ctl) (nz : Bool) (g : BitVec 3) (z mask : BitVec 4) (c : BitVec 5) (s : State) : Res :=
  .next (s.mxIssue k c (fixedOcc 1) noNeed (fun s _ => do
    s.zFree s.cur z.toNat
    let t := s.tile (tileOf s.cur)
    let e := if (t.allocOf z.toNat).isSome then t.status z.toNat else 0#8
    .ok { s := s, quick := true, cap := some 16, results := [⟨.g g, (BitVec.ofBool (statGuard nz e mask)).setWidth 2048, BitVec.allOnes 64⟩] })
    noOther)

/-! ### MDRAIN (10 R248) -/

/-- The SA of element (m, c) of a drain's destination or residual. -/
def drainSa (base m c : Nat) (f : Fmt) : Nat := base + (m * 64 + c) * elemBits f / 8

/-- The bits of an element at an address whose bytes `rd` reads (02 R47). -/
def elemBitsAt (rd : Nat → Byte) (f : Fmt) (sa idx : Nat) : Nat :=
  match f with
  | .c4 => (rd sa).toNat / 16 ^ (idx % 2) % 16
  | f => leNat ((below (fmtBits f / 8)).map fun j => rd (sa + j))

/-- The decoded residual element (m, c), its bytes as `rd` reads them (02 R53). -/
def resNum (rd : Nat → Byte) (tile : Nat) (r : BitVec 16) (cb : BitVec 256) (base m c : Nat) : Num :=
  let f := fmtOf r
  let a := drainSa base m c f
  let v := elemNum f cb (elemBitsAt rd f a (m * 64 + c))
  if scaledOf r then
    let k := scaleSa tile f a
    v.mul (scaleNum (leNat [rd k, rd (k + 1)] % 1024))
  else v

/-- Whether residual element (m, c), or its scale, meets an uncorrectable error, and its SA (10 R248). -/
def resBadAt (bad : Nat → Bool) (tile : Nat) (r : BitVec 16) (base m c : Nat) : Option Nat :=
  let f := fmtOf r
  let a := drainSa base m c f
  if ((below (max 1 (elemBits f / 8))).any fun j => bad (a + j)) || (scaledOf r && bad (scaleSa tile f a)) then some a else none

/-- Dropout (10 R248): the element, kept and scaled or dropped. -/
def dropNum (seed : Word) (tr tc m c rate : Nat) (v : Num) : Num :=
  let u := praline seed (BitVec.ofNat 64 (m + 64 * tr) + BitVec.ofNat 64 ((c + 64 * tc) * 2 ^ 32))
  if u.toNat < rate * 2 ^ 24 then .zero
  else f32Fmt.decode (f32Fmt.round .rne ((v.mul (.ofInt 256)).div (.ofInt (256 - rate))))

/-- Whether a drained value saturates its destination (10 R248). -/
def saturates (f : Fmt) (v : Num) : Bool :=
  match v with
  | .nan => false
  | .inf _ => true
  | .fin _ m e =>
    match fpOf f with
    | some g => (Num.fin false g.maxM g.maxE).lt (.fin false m e)
    | none =>
      match intRange f with
      | some (lo, hi) => decide (v.toIntRounded .rne < lo) || decide (hi < v.toIntRounded .rne)
      | none => false

/-- A checked drain. -/
structure DrainPlan where
  dst : Nat
  fd : BitVec 16
  res : Option (Nat × BitVec 16)
  banks : Nat

/-- The bytes of a drain's destination or residual. -/
def drainLen (f : BitVec 16) : Nat := 4096 * elemBits (fmtOf f) / 8

/-- What MDRAIN needs. -/
def drainNeed (res : Bool) (d r : BitVec 5) (s : State) (n : Nat) : MxNeed :=
  let t := s.tile (tileOf n)
  let cs := fun (r : BitVec 5) =>
    let a := ((s.slot n).getX 3#2 r).toNat
    chunks a (drainLen (t.bankFmt (bankOf a)))
  { banks := bankMask (inTile (tileOf n) (cs d ++ if res then cs r else [])), kind := some (if res then .both else .store) }

/-- The checks of R238 for MDRAIN. -/
def State.drainPlan (s : State) (n : Nat) (_ : Entry) (res : Bool) (d r : BitVec 5) (z : BitVec 4) : P DrainPlan := do
  let x := s.slot n
  let t := s.tile (tileOf n)
  s.zFree n z.toNat
  let xd := (x.getX 3#2 d).toNat
  let xr := (x.getX 3#2 r).toNat
  let fd := t.bankFmt (bankOf xd)
  let fr := t.bankFmt (bankOf xr)
  s.mxSpan n xd (drainLen fd)
  if res then s.mxSpan n xr (drainLen fr) else .ok ()
  let size := fun (f : BitVec 16) => max 1 (elemBits (fmtOf f) / 8)
  pMust (decide (xd % size fd = 0)) fAlign xd
  pMust (!res || decide (xr % size fr = 0)) fAlign xr
  let cd := chunks xd (drainLen fd)
  let cr := if res then chunks xr (drainLen fr) else []
  match cd.find? fun c => fmtOf (t.bankFmt (bankOf c)) = .c4 with
  | some c => pBank c 2
  | none => .ok ()
  match t.badChunk cd false with
  | some c => pBank c 2
  | none => .ok ()
  match (if res then t.badChunk cr false else none) with
  | some c => pBank c 2
  | none => .ok ()
  let banks := bankMask (cd ++ cr)
  pNeed (!s.bankBusy (tileOf n) banks)
  .ok { dst := xd, fd := fd, res := if res then some (xr, fr) else none, banks := banks }

/-- One element of a drain: its pattern in the destination format, NaN seen, infinity or saturation seen. -/
def drainElem (f : Fmt) (v : Num) : Nat × Bool × Bool := (convert f .rne v, v.isNan, saturates f v)

/-- What a drain has written so far: bytes by address, NaN seen, infinity or saturation seen. -/
structure Drained where
  cells : SMap Byte
  nan : Bool
  inf : Bool

/-- A byte as a drain finds it: as it has written it, or as it stood (10 R248: the elements are taken one by one). -/
def Drained.rd (w : Drained) (s : State) (a : Nat) : Byte := (mfind w.cells a).getD (s.byte a)

/-- Whether a byte is in error for a drain: not where the drain has written its whole word (23 R453). -/
def Drained.bad (w : Drained) (s : State) (a : Nat) : Bool := s.poisoned a && !(below 8).all fun i => (mfind w.cells (a / 8 * 8 + i)).isSome

/-- The bytes of a drained element: its pattern, and the scale of its block where the destination is SCALED (02 R53). -/
def drainCells (tile : Nat) (p : DrainPlan) (m i pat : Nat) : List (Nat × Byte) :=
  let f := fmtOf p.fd
  let a := drainSa p.dst m i f
  let k := scaleSa tile f a
  ((below (fmtBits f / 8)).zip (leBytes (fmtBits f / 8) pat)).map (fun c => (a + c.1, c.2)) ++
    (if scaledOf p.fd then [(k, 0xFC#8), (k + 1, 0x01#8)] else [])

/-- Element (m, i) of a drain, `val` its value before the conversion. -/
def Drained.put (w : Drained) (tile : Nat) (p : DrainPlan) (m i : Nat) (val : Num) : Drained :=
  let e := drainElem (fmtOf p.fd) val
  { cells := (drainCells tile p m i e.1).foldl (fun c b => mput c b.1 b.2) w.cells, nan := w.nan || e.2.1, inf := w.inf || e.2.2 }

/-- The value of element (m, i) of a drain: the accumulator, with the residual added and rounded, then dropout (10 R248). -/
def State.drainVal (s : State) (tile : Nat) (en : Entry) (p : DrainPlan) (z sc : Nat) (drop : Bool) (rate : Nat) (w : Drained) (m i : Nat) : Num :=
  let t := s.tile tile
  let v := f32Fmt.decode (lane (t.col z i) m).toNat
  let v := match p.res with
    | some (xr, fr) =>
      f32Fmt.decode (f32Fmt.round .rne (v.add false (resNum (w.rd s) tile fr (mget 0#256 t.codebook (cbSlotOf fr)) xr m i)))
    | none => v
  if drop then dropNum en.seed (natBits sc 47 32) (natBits sc 63 48) m i rate v else v

/-- Row m of a drain, element by element, or the SA of the residual element that meets an uncorrectable error. -/
def State.drainRow (s : State) (tile : Nat) (en : Entry) (p : DrainPlan) (z sc : Nat) (drop : Bool) (rate : Nat) (w : Drained) (m : Nat) :
    Except Nat Drained :=
  (below 64).foldl (fun r i => do
    let w ← r
    match p.res.bind fun q => resBadAt (w.bad s) tile q.2 q.1 m i with
    | some sa => .error sa
    | none => .ok (w.put tile p m i (s.drainVal tile en p z sc drop rate w m i))) (.ok w)

/-- The rows of a drain in ascending order, from row m on with fuel: what was written, the number of rows, and the SA that stopped it. -/
def State.drainRows (s : State) (tile : Nat) (en : Entry) (p : DrainPlan) (z sc : Nat) (drop : Bool) (rate : Nat) :
    Nat → Nat → Drained → Drained × Nat × Option Nat
  | 0, m, w => (w, m, none)
  | fuel + 1, m, w =>
    match s.drainRow tile en p z sc drop rate w m with
    | .error sa => (w, m, some sa)
    | .ok w => s.drainRows tile en p z sc drop rate fuel (m + 1) w

/-- MDRAIN: 10 R248. -/
def execMdrain (k : Ctl) (res drop free : Bool) (d : BitVec 5) (z : BitVec 4) (r c : BitVec 5) (rate : BitVec 8) (s : State) : Res :=
  .next (s.mxIssue k c (fixedOcc (if res then 128 else 64)) (drainNeed res d r) (fun s en => do
    let n := s.cur
    let p ← s.drainPlan n en res d r z
    let s := s.readBanks n p.banks (match p.res with | some (xr, fr) => srcSpans (tileOf n) 1 (.bank xr (drainLen fr) fr) | none => [])
    let t := s.tile (tileOf n)
    let (w, rows, bad) := s.drainRows (tileOf n) en p z.toNat (en.cap c).toNat drop rate.toNat 64 0 ⟨[], false, false⟩
    let u := s.writeKeys s.me.y.ctx.toNat (w.cells.map fun b => (b.1, 0)) (w.cells.map Prod.snd)
    let hurt := t.zPoison.filter fun i => i / 4096 = z.toNat ∧ i % 64 < rows
    let u := hurt.foldl (fun u i => u.markPoison (drainSa p.dst (i % 64) (i / 64 % 64) (fmtOf p.fd))) u
    match bad with
    | some sa => .ok { s := u, late := some ⟨fPoison, sa * 2 ^ 32⟩ }
    | none =>
      let y := u.tile (tileOf n)
      let y := { y with zStatus := mput y.zStatus z.toNat (seen (y.status z.toNat) w.nan w.inf) }
      let y := if hurt.isEmpty then y else y.setStatus z.toNat stPoison
      let y := if free then { y with zAlloc := mput y.zAlloc z.toNat none } else y
      .ok { s := u.setTile (tileOf n) y, banks := p.banks }) noOther)

/-! ### Parking (10 R250) -/

/-- MPARK: 10 R250. -/
def execMpark (k : Ctl) (id f l c : BitVec 5) (s : State) : Res :=
  .next (s.mxIssue k c (fixedOcc 4) noNeed (fun s en => do
    let v := upTo (l.toNat + 1 - f.toNat) (fun j (acc : BitVec 2048) =>
      acc ||| ((en.cap (f + BitVec.ofNat 5 j)).setWidth 2048 <<< (64 * j))) 0#2048
    let s ← liftM_ (s.spillTo s.cur id.toNat v)
    .ok { s := s }) noOther)

/-- MUNPARK: 10 R250. The state card of R230 lists it among the commands that allocate a free tile they name; its word names no tile
(R233), and it allocates none (log 72). -/
def execMunpark (k : Ctl) (id f l c : BitVec 5) (s : State) : Res :=
  .next (s.mxIssue k c (fixedOcc 4) noNeed (fun s _ => do
    let put := fun (v : BitVec 2048) (x : Slot) =>
      upTo (l.toNat + 1 - f.toNat) (fun j (y : Slot) => y.setS (f + BitVec.ofNat 5 j) ((v >>> (64 * j)).setWidth 64)) x
    match spillLocOf (s.me.spillMap id.toNat) with
    | none => .ok { s := s.upMe (put 0#2048) }
    | some loc => do
      let (s, v, p) ← liftM_ (s.spillRead s.cur loc)
      if p then .ok { s := s, late := some ⟨fPoison, (Config.openWord s.freeCtr).toNat⟩ }
      else .ok { s := (s.spillFree s.cur id.toNat loc).upMe (put v) }) noOther)

/-! ### STAMP_REACHED (01 R29 to R31) -/

/-- The meaning of an MX command, by its constructor. -/
def mxMeaning (i : Instr) (s : State) : Res :=
  match i with
  | .mma k pt z q a b c kk => execMma k pt z q a b c kk s
  | .mmaz k pt z q a b c kk => execMmaz k pt z q a b c kk s
  | .mmap k pt z q a b c kk => execMmap k pt z q a b c kk s
  | .mret k c => execMret k c s
  | .mdrain k res drop free d z r c rate => execMdrain k res drop free d z r c rate s
  | .mzero k z c => execMzero k z c s
  | .mldcb k pt a b c => execMldcb k pt a b c s
  | .mstat k nz g z m c => execMstat k nz g z m c s
  | .mpark k id f l c => execMpark k id f l c s
  | .munpark k id f l c => execMunpark k id f l c s
  | _ => .next s

/-- Issue the MX head of slot n as that slot. -/
def State.issueMx (s : State) (n : Nat) : State :=
  match (s.slot n).e.mx.entries with
  | [] => s
  | en :: _ =>
    if !en.isEng || !(s.slot n).mayIssue .mx then s
    else match decodeEngine 2#3 en.word with
      | .ok i => s.asSlot n en fun t => match mxMeaning i t with
        | .next u => u
        | .fault _ => t
        | .refused _ => t
      | .error _ => s

/-- The heads of a tile in STAMPED mode start or miss, in slot order (01 R30, R31). -/
def State.stampDueAt (s : State) (t : Nat) : State :=
  if (s.tile t).stamped then (below 8).foldl (fun s j => s.issueMx (t * 8 + j)) s else s

/-- STAMP_REACHED: 01 R30, R31. In STAMPED mode the heads whose stamp the DCC has reached start or miss, in slot order. -/
def execStampReached (s : State) : Res := .next (s.stampDueAt (tileOf s.cur))

/-! ### Heads that could start (01 R32) -/

/-- Whether the command at the head of slot n's MX queue could start if the array were given to it (01 R32; 07 R177; 10 R236, R244). -/
def State.mxGoes (s : State) (n : Nat) (en : Entry) (i : Instr) : Bool :=
  let t := s.tile (tileOf n)
  let go := fun (k : Ctl) (d : MxNeed) (w : Bool) =>
    !(s.slot n).held s.dcc.toNat .mx k en && (!(s.slot n).guardFor en k.guard || (s.mxHas n en d && !w))
  let mma := fun (k : Ctl) (pt : BitVec 2) (z : BitVec 4) (q : Bool) (a b : BitVec 5) (kk : BitVec 12) (rows : Nat) =>
    go k (mmaNeed q a b kk rows s n) (P.waits (do
      let p ← s.mmaPlan n en pt z q a b kk rows
      s.allocZ n p.z))
  t.busy.isNone && (s.slot n).mayIssue .mx &&
  (match i with
    | .mma k pt z q a b _ kk => mma k pt z q a b kk 64
    | .mmaz k pt z q a b _ kk => mma k pt z q a b kk 64
    | .mmap k pt z q a b _ kk => mma k pt z q a b kk 32 && (!(s.slot n).guardFor en k.guard || (s.partner n none).isSome)
    | .mret k _ => go k {} false
    | .mdrain k res _ _ d z r _ _ => go k (drainNeed res d r s n) (s.drainPlan n en res d r z).waits
    | .mzero k z _ => go k {} (P.waits (do
        s.zFree n z.toNat
        s.allocZ n z.toNat))
    | .mldcb k _ _ _ _ => go k {} false
    | .mstat k _ _ _ _ _ => go k {} false
    | .mpark k id _ _ _ => go k {} (s.spillLoc n id.toNat).isNone
    | .munpark k _ _ _ _ => go k {} false
    | _ => false)

end Sys2Proof.Machine
end

