-- ==== Sys2Proof/Machine/Objects.lean ====
section
/-! DEFINITION. Completion counters (18 R380, R381), their last-issuer fields (16 R355), and event counters (18 R389, R390). -/
namespace Sys2Proof.Machine

/-- VALUE of a completion-counter entry (18 R380). -/
def ctrValue (w : Word) : Nat := fld w 47 0
def ctrErr (w : Word) : Bool := w.getLsbD 63

def State.counter (s : State) (ctx id : Nat) : Word := mget 0#64 s.counters (ctx * 256 + id)

/-- Write an entry: bits 62:48 stay 0 (18 R380). -/
def State.setCounter (s : State) (ctx id : Nat) (w : Word) : State :=
  { s with counters := mput s.counters (ctx * 256 + id) (w &&& 0x8000FFFFFFFFFFFF#64) }

/-- v + n clamped to 0 to 2^48 - 1. -/
def clamp48 (v : Nat) (n : Int) : Nat := (clampInt 0 (2 ^ 48 - 1) ((v : Int) + n)).toNat

/-- Add n to VALUE; ERR is set by `err` and otherwise stays (18 R380). -/
def State.counterAdd (s : State) (ctx id : Nat) (n : Int) (err : Bool) : State :=
  let w := s.counter ctx id
  s.setCounter ctx id (BitVec.ofNat 64 (b2n (ctrErr w || err) * 2 ^ 63 + clamp48 (ctrValue w) n))

/-- The task of slot n is the last issuer of a counter of its context (16 R355). -/
def State.nameCounter (s : State) (n id : Nat) : State :=
  let x := s.slot n
  { s with ctrIssuer := mput s.ctrIssuer (x.y.ctx.toNat * 256 + id) x.job.task }

/-- Context creation (18 R380, R389). -/
def State.clearCounters (s : State) (ctx : Nat) : State :=
  { s with
    counters := mclear s.counters (ctx * 256) (ctx * 256 + 256)
    ctrIssuer := mclear s.ctrIssuer (ctx * 256) (ctx * 256 + 256)
    ctxEvents := mclear s.ctxEvents (ctx * 16) (ctx * 16 + 16) }

end Sys2Proof.Machine
end

