-- ==== Sys2Proof/Machine/Season.lean ====
section
/-! DEFINITION. The season machine: holds of BWPHASE (07 R187) and the events of 07 R185. -/
namespace Sys2Proof.Machine

/-- The idle interval of a die (07 R185; IDLELOG of 16 R361). -/
def State.idleInterval (s : State) (die : Nat) : Nat := 2 ^ natBits (s.entry 0x13 die) 11 7

/-- Whether team `team` owns a granule of a bank's group on a tile (07 R168, R187). -/
def Tile.teamHasBank (t : Tile) (team bank : Nat) : Bool :=
  (below 16).any fun g =>
    let e := mget 0#24 t.owner (bank / 4 * 16 + g)
    e.getLsbD 23 && decide (fld e 14 0 = team)

/-- The DRAM regions behind the bytes of one stripe of a buffer, from offset `first` to `last`, as (stack, region): a stripe lies in one
region of each stack of its mask (07 R180). -/
def State.stripeRegions (s : State) (e first last : Nat) : List (Nat × Nat) :=
  let pm := s.entry 0x01 (pmapIdx e (first / 2 ^ 21))
  let base := natBits (s.entry 0x03 (bufVf e)) 15 0 * 2 ^ 21
  let g := bufGran e
  if !natBit pm 63 then []
  else (below (min (last / g + 1 - first / g) (bufStacks e))).map fun i =>
    let p := placeOf e base (natBits pm 18 0) ((first / g + i) * g)
    (p.1, p.2 / 2 ^ 21)

/-- The DRAM regions behind the bytes of a range that slot n's team has: those of a valid buffer of its tenant, up to its length, in
regions that are allocated (07 R187). -/
def State.rangeRegions (s : State) (n : Nat) (a : Word) (len : Nat) : List (Nat × Nat) :=
  let va := a.toNat
  let e := s.entry 0x00 (vaIndex va)
  let stop := min (vaOffset va + len) (bufLen e)
  if va < 2 ^ 40 || !natBit e 255 || !s.ownerOk (s.issuer n) e || decide (stop ≤ vaOffset va) then []
  else
    ((below ((stop - 1) / 2 ^ 21 + 1 - vaOffset va / 2 ^ 21)).foldl (fun acc j =>
      let t := vaOffset va / 2 ^ 21 + j
      acc ++ (s.stripeRegions e (max (vaOffset va) (t * 2 ^ 21)) (min (stop - 1) (t * 2 ^ 21 + 2 ^ 21 - 1))).filter fun r => !acc.contains r)
      []).filter fun r => s.regionAlloc (r.1 * 2 ^ 15 + r.2)

/-- Whether some slot of a tile holds a bank (07 R187). -/
def State.bankHeld (s : State) (tile bank : Nat) : Bool :=
  (below 8).any fun i =>
    match (s.slot (tile * 8 + i)).bwHold with
    | some h => natBit h.banks bank
    | none => false

/-- Whether some slot holds a DRAM region. -/
def State.regionHeld (s : State) (stack region : Nat) : Bool :=
  s.slots.any fun e => match e.2.bwHold with
    | some h => h.regions.contains (stack, region)
    | none => false

/-- The hold of slot n ends: idle intervals of what it held count from now (07 R187). -/
def State.endHold (s : State) (n : Nat) : State :=
  match (s.slot n).bwHold with
  | none => s
  | some h =>
    let t := s.tile (tileOf n)
    let t := { t with lastUse := upTo 16 (fun b m => if natBit h.banks b then mput m b s.dcc.toNat else m) t.lastUse }
    let s := s.setTile (tileOf n) t
    let s := { s with regionUse := h.regions.foldl (fun m (r : Nat × Nat) => mput m (r.1 * 2 ^ 15 + r.2) s.dcc.toNat) s.regionUse }
    let s := s.upSlot n fun x => { x with bwHold := none }
    h.regions.foldl (fun s (r : Nat × Nat) => if s.regionHeld r.1 r.2 then s else s.sendSeason 3 r.1 r.2 1) s

/-- A SYSW of BWPHASE takes effect: its hold begins, and what it holds out of summer goes to spring (07 R185, R187). -/
def State.beginHold (s : State) (n : Nat) (v : Word) : State :=
  let s := s.endHold n
  let x := s.slot n
  let t := s.tile (tileOf n)
  let want := fld v 47 32
  let banks := upTo 16 (fun b m => if natBit want b && t.teamHasBank x.job.team b then m + 2 ^ b else m) 0
  let regions := if fld v 31 16 = 0 then [] else
    (x.job.reads ++ x.job.writes).foldl (fun (acc : List (Nat × Nat)) (r : Word × Nat) =>
      acc ++ (s.rangeRegions n r.1 r.2).filter fun q => !acc.contains q) []
  let s := upTo 16 (fun b (s : State) =>
    if natBit banks b && mget 2#2 (s.tile (tileOf n)).season b != 0#2 then s.wakeBank (tileOf n) b 3#2 else s) s
  let s := regions.foldl (fun (s : State) (r : Nat × Nat) => if s.regionHeld r.1 r.2 then s else s.sendSeason 2 r.1 r.2 1) s
  let dur := fld v 63 48
  s.upSlot n fun x => { x with
    bwHold := some ⟨banks, regions, if dur = 0 then none else some (s.dcc.toNat + dur * 1024)⟩ }

/-- A region goes to autumn: its rows are closed and kept in self-refresh, by a power-down on the row bus of each PC (12 R269, R282). -/
def State.regionSleeps (s : State) (stack region : Nat) : State :=
  let s := s.setRegionSeason (stack * 2 ^ 15 + region) 1
  s.setStack stack (upTo 64 (fun pc (st : Stack) => st.command s.dcc.toNat .powerDown (hbmKey stack (region * 2 ^ 21 + pc * 256)) none)
    (s.stack stack))

/-- SEASON_IDLE_EXPIRY: 07 R185. A unit in summer, not held, idle for its interval goes to autumn. -/
def execSeasonIdleExpiry (u : SeasonUnit) (s : State) : Res :=
  .next (match u with
    | .bank tile bank =>
      let t := s.tile tile
      if mget 2#2 t.season bank = 0#2 && !s.bankHeld tile bank &&
          decide (s.idleInterval (tile / 48) ≤ s.dcc.toNat - mget 0 t.lastUse bank) then
        s.setBankSeason tile bank 1#2
      else s
    | .region stack region =>
      let i := stack * 2 ^ 15 + region
      if s.regionSeason i = 0 && !s.regionHeld stack region && !natBit (s.entry 0x0D i) 2 &&
          decide (s.idleInterval (stack / 2) ≤ s.dcc.toNat - mget 0 s.regionUse i) then
        s.regionSleeps stack region
      else s)

/-- WAKE_COMPLETE: 07 R185. A unit in spring reaches summer. -/
def execWakeComplete (u : SeasonUnit) (s : State) : Res :=
  .next (match u with
    | .bank tile bank =>
      if mget 2#2 (s.tile tile).season bank = 3#2 then
        let s := s.setBankSeason tile bank 0#2
        let t := s.tile tile
        s.setTile tile { t with lastUse := mput t.lastUse bank s.dcc.toNat }
      else s
    | .region stack region =>
      let i := stack * 2 ^ 15 + region
      if s.regionSeason i = 3 then
        let s := s.setRegionSeason i 0
        { s with regionUse := mput s.regionUse i s.dcc.toNat }
      else s)

/-- HOLD_EXPIRY: 07 R187. DURATION × 1024 cycles have passed. -/
def execHoldExpiry (s : State) : Res :=
  .next (match s.me.bwHold with
    | some h =>
      match h.till with
      | some t => if t ≤ s.dcc.toNat then s.endHold s.cur else s
      | none => s
    | none => s)

end Sys2Proof.Machine
end

