-- ==== Sys2Proof/Machine/Copy.lean ====
section
/-! DEFINITION. Copy commands of CP (11 R251 to R257; 07 R186), performed unit by unit, and their completion (11 R252). -/
namespace Sys2Proof.Machine

/-! ### Order (08 R198, R201) -/

/-- The homes of every byte that a copy names (08 R198; log 9). -/
def State.copyHomes (s : State) (n : Nat) (j : CopyJob) : List Nat :=
  let a := s.jobSpans n j
  a.rd.getD [] ++ a.wr.getD []

/-- Whether a copy may perform its next unit: FILL and FILL.DISCARD only store (08 R192, R198, R201). -/
def State.copyClear (s : State) (n : Nat) (j : CopyJob) : Bool :=
  let stores := isDiscard j.instr || (match j.instr with | .fill _ _ _ _ _ _ _ => true | _ => false)
  s.clearFor n j.entry.ord (if stores then .store else .both) (s.copyHomes n j)

/-! ### Reading and writing a unit -/

/-- The check of R165 or R179 of bytes, without the bank conflict (11 R255). -/
def State.checkOnly (s : State) (i : Issuer) (isVa : Bool) (a len right : Nat) : Except Flt Unit := do
  if isVa then s.checkVa i a len right
  else do
    let _ ← s.checkSa i a len
    .ok ()

def State.checkEndBank (s : State) (isVa : Bool) (a len : Nat) : Except Flt Unit :=
  if isVa then .ok () else s.checkBank a len

/-- Read source bytes for a copy: a byte that the copy itself has overwritten is read as found or as it stands (11 R256). -/
def State.copyRead (s : State) (j : CopyJob) (ks : List (Nat × Nat)) : List (Byte × Bool) :=
  ks.map fun k =>
    match mfind j.was k.1 with
    | some old => if Config.overlapOld s.freeCtr k.1 then old else s.readKey k.2 k.1
    | none => s.readKey k.2 k.1

/-- Write destination bytes of a copy of slot n: `cells` are (address, key, key id, byte, poisoned). -/
def State.copyWrite (s : State) (n : Nat) (j : CopyJob) (isVa : Bool) (cells : List (Nat × Nat × Nat × Byte × Bool)) :
    State × CopyJob :=
  let was := if planOf j.instr j.entry == none then j.was else
    cells.foldl (fun m c => match mfind m c.2.1 with
      | some _ => m
      | none => mput m c.2.1 (s.readKey c.2.2.1 c.2.1)) j.was
  let s := s.writeKeys (s.slot n).y.ctx.toNat (cells.map fun c => (c.2.1, c.2.2.1)) (cells.map fun c => c.2.2.2.1)
  let s := cells.foldl (fun s c => if c.2.2.2.2 && s.takes s.origin (c.2.1, c.2.2.1) then s.markPoison c.2.1 else s) s
  let vas := cells.map fun c => c.1
  let s := if isVa then (s.heatAll vas).fillStream n 2 vas else s
  (s.countInbound n j.phase (cells.map fun c => c.1), { j with was := was, err := j.err || cells.any fun c => c.2.2.2.2 })

/-- A raw unit whose source bytes are at hand. -/
def State.putUnit (s : State) (n : Nat) (j : CopyJob) (isVa : Bool) (d : Nat) (bs : List (Byte × Bool)) : State × CopyJob :=
  let ks := s.keysAt isVa d bs.length
  s.copyWrite n j isVa (((below bs.length).zip (ks.zip bs)).map fun c => (d + c.1, c.2.1.1, c.2.1.2, c.2.2.1, c.2.2.2))

/-! ### Far ends (09 R221; 11 R256) -/

/-- The answered requests of a copy leave their stations. -/
def State.takeReqs (s : State) (n : Nat) (seq : W32) : State :=
  { s with stations := s.stations.map fun e => (e.1, { e.2 with
      reqs := e.2.reqs.filter fun r => !(decide (r.who = n) && r.live && decide (r.kind = .copy seq)) }) }

/-- The windows of a set of accesses, each once. -/
def addWin (ws : List Nat) (w : Nat) : List Nat := if ws.contains w then ws else ws ++ [w]

/-- The bytes of a window range that answered requests give. -/
def farRead (rs : List FabReq) (w off len : Nat) : List (Byte × Bool) :=
  (below len).map fun i =>
    match rs.find? fun r => r.slot.op == .read && decide (r.window = w) && decide (r.slot.h.offset.toNat / 64 = (off + i) / 64) with
    | some r => (beatByte r.data (off + i), r.poison.getLsbD ((off + i) % 64 / 32))
    | none => (0#8, false)

/-! ### Converting units (02 R47, R48, R51, R53; 11 R256) -/

/-- The element at a half-byte position, decoded by its bank, and whether it is poisoned. -/
def State.cvElem (s : State) (ps : Nat) : Num × Nat × Bool :=
  let sa := ps / 2
  let t := s.tile (tileOfSa sa)
  let r := t.bankFmt (bankOf sa)
  let f := fmtOf r
  let bits := s.elemAt f sa ps
  let v := elemNum f (mget 0#256 t.codebook (cbSlotOf r)) bits
  let k := scaleSa (tileOfSa sa) f sa
  let v := if scaledOf r then v.mul (scaleNum (leNat [s.byte k, s.byte (k + 1)] % 1024)) else v
  (v, bits, ((below (max 1 (elemBits f / 8))).any fun i => s.poisoned (sa + i)) || (scaledOf r && s.poisoned k))

/-- The half-bytes of a pattern, the lowest first. -/
def nibbles (bits : Nat) : Nat → List Nat
  | 0 => []
  | n + 1 => bits % 16 :: nibbles (bits / 16) n

def pairNibbles : List (Nat × Bool) → List (Byte × Bool)
  | a :: b :: r => (BitVec.ofNat 8 (a.1 + 16 * b.1), a.2 || b.2) :: pairNibbles r
  | [a] => [(BitVec.ofNat 8 a.1, a.2)]
  | [] => []

/-- The half-bytes of a converted element; a poisoned one is not converted (11 R257). -/
def State.cvPut (s : State) (e : Nat × Nat) : List (Nat × Bool) :=
  let sa := e.2 / 2
  let f := fmtOf ((s.tile (tileOfSa sa)).bankFmt (bankOf sa))
  let (v, bits, bad) := s.cvElem e.1
  let out := if bad then s.elemAt f sa e.2 else match f with | .c4 => bits | f => convert f .rne v
  (nibbles out (elemBits f / 4)).map fun x => (x, bad)

/-- The scale halves that a converting unit sets (02 R53). -/
def State.cvScales (s : State) (es : List (Nat × Nat)) : List Nat :=
  es.foldl (fun acc e =>
    let sa := e.2 / 2
    let r := (s.tile (tileOfSa sa)).bankFmt (bankOf sa)
    let k := scaleSa (tileOfSa sa) (fmtOf r) sa
    if scaledOf r && !acc.contains k then acc ++ [k] else acc) []

/-- The bytes from the first to the last element of a unit. -/
def State.cvLen (s : State) (ps : List Nat) : Nat :=
  match ps.head?, ps.getLast? with
  | some a, some b => b / 2 + max 1 (elemBits (fmtOf ((s.tile (tileOfSa (b / 2))).bankFmt (bankOf (b / 2)))) / 8) - a / 2
  | _, _ => 0

/-- The destination SA of the first element that would be converted into C4, with fuel (11 R256). -/
def State.cvIntoC4 (s : State) : Nat → Nat → Nat → Nat → Option Nat
  | 0, _, _, _ => none
  | fuel + 1, left, ps, pd =>
    if left = 0 then none
    else
      let fm := fun (p : Nat) => fmtOf ((s.tile (tileOfSa (p / 2))).bankFmt (bankOf (p / 2)))
      if fm pd = .c4 && fm ps != .c4 then some (pd / 2)
      else s.cvIntoC4 fuel (left - 1) (ps + elemBits (fm ps) / 4) (pd + elemBits (fm pd) / 4)

/-! ### One unit -/

/-- The check of one end of a raw unit, without the bank conflict. -/
def State.endCheck (s : State) (n : Nat) (e : CopyEnd) (a len right bit : Nat) : Except Flt Unit :=
  match e with
  | .va => s.checkOnly (s.issuer n) true a len right
  | .sa => s.checkOnly (s.issuer n) false a len right
  | .far => (s.checkWindow n (s.issuer n).tenant a [(a % 2 ^ 40, len)] bit).map fun _ => ()
  | .pattern _ => .ok ()

def State.endBank (s : State) (e : CopyEnd) (a len : Nat) : Except Flt Unit :=
  match e with
  | .sa => s.checkBank a len
  | _ => .ok ()

/-- The source bytes of a raw unit at offset o of its row. -/
def State.endRead (s : State) (n : Nat) (e : CopyEnd) (j : CopyJob) (rs : List FabReq) (o a len : Nat) :
    State × List (Byte × Bool) :=
  let ctx := (s.slot n).y.ctx.toNat
  match e with
  | .pattern v => (s, (below len).map fun b => (BitVec.ofNat 8 (v.toNat / 256 ^ ((o + b) % 8)), false))
  | .far => (s.takeReqs n j.entry.seq, farRead rs (winOf a) (a % 2 ^ 40) len)
  | .va =>
    let ks := s.keysAt true a len
    let vas := (below len).map (a + ·)
    let s := s.reportPoison ctx ks
    ((s.heatAll vas).fillStream n 2 vas, s.copyRead j ks)
  | .sa =>
    let ks := s.keysAt false a len
    let s := s.reportPoison ctx ks
    (s, s.copyRead j ks)

/-- Write a raw unit; a far destination is performed when it is acknowledged. -/
def State.endWrite (s : State) (n : Nat) (e : CopyEnd) (j : CopyJob) (d u : Nat) (bs : List (Byte × Bool)) : State × CopyJob :=
  let on := fun (c : State × CopyJob) => (c.1, { c.2 with unit := u + 1 })
  match e with
  | .far =>
    (s.requestWrites n (.copy j.entry.seq) (winOf d) (((below bs.length).zip bs).map fun c => (d % 2 ^ 40 + c.1, c.2)),
      { j with err := j.err || bs.any (·.2) })
  | .va => on (s.putUnit n j true d bs)
  | _ => on (s.putUnit n j false d bs)

/-- The checks of R255 on a raw unit: source, destination, bank conflicts. -/
def State.rawChecks (s : State) (n : Nat) (p : CopyPlan) (d a len : Nat) : Except Flt Unit := do
  s.endCheck n p.src a len rR 126
  s.endCheck n p.dst d len rW 125
  s.endBank p.src a len
  s.endBank p.dst d len

/-- A raw unit: the state and job after it, a wait, or the fault of R255. Its checks are made before its first request. -/
def State.rawUnit (s : State) (n : Nat) (p : CopyPlan) (j : CopyJob) (u d0 s0 : Nat) : M (State × CopyJob) :=
  let (d, a, o, len) := rawPlace p u d0 s0
  let rs := s.copyReqs n j.entry.seq
  if rs.any fun r => !r.answered then waitM
  else if rs.any fun r => r.slot.op == .write then .ok (s.takeReqs n j.entry.seq, { j with unit := u + 1 })
  else do
    if rs.isEmpty then liftF (s.rawChecks n p d a len) else .ok ()
    if p.src = .far ∧ rs.isEmpty then
      .ok (s.requestAll n (.copy j.entry.seq) (winOf a) .read ((below len).map fun b => (a % 2 ^ 40 + b, (0#8 : Byte))), j)
    else
      let (s, bs) := s.endRead n p.src j rs o a len
      .ok (s.endWrite n p.dst j d u bs)

/-- A converting unit. -/
def State.cvUnitDo (s : State) (n : Nat) (p : CopyPlan) (j : CopyJob) (u d0 s0 : Nat) : M (State × CopyJob) := do
  let i := s.issuer n
  let es := s.cvUnit d0 s0 p.len (u % 2 ^ 40)
  let sa := ((es.map Prod.fst).headD 0) / 2
  let da := ((es.map Prod.snd).headD 0) / 2
  let sl := s.cvLen (es.map Prod.fst)
  let dl := s.cvLen (es.map Prod.snd)
  liftF (s.checkOnly i false sa sl rR)
  liftF (s.checkOnly i false da dl rW)
  liftF (s.checkBank sa sl)
  liftF (s.checkBank da dl)
  let scaleKeys := (s.cvScales (es.map fun e => (e.2, e.1))).flatMap fun a => [(a, 0), (a + 1, 0)]
  let s := s.reportPoison i.ctx (((below sl).map fun b => (sa + b, 0)) ++ scaleKeys)
  let bs := pairNibbles (es.foldl (fun acc e => acc ++ s.cvPut e) [])
  let data := ((below bs.length).zip bs).map fun c => (da + c.1, da + c.1, 0, c.2.1, c.2.2)
  let scales := (s.cvScales es).foldl (fun acc a => acc ++ [(a, a, 0, 0xFC#8, false), (a + 1, a + 1, 0, 0x01#8, false)]) []
  let (s, j) := s.copyWrite n j false (data ++ scales)
  .ok (s, { j with unit := u + 1 })

/-- Unit u of a copy by rows. -/
def State.rowUnit (s : State) (n : Nat) (p : CopyPlan) (j : CopyJob) (u : Nat) : M (State × CopyJob) :=
  let d0 := rowAt j.xd p.dstStride (u / 2 ^ 40)
  let s0 := rowAt j.xs p.srcStride (u / 2 ^ 40)
  if p.cv then s.cvUnitDo n p j u d0 s0 else s.rawUnit n p j u d0 s0

/-! ### CPYS (11 R256; 15 R340, R341) -/

/-- The coordinates of a linear index (11 R256). -/
def coordsOf (e idx : Nat) : List Nat :=
  ((below (shRank e)).reverse.foldl (fun (acc : List Nat × Nat) k =>
    ((acc.2 % shExtent e k) :: acc.1, acc.2 / shExtent e k)) (([] : List Nat), idx)).1

def extentsOf (e : Nat) : List Nat := (below (shRank e)).map (shExtent e)

/-- Where one side of a CPYS element lies: whether it is far, and its address; the first checks of its owner (09 R216, R222). -/
def State.shardPlace (s : State) (snap : List (Nat × Nat)) (side e idx esize : Nat) : Except Flt (Bool × Nat) := do
  let c := coordsOf e idx
  let (o, off) ← shardOwner (fun g => mget 0 snap (side + g)) e c esize (c.headD 0)
  let (far, a) := s.shardAddr o off
  must (decide (a % esize = 0)) fAlign (a % 2 ^ 64)
  must (decide (off < 2 ^ 40)) fBound (a % 2 ^ 64)
  .ok (far, a)

/-- The access check of one side of a CPYS element at its place. -/
def State.shardAccess (s : State) (n esize right bit : Nat) (p : Bool × Nat) : Except Flt Unit :=
  if p.1 then (s.checkWindow n (s.slot n).y.tenant.toNat p.2 [(p.2 % 2 ^ 40, esize)] bit).map fun _ => ()
  else s.checkVa (s.issuer n) p.2 esize right

/-- The elements that follow in one 64-byte span of the destination, with fuel (11 R255). -/
def State.shardRun (s : State) (snap : List (Nat × Nat)) (e esize : Nat) (at_ : Bool × Nat) : Nat → Nat → List Nat
  | 0, _ => []
  | fuel + 1, idx =>
    match s.shardPlace snap (2 ^ 21) e idx esize with
    | .ok (f, a) => if f = at_.1 && a / 64 = at_.2 / 64 then idx :: s.shardRun snap e esize at_ fuel (idx + 1) else []
    | .error _ => []

/-- The first failure of a list of checks. -/
def firstFail {α : Type} (f : α → Except Flt Unit) : List α → Except Flt Unit
  | [] => .ok ()
  | a :: r => do
    f a
    firstFail f r

/-- Every place of a list, or the first failure. -/
def placesOf (f : Nat → Except Flt (Bool × Nat)) : List Nat → Except Flt (List (Bool × Nat))
  | [] => .ok []
  | i :: r => do
    let p ← f i
    let ps ← placesOf f r
    .ok (p :: ps)

/-- The bytes of the elements of a unit, those of far sources from answered requests. -/
def State.shardRead (s : State) (n : Nat) (j : CopyJob) (rs : List FabReq) (esize : Nat) (src : List (Bool × Nat)) :
    State × List (List (Byte × Bool)) :=
  let near := (src.filter fun p => !p.1).flatMap fun p => (below esize).map (p.2 + ·)
  let s := (s.takeReqs n j.entry.seq).reportPoison (s.slot n).y.ctx.toNat (near.map s.vaKey)
  let bs := src.map fun p => if p.1 then farRead rs (winOf p.2) (p.2 % 2 ^ 40) esize else s.copyRead j (s.keysAt true p.2 esize)
  ((s.heatAll near).fillStream n 2 near, bs)

/-- The next unit of a CPYS: the elements that lie in one 64-byte span of one destination owner. All its checks are made before its
first request or write; far sources are requested first, then a far destination (11 R255, R256). -/
def State.shardUnit (s : State) (n : Nat) (sz : ESize) (f : BitVec 5) (j : CopyJob) : M (State × CopyJob) := do
  let esize := esizeBytes sz
  let idx := (j.entry.cap f).toNat + j.unit
  let left := shardCount j.instr j.entry - j.unit
  let rs := s.copyReqs n j.entry.seq
  let src1 := s.shardPlace j.snap (2 ^ 20) (mget 0 j.snap 0)
  let dst1 := s.shardPlace j.snap (2 ^ 21) (mget 0 j.snap 1)
  let _ ← liftF (src1 idx esize)
  let first ← liftF (dst1 idx esize)
  let es := idx :: s.shardRun j.snap (mget 0 j.snap 1) esize first (min (left - 1) (64 / esize - 1)) (idx + 1)
  let src ← liftF (placesOf (fun i => src1 i esize) es)
  let dst ← liftF (placesOf (fun i => dst1 i esize) es)
  let done := fun (c : State × CopyJob) => (c.1, { c.2 with unit := j.unit + es.length })
  if rs.any fun r => !r.answered then waitM
  else if rs.any fun r => r.slot.op == .write then .ok (done (s.takeReqs n j.entry.seq, j))
  else do
    if rs.isEmpty then liftF (do
      firstFail (s.shardAccess n esize rR 126) src
      firstFail (s.shardAccess n esize rW 125) dst) else .ok ()
    let far := src.filter (·.1)
    if !far.isEmpty && rs.isEmpty then
      let wins := far.foldl (fun acc p => addWin acc (winOf p.2)) []
      .ok (wins.foldl (fun s w => s.requestAll n (.copy j.entry.seq) w .read
        ((far.filter fun p => winOf p.2 = w).flatMap fun p => (below esize).map fun b => (p.2 % 2 ^ 40 + b, (0#8 : Byte)))) s, j)
    else
      let (s, bs) := s.shardRead n j rs esize src
      let cells := (dst.zip bs).flatMap fun c => ((below esize).zip c.2).map fun b => (c.1.2 + b.1, b.2)
      if first.1 then
        .ok (s.requestWrites n (.copy j.entry.seq) (winOf first.2) (cells.map fun c => (c.1 % 2 ^ 40, c.2)),
          { j with err := j.err || cells.any fun c => c.2.2 })
      else .ok (done (s.copyWrite n j true (cells.map fun c => let k := s.vaKey c.1; (c.1, k.1, k.2, c.2.1, c.2.2))))

/-! ### The journal (11 R252, R255, R257; 13 R304) -/

/-- Whether copies of a slot run now (11 R257). -/
def Slot.copiesRun (x : Slot) (j : CopyJob) : Bool :=
  j.entry.issued && !j.stopped && x.drain.isNone && !x.job.stopped && !x.job.preempted

/-! ### FILL.DISCARD (07 R186) -/

/-- Whether an access of a slot that has issued still has a byte of these banks of a tile to reach. -/
def Slot.usesBanks (x : Slot) (tile mask : Nat) : Bool :=
  let hit := fun (l : LaneAcc) => l.remote.isNone && !isHbm l.key && decide (tileOfSa l.key = tile) && natBit mask (bankOf l.key)
  (x.loads.any fun a => a.lanes.any hit) || (x.storeQ.any fun a => a.lanes.any fun l => hit l.acc)

/-- Discard a bank: its line parts are fresh; it goes to winter unless it is held (07 R186). -/
def State.discardBank (s : State) (tile b : Nat) : State :=
  let s := s.freshen (unitInBank tile b)
  s.setBankSeason tile b (if s.bankHeld tile b then 0#2 else 2#2)

/-- The one unit of FILL.DISCARD: it waits for the accesses that issued before it, then discards. -/
def State.discardUnit (s : State) (n : Nat) (j : CopyJob) (m : BitVec 5) : M (State × CopyJob) := do
  let mask := (j.entry.cap m).toNat
  let tile := tileOf n
  need (!(s.slots.any fun e => e.2.usesBanks tile mask))
  need (!(s.slots.any fun e => s.copyUses e.1 tile mask))
  need (match (s.tile tile).busy with | some b => decide (b.banks &&& mask = 0) | none => true)
  .ok (upTo 16 (fun b (s : State) => if natBit mask b then s.discardBank tile b else s) s, { j with unit := 1 })

/-! ### Events -/

/-- The next unit of a journal entry. -/
def State.nextUnit (s : State) (n : Nat) (j : CopyJob) : M (State × CopyJob) :=
  match planOf j.instr j.entry with
  | some p => s.rowUnit n p j ((s.unitOf p j).getD 0)
  | none =>
    match j.instr with
    | .cpys _ sz _ _ _ f _ _ => s.shardUnit n sz f j
    | .fillDiscard _ m _ _ => s.discardUnit n j m
    | _ => .ok (s, j)

/-- The n-th journal entry stops at a fault of its next unit (11 R255, 20 R405). -/
def State.copyStops (s : State) (n : Nat) (j : CopyJob) (f : Flt) : State :=
  let s := s.upMe fun x => { x with journal := setNth x.journal n { j with stopped := true } }
  s.raiseLate s.cur .cp f j.entry.tag

/-- COPY_UNIT: 11 R255. The next unit of the n-th journal entry is performed, or the copy stops at its fault. -/
def execCopyUnit (n : Nat) (s : State) : Res :=
  .next (match s.me.journal[n]? with
    | none => s
    | some j =>
      if j.entry.isNm || !s.me.copiesRun j || !s.copyLeft j || !s.copyClear s.cur j then s
      else
        match s.nextUnit s.cur j with
        | .error .wait => s
        | .error (.fault f) => s.copyStops n j f
        | .error (.after t f) => t.copyStops n j f
        | .ok (t, j) => t.upMe fun x => { x with journal := setNth x.journal n j })

/-- Whether the counter update of a journal entry may be made: a store of SY, it waits for the earlier stores in the scope of the
counter and for fences (08 R192, R198, R204; 11 R252). -/
def State.ctrClear (s : State) (n : Nat) (j : CopyJob) : Bool :=
  s.pushClear n (narrowest n [s.ctrHome n]) j.entry.ord && !s.fenced n j.entry.ord .store [s.ctrHome n]

/-- CP_COMPLETION: 11 R252. Everything that the n-th journal entry writes is performed: the counter changes once and the token is
visible. -/
def execCpCompletion (n : Nat) (s : State) : Res :=
  .next (match s.me.journal[n]? with
    | none => s
    | some j =>
      let whole := if j.entry.isNm then decide (j.pieces = 0) else s.me.copiesRun j && !s.copyLeft j
      if !whole || !s.ctrClear s.cur j then s
      else
        let s := s.counterAdd s.me.y.ctx.toNat (ctrOf j.instr).1 ((ctrOf j.instr).2 : Nat) j.err
        s.upMe fun x => { x with journal := dropNth x.journal n }.showFor j.entry)

/-- A CP command enters the journal (13 R298, R304; 16 R355). -/
def State.journalled (s : State) (i : Instr) (en : Entry) (xd xs : Word) (snap : List (Nat × Nat)) (pieces : Nat) : Done :=
  let j : CopyJob := {
    instr := i, entry := { en with issued := true }, xd := xd, xs := xs, unit := 0, stopped := false, pieces := pieces,
    err := false, snap := snap, phase := s.phaseAt s.cur en.ord }
  { s := (s.nameCounter s.cur (ctrOf i).1).upMe fun x => { x with journal := x.journal ++ [j] }, token := false }

/-- A captured length or count (11 R254). -/
def lengthOk (v : Word) : M Unit := liftF (must (decide (v.toNat < 2 ^ 40)) fBound v.toNat)

/-- ALIGN and the C4 rules of a converting copy (11 R254, R256). -/
def State.cvChecks (s : State) (xd xs : Word) (n : Nat) : M Unit := do
  let fm := fun (a : Nat) => fmtOf ((s.tile (tileOfSa a)).bankFmt (bankOf a))
  let end_ := fun (a : Nat) => do
    liftF (must (decide (a < 2 ^ 31) && decide (a / 2 ^ 22 % 64 < 48)) fBound a)
    liftF (must (decide (a % max 1 (elemBits (fm a) / 8) = 0) && (fm a != .c4 || decide (n % 2 = 0))) fAlign a)
  if n = 0 then .ok ()
  else do
    end_ xs.toNat
    end_ xd.toNat
    match s.cvIntoC4 (min n (2 ^ 23)) n (2 * xs.toNat) (2 * xd.toNat) with
    | some sa => faultM fBank (bankInfo sa 2)
    | none => .ok ()

/-- CPY: 11 R253 to R257. -/
def execCpy (k : Ctl) (dv cv sv : Bool) (d a n : BitVec 5) (id : BitVec 8) (inc : BitVec 4) (s : State) : Res :=
  s.runCmd .cp k fun s en => do
    lengthOk (en.cap n)
    let xd := s.me.getX 2#2 d
    let xs := s.me.getX 2#2 a
    if cv then s.cvChecks xd xs (en.cap n).toNat else .ok ()
    .ok (s.journalled (.cpy k dv cv sv d a n id inc) en xd xs [] 0)

/-- CPY2: 11 R253 to R257. -/
def execCpy2 (k : Ctl) (dv cv sv : Bool) (d a n m : BitVec 5) (id : BitVec 8) (inc : BitVec 4) (s : State) : Res :=
  s.runCmd .cp k fun s en => do
    let xd := s.me.getX 2#2 d
    let xs := s.me.getX 2#2 a
    let c := fun (r : BitVec 5) => (en.cap r).toNat
    if cv then
      (below (c n / 2 ^ 32)).foldl (fun (r : M Unit) i => do
        r
        s.cvChecks (BitVec.ofNat 64 (rowAt xd (c m / 2 ^ 32) i)) (BitVec.ofNat 64 (rowAt xs (c m % 2 ^ 32) i)) (c n % 2 ^ 32)) (.ok ())
    else .ok ()
    .ok (s.journalled (.cpy2 k dv cv sv d a n m id inc) en xd xs [] 0)

/-- The entries and owners that a CPYS works on (15 R341). -/
def State.shardSnap (s : State) (es ed : Nat) : List (Nat × Nat) :=
  let owners := fun (base e : Nat) => (below (natBits e 372 360)).map fun g => (base + g, s.see 0x07 (shOwners e + g))
  [(0, es), (1, ed)] ++ owners (2 ^ 20) es ++ owners (2 ^ 21) ed

/-- CPYS: 11 R256, 15 R340, R341. -/
def execCpys (k : Ctl) (sz : ESize) (d a n f : BitVec 5) (id : BitVec 8) (inc : BitVec 4) (s : State) : Res :=
  s.runCmd .cp k fun s en => do
    lengthOk (en.cap n)
    need (!s.scHolds s.cur en.ord)
    let xd := s.me.getX 2#2 d
    let xs := s.me.getX 2#2 a
    let i := s.issuer s.cur
    let open_ := (Config.openWord s.freeCtr).toNat
    let es ← liftF (s.shardEntry i xs.toNat open_)
    let ed ← liftF (s.shardEntry i xd.toNat open_)
    let s := (s.fillShard s.cur xs.toNat).fillShard s.cur xd.toNat
    let total := (extentsOf es).foldl (· * ·) 1
    let first := (en.cap f).toNat
    let c0 := fun (j : Nat) => j / max 1 (total / max 1 (shExtent es 0))
    liftF (must (decide (shRank es = shRank ed) && decide (extentsOf es = extentsOf ed)) fShard (c0 first))
    liftF (must (decide (first + (en.cap n).toNat ≤ total)) fShard (c0 (max first total)))
    .ok (s.journalled (.cpys k sz d a n f id inc) en xd xs (s.shardSnap es ed) 0)

/-- CPYF: 11 R256, 09 R221. -/
def execCpyf (k : Ctl) (fs dv sv : Bool) (d a n : BitVec 5) (id : BitVec 8) (inc : BitVec 4) (s : State) : Res :=
  s.runCmd .cp k fun s en => do
    lengthOk (en.cap n)
    .ok (s.journalled (.cpyf k fs dv sv d a n id inc) en (s.me.getX 2#2 d) (s.me.getX 2#2 a) [] 0)

/-- FILL: 11 R256. -/
def execFill (k : Ctl) (dv : Bool) (d n v : BitVec 5) (id : BitVec 8) (inc : BitVec 4) (s : State) : Res :=
  s.runCmd .cp k fun s en => do
    lengthOk (en.cap n)
    .ok (s.journalled (.fill k dv d n v id inc) en (s.me.getX 2#2 d) 0#64 [] 0)

/-- FILL.DISCARD: 07 R186, 11 R256. The discard is its one unit; the command completes as any copy does. -/
def execFillDiscard (k : Ctl) (m : BitVec 5) (id : BitVec 8) (inc : BitVec 4) (s : State) : Res :=
  s.runCmd .cp k fun s en => do
    let mask := (en.cap m).toNat
    liftF (must (decide (mask < 2 ^ 16)) fIllegal 0)
    let tile := tileOf s.cur
    let mine := fun (g : Nat) => s.admits (s.issuer s.cur) (saTile tile * 2 ^ 22 + g * 2 ^ 16)
    match (below 64).find? fun g => natBits mask (g / 16 * 4 + 3) (g / 16 * 4) != 0 && !mine g with
    | some g => faultM fOwner (saTile tile * 2 ^ 22 + g * 2 ^ 16)
    | none => .ok (s.journalled (.fillDiscard k m id inc) en 0#64 0#64 [] 0)

end Sys2Proof.Machine
end

