-- ==== Sys2Proof/Machine/NearMem.lean ====
section
/-! DEFINITION. Near-memory commands (11 R258 to R265): their issue, their pieces at the base dies (12 R286, R292), and the
messages that end them. -/
namespace Sys2Proof.Machine

/-! ### Issue (11 R258, R259) -/

/-- ALIGN, the count, then R179 with right N over each range (11 R258). -/
def State.nmCheck (s : State) (ranges : List (Word × Nat)) (count : Word) : Except Flt Unit := do
  match ranges.find? fun r => r.1.toNat % 4 ≠ 0 with
  | some r => .error ⟨fAlign, r.1.toNat⟩
  | none => .ok ()
  must (decide (count.toNat < 2 ^ 32)) fBound count.toNat
  ranges.foldl (fun (a : Except Flt Unit) r => do
    a
    s.checkVa (s.issuer s.cur) r.1.toNat r.2 rN) (.ok ())

/-- The pieces of n elements from byte o of the ranges on: contiguous in one granule on each side, at most 16,384 elements
(12 R286), with fuel. -/
def State.nmPieces (s : State) (base : NmPiece) (dst : Nat) (src : Option Nat) (len : Nat) : Nat → Nat → List NmPiece
  | 0, _ => []
  | fuel + 1, o =>
    if len ≤ o then []
    else
      let room := fun (va : Nat) => let g := bufGran (s.see 0x00 (vaIndex va)); g - vaOffset (va + o) % g
      let step := min (min (len - o) 65536) (min (room dst) (match src with | some v => room v | none => 65536))
      let (kd, kid) := s.vaKey (dst + o)
      let (ks, skid) := match src with
        | some v => s.vaKey (v + o)
        | none => (hbmBase, 0)
      { base with
        stack := stackOf kd, addr := stackAddr kd, kid := kid, sstack := stackOf ks, saddr := stackAddr ks, skid := skid,
        n := step / 4 } :: s.nmPieces base dst src len fuel (o + step)

/-- A piece before its place is known. -/
def nmBase (s : State) (en : Entry) (op : Nat) (a lam : W32) : NmPiece :=
  { slot := s.cur, seq := en.seq, op := op, stack := 0, addr := 0, kid := 0, sstack := 0, saddr := 0, skid := 0, a := a,
    lam := lam, n := 0, done := false, err := false, ord := en.ord }

/-- The element count of the pieces that lie in the region of a piece. -/
def regionCount (ps : List NmPiece) (p : NmPiece) : Nat :=
  sumOf ((ps.filter fun q => decide (q.stack = p.stack) && decide (q.addr / 2 ^ 21 = p.addr / 2 ^ 21)).map (·.n))

/-- The pieces of a fill with zero that lie in a region wholly within its range: they make it fresh in place of writing it (11 R264). -/
def wholeRegions (ps : List NmPiece) : List NmPiece := ps.map fun p => { p with whole := decide (regionCount ps p = 2 ^ 19) }

/-- NMFENCE stands in the journal (11 R263). -/
def CopyJob.isFence (j : CopyJob) : Bool :=
  match j.instr with
  | .nmfence _ _ _ => true
  | _ => false

/-- Start a near-memory command once nothing holds it (11 R258, R263, R265). -/
def State.nmStart (s : State) (en : Entry) (i : Instr) (xd xs : Word) (ranges : List (Word × Nat)) (count : Word)
    (pieces : State → List NmPiece) : M Done := do
  need (s.me.journal.all fun j => !j.isFence)
  let homes := ranges.foldl (fun acc r => acc ++ s.rangeHomes true r.1.toNat r.2) []
  need (s.clearFor s.cur en.ord .nm homes)
  liftF (s.nmCheck ranges count)
  let ps := pieces s
  let d := s.journalled i en xd xs [] ps.length
  .ok { d with s := { d.s with pieces := d.s.pieces ++ ps } }

/-- An element-wise command over dst, and src where it has one. -/
def State.nmMap (s : State) (en : Entry) (i : Instr) (op : Nat) (dst : BitVec 5) (src : Option (BitVec 5)) (sc : Word)
    (count : Word) : M Done :=
  let xd := s.me.getX 2#2 dst
  let xs := src.map fun r => s.me.getX 2#2 r
  let len := count.toNat * 4
  s.nmStart en i xd (xs.getD 0#64) ((xd, len) :: (match xs with | some v => [(v, len)] | none => [])) count fun s =>
    s.nmPieces (nmBase s en op (sc.setWidth 32) ((sc >>> 32).setWidth 32)) xd.toNat (xs.map (·.toNat)) len (len / 128 + 4) 0

/-- NMAXPY: 11 R260. -/
def execNmaxpy (k : Ctl) (y x a n : BitVec 5) (id : BitVec 8) (inc : BitVec 4) (s : State) : Res :=
  s.runCmd .cp k fun s en => s.nmMap en (.nmaxpy k y x a n id inc) 0 y (some x) (en.cap a) (en.cap n)

/-- NMSCALE: 11 R260. -/
def execNmscale (k : Ctl) (y a n : BitVec 5) (id : BitVec 8) (inc : BitVec 4) (s : State) : Res :=
  s.runCmd .cp k fun s en => s.nmMap en (.nmscale k y a n id inc) 1 y none (en.cap a) (en.cap n)

/-- NMFADE: 11 R260. -/
def execNmfade (k : Ctl) (w g p n : BitVec 5) (id : BitVec 8) (inc : BitVec 4) (s : State) : Res :=
  s.runCmd .cp k fun s en => s.nmMap en (.nmfade k w g p n id inc) 2 w (some g) (en.cap p) (en.cap n)

/-- NMFILL: 11 R260, R264. -/
def execNmfill (k : Ctl) (y v n : BitVec 5) (id : BitVec 8) (inc : BitVec 4) (s : State) : Res :=
  s.runCmd .cp k fun s en => do
    let xd := s.me.getX 2#2 y
    let len := (en.cap n).toNat * 4
    let w : W32 := (en.cap v).setWidth 32
    s.nmStart en (.nmfill k y v n id inc) xd 0#64 [(xd, len)] (en.cap n) fun s =>
      let ps := s.nmPieces (nmBase s en 4 w 0#32) xd.toNat none len (len / 128 + 4) 0
      if w = 0#32 then wholeRegions ps else ps

/-- NMCHK: 11 R262. -/
def execNmchk (k : Ctl) (y n : BitVec 5) (id : BitVec 8) (inc : BitVec 4) (s : State) : Res :=
  s.runCmd .cp k fun s en => s.nmMap en (.nmchk k y n id inc) 5 y none 0#64 (en.cap n)

/-- NMSUM: 11 R261. The base die of the result waits for one partial sum of each part. -/
def execNmsum (k : Ctl) (r x n : BitVec 5) (id : BitVec 8) (inc : BitVec 4) (s : State) : Res :=
  s.runCmd .cp k fun s en => do
    let xr := s.me.getX 2#2 r
    let xs := s.me.getX 2#2 x
    let len := (en.cap n).toNat * 4
    let d ← s.nmStart en (.nmsum k r x n id inc) xr xs [(xr, 4), (xs, len)] (en.cap n) fun s =>
      s.nmPieces (nmBase s en 3 0#32 0#32) xs.toNat none len (len / 128 + 4) 0
    let (kd, kid) := s.vaKey xr.toNat
    let parts := (d.s.pieces.filter fun p => decide (p.slot = s.cur) && decide (p.seq = en.seq) && decide (p.op = 3)).length
    let zero : NmPartial := ⟨s.cur, en.seq, stackOf kd, 0, false, false, false, decide (parts ≠ 0), false⟩
    let sum : NmSum := { slot := s.cur, seq := en.seq, ord := en.ord, stack := stackOf kd, addr := stackAddr kd, kid := kid, left := max 1 parts, acc := zero }
    let t := { d.s with
      sums := d.s.sums ++ [sum]
      partials := if parts = 0 then d.s.partials ++ [zero] else d.s.partials }
    let t := t.upMe fun y => { y with journal := y.journal.map fun j =>
      if j.entry.seq = en.seq then { j with pieces := j.pieces + 1 } else j }
    .ok { d with s := t }

/-- NMFENCE: 11 R263. -/
def execNmfence (k : Ctl) (id : BitVec 8) (inc : BitVec 4) (s : State) : Res :=
  s.runCmd .cp k fun s en => do
    need (s.me.journal.all fun j => !j.entry.isNm)
    .ok (s.journalled (.nmfence k id inc) en 0#64 0#64 [] 0)

/-! ### At the base dies -/

/-- The key of element i of a piece, and of its source. -/
def NmPiece.key (p : NmPiece) (i : Nat) : Nat := hbmKey p.stack (p.addr + 4 * i)
def NmPiece.srcKey (p : NmPiece) (i : Nat) : Nat := hbmKey p.sstack (p.saddr + 4 * i)

def keys4 (k kid : Nat) : List (Nat × Nat) := (below 4).map fun j => (k + j, kid)

/-- An FP32 element that base die `o` reads, and whether its sector is uncorrectable. -/
def State.nmRead (s : State) (o : Origin) (k kid : Nat) : Num × Bool :=
  let bs := (keys4 k kid).map fun c => s.readKeyFrom o c.2 c.1
  (f32Fmt.decode (leNat (bs.map Prod.fst)), bs.any Prod.snd)

/-- The exact value of an element update (11 R260). -/
def nmValue (op : Nat) (a lam : W32) (y x : Num) : Num :=
  let s := f32Fmt.decode a.toNat
  match op with
  | 0 => (s.mul x).add false y
  | 1 => s.mul y
  | _ => (y.add false (s.mul x).neg).add false ((s.mul (f32Fmt.decode lam.toNat)).mul y).neg

/-- Whether an operation reads its source. -/
def nmHasSrc (op : Nat) : Bool := op == 0 || op == 2

/-- Whether a piece covers the sector of an element whole. -/
def NmPiece.covers (p : NmPiece) (k : Nat) : Bool :=
  decide (p.key 0 ≤ k / 32 * 32) && decide (k / 32 * 32 + 32 ≤ p.key p.n)

/-- Whether a piece reads the sector of its element i: NMFILL only one that it covers in part (11 R264). -/
def NmPiece.reads (p : NmPiece) (i : Nat) : Bool := p.op != 4 || !p.covers (p.key i)

/-- The base die at which a piece is carried out, for which it fetches its sources over the stack ring (12 R286). -/
def NmPiece.origin (p : NmPiece) : Origin := .base p.stack

/-- What a piece reads: the elements of its sectors, and its sources. -/
def NmPiece.readKeys (p : NmPiece) : List (Nat × Nat) :=
  ((below p.n).filter p.reads).flatMap (fun i => keys4 (p.key i) p.kid) ++
    (if nmHasSrc p.op then (below p.n).flatMap fun i => keys4 (p.srcKey i) p.skid else [])

/-- The elements of a piece. -/
def NmPiece.dstKeys (p : NmPiece) : List (Nat × Nat) := (below p.n).flatMap fun i => keys4 (p.key i) p.kid

/-- Whether the update of element i meets an uncorrectable error, or is not served (11 R264; 12 R274). -/
def State.nmBad (s : State) (p : NmPiece) (i : Nat) : Bool :=
  (s.unserved p.origin p.kid (p.key i)).isSome || (p.reads i && (s.nmRead p.origin (p.key i) p.kid).2) ||
    (nmHasSrc p.op && (s.nmRead p.origin (p.srcKey i) p.skid).2)

/-- The destination sectors whose updates are not performed, each by the key of its first byte (11 R264). -/
def State.nmLost (s : State) (p : NmPiece) : List Nat :=
  ((firstOf (· / 32) (((below p.n).filter (s.nmBad p)).map fun i => (p.key i, 0))).map Prod.fst).map fun k => k / 32 * 32

/-- NMCHK corrects a sector in place, and the correction is counted when it is read (11 R262). -/
def State.correctSector (s : State) (k : Nat) : State :=
  if s.upset k = 1 then { s with upsets := mput s.upsets (poisonUnit k) 0 } else s

/-- The new pattern of element i (11 R260). -/
def State.nmPattern (s : State) (p : NmPiece) (i : Nat) : Nat :=
  if p.op = 4 then p.a.toNat
  else f32Fmt.round .rne (nmValue p.op p.a p.lam (s.nmRead p.origin (p.key i) p.kid).1 (s.nmRead p.origin (p.srcKey i) p.skid).1)

/-- A piece reaches the units that it names: regions wake, and what it reads is met (07 R185; 12 R277, R278). -/
def State.nmReach (s : State) (p : NmPiece) : State :=
  (s.touchAllFrom p.origin (s.slot p.slot).y.ctx.toNat (p.readKeys ++ p.dstKeys)).noteReadsFrom p.origin p.readKeys

/-- The sectors that were lost are marked, where the stack serves them. -/
def State.markLost (s : State) (p : NmPiece) (lost : List Nat) : State :=
  lost.foldl (fun s k => if (s.unserved p.origin p.kid k).isNone then s.markPoison k else s) s

/-- Apply a piece at its base die (11 R260, R262, R264): the state, and whether a sector was lost. Every element is computed from what
the piece finds (log 74). -/
def State.nmApply (s : State) (p : NmPiece) : State × Bool :=
  let s := s.nmReach p
  let lost := s.nmLost p
  if p.op = 5 then
    let s := (p.dstKeys.foldl (fun s k => s.correctSector k.1) s).markLost p lost
    (s, !lost.isEmpty)
  else
    let go := (below p.n).filter fun i => !p.reads i || !lost.contains (p.key i / 32 * 32)
    let cells := go.flatMap fun i => (keys4 (p.key i) p.kid).zip (leBytes 4 (s.nmPattern p i))
    ((s.writeAllFrom p.origin cells).markLost p lost, !lost.isEmpty)

/-- A piece of a region that is made fresh: with the last of them the region's FRESH is set (11 R264; 12 R282). What the stack does not
serve is not made fresh, and sets ERR (12 R274, R280). -/
def State.nmFresh (s : State) (n : Nat) (p : NmPiece) : State × Bool :=
  let s := s.touchAllFrom p.origin (s.slot p.slot).y.ctx.toNat p.dstKeys
  let s := (hbmUnits p.dstKeys).foldl (fun s u => if (s.unserved p.origin u.2 u.1).isSome then s.noteRequest p.origin none u.2 u.1 else s) s
  let bad := p.dstKeys.any fun k => (s.unserved p.origin k.2 k.1).isSome
  let other := ((below s.pieces.length).zip s.pieces).any fun q =>
    decide (q.1 ≠ n) && decide (q.2.slot = p.slot) && decide (q.2.seq = p.seq) && q.2.whole && !q.2.done &&
      decide (regionIdx (q.2.key 0) = regionIdx (p.key 0))
  if other || s.unserved p.origin p.kid (p.key 0) = some false then (s, bad)
  else (s.mapUpdate 4 (regionIdx (p.key 0)), bad)

/-- A sum joined with another: exact, in units of 2^-149 (11 R261). -/
def NmPartial.join (a b : NmPartial) : NmPartial :=
  { a with
    sum := a.sum + b.sum, nan := a.nan || b.nan, pinf := a.pinf || b.pinf, ninf := a.ninf || b.ninf, negz := a.negz && b.negz,
    poison := a.poison || b.poison }

/-- The partial sum of one element (11 R261; 12 R292). -/
def NmPartial.ofNum (p : NmPiece) (v : Num) (bad : Bool) : NmPartial :=
  match v with
  | .nan => ⟨p.slot, p.seq, p.stack, 0, true, false, false, false, bad⟩
  | .inf n => ⟨p.slot, p.seq, p.stack, 0, false, !n, n, false, bad⟩
  | .fin n m e => ⟨p.slot, p.seq, p.stack, scaled n m e (-149), false, false, false, n && decide (m = 0), bad⟩

/-- The exact partial sum of a piece (11 R261; 12 R292). -/
def State.nmPartial (s : State) (p : NmPiece) : NmPartial :=
  (below p.n).foldl (fun a i =>
    let (v, bad) := s.nmRead p.origin (p.key i) p.kid
    if bad then { a with poison := true } else a.join (.ofNum p v bad)) ⟨p.slot, p.seq, p.stack, 0, false, false, false, true, false⟩

/-- The FP32 result of a whole sum (11 R261). -/
def NmPartial.result (a : NmPartial) : Nat :=
  f32Fmt.round .rne (
    if a.nan || (a.pinf && a.ninf) then .nan
    else if a.pinf then .inf false
    else if a.ninf then .inf true
    else if a.sum = 0 then .fin a.negz 0 0
    else .fin (decide (a.sum < 0)) a.sum.natAbs (-149))

/-! ### Order of the near-memory commands of a slot (08 R210; 11 R265) -/

/-- Whether a piece names the element at a key. -/
def NmPiece.names (p : NmPiece) (k : Nat) : Bool := decide (p.key 0 ≤ k) && decide (k < p.key p.n)

/-- The key of the result of a sum. -/
def NmSum.key (q : NmSum) : Nat := hbmKey q.stack q.addr

/-- Whether an earlier command of the slot has still to update the element at `k`, which a command at position `o` names. -/
def State.nmAhead (s : State) (slot o : Nat) (names : Nat → Bool) : Bool :=
  s.sums.any fun q => decide (q.slot = slot) && decide (q.ord < o) && names q.key

/-- Whether an earlier piece of the slot, still to be carried out, names the element at `k`. -/
def State.piecesAhead (s : State) (slot o k : Nat) : Bool :=
  s.pieces.any fun p => !p.done && decide (p.slot = slot) && decide (p.ord < o) && p.names k

/-- Whether base die `stack` holds the microcode of an engine slot, which a command may name; slot 7 is reserved, and no command of the
memory port names slots 8 to 15 (12 R286). -/
def State.nmHolds (s : State) (stack op : Nat) : Bool := decide (op < 7) && (s.stack stack).nmSlots.getLsbD op

/-- A piece is carried out at its base die: the state, whether it sets ERR. One that finds no path, or whose engine slot holds no
microcode, does nothing but set ERR (12 R285, R286). -/
def State.nmPerform (s : State) (n : Nat) (p : NmPiece) : State × Bool :=
  if !s.nmHolds p.stack p.op then (s, true)
  else if (s.routeTo (.die (dieOf p.slot)) p.stack).isNone then (s.reportTo p.kid (p.key 0), true)
  else if p.whole then s.nmFresh n p
  else if p.op = 3 then
    let s := s.nmReach p
    let part := s.nmPartial p
    ({ s with partials := s.partials ++ [part] }, part.poison)
  else s.nmApply p

/-- A part of an NMSUM that sets ERR without a sum gives a poisoned one. -/
def State.nmLostPart (s : State) (p : NmPiece) (t : State) : State :=
  if p.op = 3 && decide (t.partials.length = s.partials.length) then
    { t with partials := t.partials ++ [⟨p.slot, p.seq, p.stack, 0, false, false, false, true, true⟩] }
  else t

/-- NM_COMMAND: 11 R259 to R265, 12 R286. The n-th piece reaches its base die. Pieces of one die to one stack arrive in order (12
R270), and one waits for the result of an earlier NMSUM of its slot that it names. -/
def execNmCommand (n : Nat) (s : State) : Res :=
  .next (match s.pieces[n]? with
    | none => s
    | some p =>
      let ahead := (s.pieces.take n).any fun q => !q.done && decide (dieOf q.slot = dieOf p.slot) && decide (q.stack = p.stack)
      if p.done || ahead || s.nmAhead p.slot p.ord p.names then s
      else
        let (t, err) := s.nmPerform n p
        let t := s.nmLostPart p t
        { t with pieces := setNth t.pieces n { p with done := true, err := err } })

/-- One of the things that a journal entry waits for is done. -/
def State.nmDoneOne (s : State) (slot : Nat) (seq : W32) (err : Bool) : State :=
  let f := fun (j : CopyJob) =>
    if j.entry.isNm && decide (j.entry.seq = seq) then { j with pieces := j.pieces - 1, err := j.err || err } else j
  s.upSlot slot fun x => { x with journal := x.journal.map f }

/-- NM_STATUS: 12 R286, R291. The status of the n-th piece returns. -/
def execNmStatus (n : Nat) (s : State) : Res :=
  .next (match s.pieces[n]? with
    | none => s
    | some p =>
      let t := { s with pieces := dropNth s.pieces n }
      if p.done then t.nmDoneOne p.slot p.seq p.err else s)

/-- The result of a sum is written at its base die, marked where a source sector was uncorrectable (11 R261). -/
def State.nmResult (s : State) (q : NmSum) (acc : NmPartial) : State :=
  let o := Origin.base q.stack
  let s := s.touchAllFrom o (s.slot q.slot).y.ctx.toNat (keys4 q.key q.kid)
  let lost := (s.unserved o q.kid q.key).isSome
  let s := s.writeAllFrom o ((keys4 q.key q.kid).zip (leBytes 4 acc.result))
  let s := if acc.poison && !lost then s.markPoison q.key else s
  s.nmDoneOne q.slot q.seq (acc.poison || lost)

/-- NMSUM_PARTIAL_COMBINE: 11 R261; 12 R286. The n-th partial sum reaches the base die of the result over the stack ring; with the last
one, and once the earlier commands of the slot have carried out what they do to that element, the result is written (11 R265). -/
def execNmsumPartialCombine (n : Nat) (s : State) : Res :=
  .next (match s.partials[n]? with
    | none => s
    | some a =>
      match firstIdx (fun (q : NmSum) => decide (q.slot = a.slot) && decide (q.seq = a.seq)) s.sums with
      | none => s
      | some i =>
        match s.sums[i]? with
        | none => s
        | some q =>
          let lost := (s.ringRoute a.stack q.stack).isNone || !s.nmHolds q.stack 6
          let acc := q.acc.join { a with poison := a.poison || lost }
          if 1 < q.left then { s with partials := dropNth s.partials n, sums := setNth s.sums i { q with left := q.left - 1, acc := acc } }
          else if s.piecesAhead q.slot q.ord q.key || s.nmAhead q.slot q.ord (fun k => decide (k = q.key)) then s
          else { s with partials := dropNth s.partials n, sums := dropNth s.sums i }.nmResult q acc)

end Sys2Proof.Machine
end

