-- ==== Sys2Proof/Machine/Control.lean ====
section
/-! DEFINITION. The meanings of the control-core instructions (05), system registers (04 R105 to R110), templates (03 R89) and
the faults of words that do not execute (03 R90, 05 R127). -/
namespace Sys2Proof.Machine

/-! ### Integer operations (05 R113 to R116) -/

def divOp (a b : Word) : Word :=
  if b = 0#64 then BitVec.allOnes 64 else BitVec.ofInt 64 (a.toInt.tdiv b.toInt)
def remOp (a b : Word) : Word := if b = 0#64 then a else BitVec.ofInt 64 (a.toInt.tmod b.toInt)
def divnOp (a b : Word) : Word := if b = 0#64 then BitVec.allOnes 64 else BitVec.ofNat 64 (a.toNat / b.toNat)
def remnOp (a b : Word) : Word := if b = 0#64 then a else BitVec.ofNat 64 (a.toNat % b.toNat)
def shlOp64 (a : Word) (n : Nat) : Word := if 64 ≤ n then 0#64 else a <<< n
def shrOp64 (a : Word) (n : Nat) : Word := if 64 ≤ n then 0#64 else a >>> n
def shaOp64 (a : Word) (n : Nat) : Word :=
  if 64 ≤ n then (if a.getLsbD 63 then BitVec.allOnes 64 else 0#64) else a.sshiftRight n
def clzOp (a : Word) : Word := if a = 0#64 then 64#64 else BitVec.ofNat 64 (63 - Nat.log2 a.toNat)
def ctzOp (a : Word) : Word := if a = 0#64 then 64#64 else BitVec.ofNat 64 (nthSetBit 64 a.toNat 0 0)
def bswapOp (a : Word) : Word := BitVec.ofNat 64 (leNat (leBytes 8 a.toNat).reverse)

/-- `MNEMONIC Sd, Sa, Sb` (05 R113). -/
def alu (d a b : BitVec 5) (f : Word → Word → Word) (s : State) : Res :=
  s.direct [d, a, b] [] fun x => x.setS d (f (x.getS a) (x.getS b))

/-- `MNEMONIC Sd, Sa`, or with an immediate (05 R113, R116). -/
def alu1 (d a : BitVec 5) (f : Word → Word) (s : State) : Res :=
  s.direct [d, a] [] fun x => x.setS d (f (x.getS a))

/-- ADD: 05 R113. -/
def execAdd (d a b : BitVec 5) (s : State) : Res :=
  alu d a b (· + ·) s

/-- SUB: 05 R113. -/
def execSub (d a b : BitVec 5) (s : State) : Res :=
  alu d a b (· - ·) s

/-- MUL: 05 R113. -/
def execMul (d a b : BitVec 5) (s : State) : Res :=
  alu d a b (· * ·) s

/-- MULH: 05 R113. -/
def execMulh (d a b : BitVec 5) (s : State) : Res :=
  alu d a b (fun x y => BitVec.ofInt 64 (x.toInt * y.toInt / 2 ^ 64)) s

/-- MULHN: 05 R113. -/
def execMulhn (d a b : BitVec 5) (s : State) : Res :=
  alu d a b (fun x y => BitVec.ofNat 64 (x.toNat * y.toNat / 2 ^ 64)) s

/-- DIV: 05 R114. -/
def execDiv (d a b : BitVec 5) (s : State) : Res :=
  alu d a b divOp s

/-- DIVN: 05 R114. -/
def execDivn (d a b : BitVec 5) (s : State) : Res :=
  alu d a b divnOp s

/-- REM: 05 R114. -/
def execRem (d a b : BitVec 5) (s : State) : Res :=
  alu d a b remOp s

/-- REMN: 05 R114. -/
def execRemn (d a b : BitVec 5) (s : State) : Res :=
  alu d a b remnOp s

/-- AND: 05 R113. -/
def execAnd (d a b : BitVec 5) (s : State) : Res :=
  alu d a b (· &&& ·) s

/-- OR: 05 R113. -/
def execOr (d a b : BitVec 5) (s : State) : Res :=
  alu d a b (· ||| ·) s

/-- XOR: 05 R113. -/
def execXor (d a b : BitVec 5) (s : State) : Res :=
  alu d a b (· ^^^ ·) s

/-- SHL: 05 R115. -/
def execShl (d a b : BitVec 5) (s : State) : Res :=
  alu d a b (fun x y => shlOp64 x y.toNat) s

/-- SHR: 05 R115. -/
def execShr (d a b : BitVec 5) (s : State) : Res :=
  alu d a b (fun x y => shrOp64 x y.toNat) s

/-- SHA: 05 R115. -/
def execSha (d a b : BitVec 5) (s : State) : Res :=
  alu d a b (fun x y => shaOp64 x y.toNat) s

/-- MIN: 05 R113. -/
def execMin (d a b : BitVec 5) (s : State) : Res :=
  alu d a b (fun x y => if x.toInt ≤ y.toInt then x else y) s

/-- MAX: 05 R113. -/
def execMax (d a b : BitVec 5) (s : State) : Res :=
  alu d a b (fun x y => if x.toInt ≥ y.toInt then x else y) s

/-- MINN: 05 R113. -/
def execMinn (d a b : BitVec 5) (s : State) : Res :=
  alu d a b (fun x y => if x.toNat ≤ y.toNat then x else y) s

/-- MAXN: 05 R113. -/
def execMaxn (d a b : BitVec 5) (s : State) : Res :=
  alu d a b (fun x y => if x.toNat ≥ y.toNat then x else y) s

/-- CLZ: 05 R113. -/
def execClz (d a : BitVec 5) (s : State) : Res :=
  alu1 d a clzOp s

/-- CTZ: 05 R113. -/
def execCtz (d a : BitVec 5) (s : State) : Res :=
  alu1 d a ctzOp s

/-- POPC: 05 R113. -/
def execPopc (d a : BitVec 5) (s : State) : Res :=
  alu1 d a (fun x => BitVec.ofNat 64 (popCount 64 x.toNat)) s

/-- BSWAP: 05 R113. -/
def execBswap (d a : BitVec 5) (s : State) : Res :=
  alu1 d a bswapOp s

/-- SEL: 05 R121. -/
def execSel (n : BitVec 3) (d a b : BitVec 5) (s : State) : Res :=
  s.direct [d, a, b] [n] fun x => x.setS d (if x.getP n then x.getS a else x.getS b)

/-- CMP.cc: 05 R119. -/
def execCmp (cc : Cc) (d : BitVec 3) (a b : BitVec 5) (s : State) : Res :=
  s.direct [a, b] [d] fun x => x.setP d (ccHolds cc (x.getS a) (x.getS b))

/-- PAND: 05 R120. -/
def execPand (d a b : BitVec 3) (s : State) : Res :=
  s.direct [] [d, a, b] fun x => x.setP d (x.getP a && x.getP b)

/-- POR: 05 R120. -/
def execPor (d a b : BitVec 3) (s : State) : Res :=
  s.direct [] [d, a, b] fun x => x.setP d (x.getP a || x.getP b)

/-- PXOR: 05 R120. -/
def execPxor (d a b : BitVec 3) (s : State) : Res :=
  s.direct [] [d, a, b] fun x => x.setP d (x.getP a != x.getP b)

/-- PNOT: 05 R120. -/
def execPnot (d a : BitVec 3) (s : State) : Res :=
  s.direct [] [d, a] fun x => x.setP d (!x.getP a)

/-- BUFA: 05 R122. -/
def execBufa (d a b : BitVec 5) (s : State) : Res :=
  alu d a b (fun x y =>
    if x.toNat < 2 ^ 20 ∧ y.toNat < 2 ^ 40 then x * BitVec.ofNat 64 (2 ^ 40) + y else 0xF000000000000000#64) s

/-- BUFX: 05 R122. -/
def execBufx (d a : BitVec 5) (s : State) : Res :=
  alu1 d a (fun x => BitVec.ofNat 64 (fld x 59 40)) s

/-- BUFO: 05 R122. -/
def execBufo (d a : BitVec 5) (s : State) : Res :=
  alu1 d a (fun x => BitVec.ofNat 64 (fld x 39 0)) s

/-- ADDI: 05 R116. -/
def execAddi (d a : BitVec 5) (imm : BitVec 12) (s : State) : Res :=
  alu1 d a (fun x => x + sext64 imm) s

/-- ANDI: 05 R116. -/
def execAndi (d a : BitVec 5) (imm : BitVec 12) (s : State) : Res :=
  alu1 d a (fun x => x &&& sext64 imm) s

/-- ORI: 05 R116. -/
def execOri (d a : BitVec 5) (imm : BitVec 12) (s : State) : Res :=
  alu1 d a (fun x => x ||| sext64 imm) s

/-- XORI: 05 R116. -/
def execXori (d a : BitVec 5) (imm : BitVec 12) (s : State) : Res :=
  alu1 d a (fun x => x ^^^ sext64 imm) s

/-- SHLI: 05 R116. -/
def execShli (d a : BitVec 5) (n : BitVec 6) (s : State) : Res :=
  alu1 d a (fun x => shlOp64 x n.toNat) s

/-- SHRI: 05 R116. -/
def execShri (d a : BitVec 5) (n : BitVec 6) (s : State) : Res :=
  alu1 d a (fun x => shrOp64 x n.toNat) s

/-- SHAI: 05 R116. -/
def execShai (d a : BitVec 5) (n : BitVec 6) (s : State) : Res :=
  alu1 d a (fun x => shaOp64 x n.toNat) s

/-- CMPI.cc: 05 R119. -/
def execCmpi (cc : Cc) (d : BitVec 3) (a : BitVec 5) (imm : BitVec 12) (s : State) : Res :=
  s.direct [a] [d] fun x => x.setP d (ccHolds cc (x.getS a) (sext64 imm))

/-- LUI: 05 R117. -/
def execLui (d : BitVec 5) (imm : BitVec 19) (s : State) : Res :=
  s.direct [d] [] fun x => x.setS d (sext64 imm <<< 12)

/-- LIW: 05 R118; three words. -/
def execLiw (d : BitVec 5) (imm : Word) (s : State) : Res :=
  .next (if s.me.waits [d] [] then s else s.upMe fun x => (x.setS d imm).advance 12)

/-! ### Control flow (05 R124 to R126) -/

/-- The target of a word offset (03 R68). -/
def target (pc : Word) (off : BitVec 19) : Word := pc + (sext64 off <<< 2)

/-- J: 05 R124. -/
def execJ (off : BitVec 19) (s : State) : Res :=
  .next (s.upMe fun x => { x with pc := target x.pc off })

/-- BR: 05 R124. -/
def execBr (p : BitVec 3) (off : BitVec 19) (s : State) : Res :=
  .next (if s.me.waits [] [p] then s
    else s.upMe fun x => if x.getP p then { x with pc := target x.pc off } else x.advance 4)

/-- JAL: 05 R125. -/
def execJal (d : BitVec 5) (off : BitVec 19) (s : State) : Res :=
  .next (if s.me.waits [d] [] then s
    else s.upMe fun x => { x.setS d (x.pc + 4#64) with pc := target x.pc off })

/-- JALR: 05 R126; a target that is not a multiple of 4 raises ALIGN before anything changes. -/
def execJalr (d a : BitVec 5) (imm : BitVec 12) (s : State) : Res :=
  .next (if s.me.waits [d, a] [] then s
    else
      let t := s.me.getS a + sext64 imm
      if t.extractLsb' 0 2 ≠ 0#2 then s.raiseWord ⟨fAlign, t.toNat⟩ 0
      else s.upMe fun x => { x.setS d (x.pc + 4#64) with pc := t })

/-! ### Moves to the engine side (05 R128, R129) -/

/-- MOVX: 05 R128. -/
def execMovx (d a : BitVec 5) (imm : BitVec 12) (s : State) : Res :=
  .next (
    let x := s.me
    if x.waits [a] [] || !(x.room .ld && x.room .st && x.room .cp && x.room .mx) then s
    else s.upMe fun x =>
      let en : Entry := { cmd := .movx d (x.getS a + sext64 imm), tag := x.pc }
      ((((x.enqueue .ld en).enqueue .st en).enqueue .cp en).enqueue .mx en).advance 4)

/-- Whether a post-increment of an LD command is still to land. -/
def Slot.xLanding (x : Slot) (view : BitVec 2) : Bool :=
  x.landings.any fun l => l.results.any fun r => match r.dest with
    | .x v _ => decide (v = view)
    | .v _ => false
    | .k _ => false
    | .g _ => false

/-- MOVXS: 05 R129; it waits until LD has issued every earlier command and its post-increments have landed. In a trap handler it does
not wait for the entries that the cut set aside, which come back only with the handler's ERET (log 75). -/
def execMovxs (d a : BitVec 5) (s : State) : Res :=
  .next (if s.me.waits [d] [] || !s.me.e.ld.entries.isEmpty || s.me.xLanding 0#2 then s
    else s.upMe fun x => (x.setS d (x.getX 0#2 a)).advance 4)

/-! ### Region mode and templates (03 R83, R89) -/

/-- REGION: 03 R83; naming the current mode has no effect, another mode holds the dispatcher until the slot has drained. -/
def execRegion (scoreboard : Bool) (s : State) : Res :=
  .next (s.upMe fun x =>
    if x.y.scoreboard = scoreboard then x.advance 4 else { x.advance 4 with hold := .region scoreboard })

/-- PD imposes no wait across a REGION crossing (03 R84). -/
def Slot.forgetBounds (x : Slot) : Slot :=
  let f := fun (q : EngQ) => { q with bounds := [] }
  { x with e := { ld := f x.e.ld, st := f x.e.st, vx := f x.e.vx, mx := f x.e.mx, cp := f x.e.cp, sy := f x.e.sy } }

/-- REGION_RESUME: 03 R83. -/
def execRegionResume  (s : State) : Res :=
  .next (match s.me.hold with
    | .region b =>
      if s.me.drained then s.upMe fun x => { x.forgetBounds with hold := .free, y := { x.y with scoreboard := b } } else s
    | .free => s
    | .rndv => s
    | .arb _ _ => s)

/-- The key of entry `index` of the template table of a class (03 R89). -/
def tmplKey (cls : BitVec 3) (index : BitVec 6) : Nat := cls.toNat * 64 + index.toNat

/-- TDEF: 03 R89, 05 R131; a class of 0, 6 or 7 is ILLEGAL. -/
def execTdef (cls : BitVec 3) (index : BitVec 6) (word : BitVec 80) (s : State) : Res :=
  .next (if (classEngine cls).isNone || cls = 6#3 then s.raiseWord ⟨fIllegal, 0⟩ 7
    else s.upMe fun x => { x.advance 12 with tmpl := mput x.tmpl (tmplKey cls index) word })

/-! ### System registers (04 R105 to R109) -/

/-- The level of a slot as a number. -/
def Slot.lvl (x : Slot) : Nat := x.y.level.toNat

/-- The read level of a register, its write level (none: a write is ignored) and its instances (04 R106). -/
def sysInfo (name : BitVec 12) : Option (Nat × Option Nat × Nat) :=
  match name.toNat with
  | 0x000 | 0x001 | 0x021 | 0x022 => some (0, none, 0)
  | 0x008 | 0x009 | 0x018 | 0x019 | 0x020 | 0x030 | 0x031 | 0x032 => some (0, some 1, 0)
  | 0x00A | 0x00B | 0x033 | 0x034 => some (1, some 1, 0)
  | 0x00C | 0x00D | 0x010 | 0x011 | 0x028 => some (0, some 0, 0)
  | 0x012 => some (0, none, 32)
  | 0x040 => some (0, some 1, 8)
  | _ => none

/-- Whether the sub-function is admitted: 0, or an index below the instances (04 R105). -/
def sysIndexOk (inst : Nat) (idx : BitVec 5) : Bool := if inst = 0 then idx == 0#5 else decide (idx.toNat < inst)

/-- GUARDS as bits 0 to 7 (04 R106). -/
def Slot.guards (x : Slot) : BitVec 8 := putBit x.r.g 7 true

/-- The value of a system register (04 R106, R108). -/
def State.sysRead (s : State) (name : BitVec 12) (idx : BitVec 5) : Word :=
  let x := s.me
  let y := x.y
  let t := s.tile (tileOf s.cur)
  match name.toNat with
  | 0x000 => BitVec.ofNat 64 (b2n y.inTrap * 16 + y.prevLevel.toNat * 4 + y.level.toNat)
  | 0x001 => BitVec.ofNat 64 (b2n y.scoreboard)
  | 0x008 => BitVec.ofNat 64 (b2n t.stamped)
  | 0x009 => BitVec.ofNat 64 t.windowLen
  | 0x00A => t.seed
  | 0x00B => (s.die (dieOf s.cur)).seed
  | 0x00C => y.stampBase
  | 0x00D => y.seed
  | 0x010 => y.bwphase
  | 0x011 => BitVec.ofNat 64 y.slip
  | 0x012 => x.spillMap idx.toNat
  | 0x018 => zext64 y.iterBudget
  | 0x019 => zext64 y.redMax
  | 0x020 => y.domain
  | 0x021 => zext64 y.tenant
  | 0x022 => zext64 y.ctx
  | 0x028 => zext64 x.guards
  | 0x030 => zext64 y.cause
  | 0x031 => y.trapPc
  | 0x032 => y.trapInfo
  | 0x033 => y.cutBase
  | 0x034 => y.csaBase
  | 0x040 => mget 0#64 y.reloc idx.toNat
  | _ => 0#64

/-- WINDOW_LEN as stored: clamped, then rounded down to a power of two (01 R28). -/
def windowOf (v : Nat) : Nat := if v < 64 then 64 else if 4096 < v then 4096 else 2 ^ Nat.log2 v

/-- BWPHASE as stored (04 R108): bits 15:4 read 0, a CLASS of 4 to 15 is stored as 0. -/
def bwphaseOf (v : Word) : Word :=
  let c := fld v 3 0
  BitVec.ofNat 64 (fld v 63 16 * 2 ^ 16 + (if c < 4 then c else 0))

/-- DOMAIN as stored (04 R108, R109). -/
def domainOf (v : Word) : Word :=
  let count := fld v 55 32
  let index := fld v 23 0
  let index := if count = 0 then 0 else if index < count then index else count - 1
  BitVec.ofNat 64 (fld v 63 62 * 2 ^ 62 + count * 2 ^ 32 + index)

/-- The entries that stand, or are set aside, keep the guards they were dispatched under across a SYSW of GUARDS (04 R107). -/
def Slot.bindGuards (x : Slot) : Slot :=
  let en := fun (e : Entry) => match mfind e.caps capGuards with
    | some _ => e
    | none => { e with caps := mput e.caps capGuards (x.guards.setWidth 64) }
  let f := fun (q : EngQ) => { q with entries := q.entries.map en, aside := q.aside.map en }
  { x with e := { ld := f x.e.ld, st := f x.e.st, vx := f x.e.vx, mx := f x.e.mx, cp := f x.e.cp, sy := x.e.sy } }

/-- The effect of a SYSW on the state (04 R106, R109); the program counter does not move here. -/
def State.sysWrite (s : State) (name : BitVec 12) (idx : BitVec 5) (v : Word) : State :=
  let n := s.cur
  let t := s.tile (tileOf n)
  let d := s.die (dieOf n)
  let up := fun (f : SysRegs → SysRegs) => s.upMe fun x => { x with y := f x.y }
  match name.toNat with
  | 0x008 => s.upMe fun x => { x with hold := .arb false v }
  | 0x009 => s.upMe fun x => { x with hold := .arb true v }
  | 0x00A => s.setTile (tileOf n) { t with seed := v, drawMx := 0#56, drawVx := 0#56, drawCp := 0#56 }
  | 0x00B => s.setDie (dieOf n) { d with seed := v, draw := 0#56 }
  | 0x00C => up fun y => { y with stampBase := v }
  | 0x00D => s.upMe fun x => { x with y := { x.y with seed := v }, vrand := 0#64, draws := 0#64 }
  | 0x010 =>
    let s := s.beginHold n (bwphaseOf v)
    s.upMe fun x => { x with y := { x.y with bwphase := bwphaseOf v } }
  | 0x011 => up fun y => { y with slip := if 64 < v.toNat then 64 else v.toNat }
  | 0x018 => up fun y => { y with iterBudget := v.setWidth 32 }
  | 0x019 =>
    up fun y => if v = 0#64 then y
      else { y with redMax := BitVec.ofNat 32 (if 2 ^ 24 < v.toNat then 2 ^ 24 else v.toNat) }
  | 0x020 => up fun y => { y with domain := domainOf v }
  | 0x028 => s.upMe fun x =>
    let x := x.bindGuards
    { x with r := { x.r with g := putBit (v.setWidth 8) 7 true } }
  | 0x030 => up fun y => { y with cause := v.setWidth 32 &&& 0x0007FFFF#32 }
  | 0x031 => up fun y => { y with trapPc := v }
  | 0x032 => up fun y => { y with trapInfo := v }
  | 0x033 => up fun y => { y with cutBase := v }
  | 0x034 => up fun y => { y with csaBase := v }
  | 0x040 => up fun y => { y with reloc := mput y.reloc idx.toNat v }
  | _ => s

/-- Whether an MX write of the register is outstanding: MSTAT for GUARDS, MPARK and MUNPARK for SPILL_MAP (05 R132). -/
def Slot.sysBusy (x : Slot) (name : BitVec 12) (idx : BitVec 5) : Bool :=
  let mx := x.e.mx.entries ++ x.e.mx.aside
  if name = 0x028#12 then
    (mx.any fun e => e.isEng && e.opc == 8) ||
    (x.landings.any fun l => l.eng == .mx && l.results.any fun r => match r.dest with
      | .g _ => true
      | .v _ => false
      | .k _ => false
      | .x _ _ => false)
  else if name = 0x012#12 then
    mx.any fun e => e.isEng && (e.opc == 9 || e.opc == 10) && decide (fld e.word 4 0 = idx.toNat)
  else false

/-- SYSR: 04 R105 to R108, 05 R132. -/
def execSysr (d : BitVec 5) (name : BitVec 12) (idx : BitVec 5) (s : State) : Res :=
  .next (match sysInfo name with
    | none => s.raiseWord ⟨fIllegal, 0⟩ 0
    | some (rd, _, inst) =>
      if !sysIndexOk inst idx then s.raiseWord ⟨fIllegal, 0⟩ 0
      else if s.me.lvl < rd then s.raiseWord ⟨fPriv, 0⟩ 0
      else if s.me.waits [d] [] || s.me.sysBusy name idx then s
      else s.upMe fun x => (x.setS d (s.sysRead name idx)).advance 4)

/-- SYSW: 04 R105 to R109, 05 R132. -/
def execSysw (a : BitVec 5) (name : BitVec 12) (idx : BitVec 5) (s : State) : Res :=
  .next (match sysInfo name with
    | none => s.raiseWord ⟨fIllegal, 0⟩ 0
    | some (_, wr, inst) =>
      if !sysIndexOk inst idx then s.raiseWord ⟨fIllegal, 0⟩ 0
      else match wr with
        | none => if s.me.waits [a] [] then s else s.upMe fun x => x.advance 4
        | some l =>
          if s.me.lvl < l then s.raiseWord ⟨fPriv, 0⟩ 0
          else if s.me.waits [a] [] || s.me.sysBusy name idx then s
          else (s.sysWrite name idx (s.me.getS a)).upMe fun x => x.advance 4)

/-- A write of ARB_MODE or WINDOW_LEN takes effect once MX of the tile has no command started and not retired (01 R27). Quanta belong to
DRAWN mode: a change of mode leaves MX without a holder. -/
def State.arbTakes (s : State) (n : Nat) : State :=
  match (s.slot n).hold with
  | .arb window v =>
    let t := s.tile (tileOf n)
    if t.busy.any fun b => !b.done then s
    else
      let t := if window then { t with windowLen := windowOf v.toNat }
        else { t with stamped := v.getLsbD 0, holdMx := if t.stamped = v.getLsbD 0 then t.holdMx else none }
      (s.setTile (tileOf n) t).upSlot n fun x => { x with hold := .free }
  | .free => s
  | .region _ => s
  | .rndv => s

/-- ARB_MODE_TAKE_EFFECT: 01 R27. -/
def execArbModeTakeEffect  (s : State) : Res := .next (s.arbTakes s.cur)

/-! ### Traps, yield and job parts (05 R133 to R138) -/

/-- TRAP: 05 R133; TRAP_PC is the next word, CLASS 0, FAULT_TAG 0 (20 R407). -/
def execTrap (n : BitVec 12) (s : State) : Res :=
  .next ((s.upMe fun x => x.advance 4).raise s.cur ⟨fProgram, n.toNat⟩ 0#64 0 0)

/-- ERET: 05 R134, 20 R411. -/
def execEret  (s : State) : Res :=
  .next (
    let x := s.me
    if x.lvl < 1 then s.raiseWord ⟨fPriv, 0⟩ 0
    else if !x.y.inTrap then s.raiseWord ⟨fIllegal, 0⟩ 0
    else
      let (src, flags) := s.trapFlags s.cur
      let s := (s.readFlags s.cur).upMe fun x => { x with y := { x.y with level := x.y.prevLevel, inTrap := false }, pc := x.y.trapPc }
      s.resume s.cur (if flags % 2 = 1 then engineOf src else none))

/-- The point at which a quantum ends that a YIELD gives up: the last command dispatched before the first YIELD of the quantum (05
R135). -/
def yieldPoint (n : Nat) (q : Option Quantum) (point : Option Nat) (last : W32) : Option Nat :=
  if q.any fun q => decide (q.slot = n) then some (point.getD last.toNat) else point

/-- The number of the last command of a queue that was dispatched before position `o` in program order. -/
def EngQ.lastBefore (q : EngQ) (o : Nat) : W32 :=
  match q.entries.find? fun en => decide (o ≤ en.ord) with
  | some en => en.seq - 1#32
  | none => q.seqNo

/-- The quanta that slot n holds on VX and CP are given up at position `o` (05 R135). -/
def Slot.giveUp (x : Slot) (t : Tile) (n o : Nat) : Slot :=
  { x with
    yieldVx := yieldPoint n t.holdVx x.yieldVx (x.e.vx.lastBefore o)
    yieldCp := yieldPoint n t.holdCp x.yieldCp (x.e.cp.lastBefore o) }

/-- YIELD: 05 R135; the quanta held on VX and CP end after the last command dispatched before it issues. -/
def execYieldQ  (s : State) : Res :=
  .next (s.upMe fun x => (x.giveUp (s.tile (tileOf s.cur)) s.cur (x.ord + 1)).advance 4)

/-- NORECLAIM and NOMATCH of a record (16 R350). -/
def TaskRec.noReclaim (r : TaskRec) : Bool := natBit r.flags 0
def TaskRec.noMatch (r : TaskRec) : Bool := natBit r.flags 1

/-- Whether the future of a slot's task is reclaimed, so that the task is reclaimed at its next point (19 R398). -/
def State.doomed (s : State) (n : Nat) : Bool :=
  match (s.slot n).job.task.bind fun t => mfind s.tasks t with
  | none => false
  | some x =>
    let f := mget {} s.futures (x.tq.handle.toNat / 4096)
    !x.rc.noReclaim && f.state == .reclaimed && decide (f.gen = x.tq.handle.toNat % 4096)

/-- The boundary of the part ending now: for each stream its first flagged word, or its last word (01 R20, 05 R137). -/
def Slot.boundaryNow (x : Slot) : List W32 :=
  allEngines.map fun e => mget (x.eng e).seqNo x.job.marks (classOf e)

/-- Forget the boundaries that are passed. -/
def Slot.dropReached (x : Slot) : Slot := { x with job := { x.job with bounds := x.job.bounds.dropWhile x.reached } }

/-- The part, iteration and address that follow the part ending (05 R136). -/
def Job.next (j : Job) (pc : Word) : Job × Word :=
  match j.part with
  | .prologue => if j.trip = 0 then ({ j with part := .epilogue }, j.epiloguePc) else ({ j with part := .kernel, iter := 0 }, j.kernelPc)
  | .kernel =>
    if j.iter + 1 < j.trip then ({ j with iter := j.iter + 1 }, j.kernelPc) else ({ j with part := .epilogue }, j.epiloguePc)
  | .epilogue => ({ j with part := .ended }, pc)
  | .idle => (j, pc)
  | .ended => (j, pc)

/-- ENDJ: 05 R136, R137; ILLEGAL while a trap is handled. -/
def execEndj  (s : State) : Res :=
  .next (if s.me.y.inTrap then s.raiseWord ⟨fIllegal, 0⟩ 0
    else
      let stop := s.me.job.preemptReq || s.doomed s.cur
      s.upMe fun x =>
        let x := if stop then x else x.dropReached
        let (j, pc) := x.job.next (x.pc + 4#64)
        { x with pc := pc, job := { j with bounds := j.bounds ++ [x.boundaryNow], marks := [], iterStart := s.dcc } })

/-- NOP: 05 R138. -/
def execNop  (s : State) : Res :=
  s.direct [] [] fun x => x

/-! ### Words that do not execute -/

/-- RESERVED_ENCODING: 03 R69 to R73, R90; ILLEGAL, precise. -/
def execReservedEncoding (word : W32) (s : State) : Res :=
  .next (s.raiseWord ⟨fIllegal, 0⟩ (fld word 31 29))

/-- FETCH_FAULT: 05 R127; the fetch fault, precise. TRAP_CAUSE.CLASS is that of the word (04 R110), and a word that was not fetched has
none: it is 0, also where a later word of a long form is meant (log 53). -/
def execFetchFault (code : BitVec 16) (addr : Word) (s : State) : Res :=
  .next (s.raiseWord ⟨code.toNat, addr.toNat⟩ 0)

end Sys2Proof.Machine
end

