-- ==== Sys2Proof/Machine/Teams.lean ====
section
/-! DEFINITION. Teams and what they hold: granules and seasons of banks (07 R168, R170, R171, R183, R185), claims (27 R472),
accumulator tiles (07 R178, 10 R230), and the end of a job and of a team. -/
namespace Sys2Proof.Machine

/-! ### Contexts (16 R347) and teams -/

def ctxValid (e : Nat) : Bool := natBit e 127
def ctxTenant (e : Nat) : Nat := natBits e 116 109
def ctxCurrency (e : Nat) : Nat := natBits e 108 99
def ctxTickets (e : Nat) : Nat := natBits e 98 67
def ctxMinscr (e : Nat) : Nat := natBits e 66 55

def State.team (s : State) (t : Nat) : Team := mget {} s.teams t
def State.setTeam (s : State) (t : Nat) (x : Team) : State := { s with teams := mput s.teams t x }

/-- The team number of the queue pool (13 R309). -/
def poolTeam : Nat := 0x7FFF

/-- The task of a slot, when it runs one. -/
def State.taskOf (s : State) (n : Nat) : Option Task := (s.slot n).job.task.bind fun t => mfind s.tasks t

def State.setTask (s : State) (t : Nat) (x : Task) : State := { s with tasks := mput s.tasks t x }

/-- Whether a task is in the in-flight set and not finished (16 R352). -/
def State.inFlight (s : State) (t : Nat) : Bool :=
  match mfind s.tasks t with
  | some x => x.state != .finished
  | none => false

/-- Whether a slot can take a task: it runs none and nothing of an earlier one is left. -/
def Slot.vacant (x : Slot) : Bool := x.job.task.isNone && x.job.part == .idle && x.journal.isEmpty && !x.job.stopped

/-! ### Granules (07 R168 to R171) -/

/-- An owner entry: valid bit, tenant, team (07 R169). -/
def ownerEntry (tenant team : Nat) : BitVec 24 := BitVec.ofNat 24 (2 ^ 23 + tenant * 2 ^ 15 + team)

def Tile.granFree (t : Tile) (g : Nat) : Bool := !(mget 0#24 t.owner g).getLsbD 23

/-- The granules of a team on a tile, ascending. -/
def Tile.granulesOf (t : Tile) (team : Nat) : List Nat :=
  (below 64).filter fun g => !t.granFree g && decide (fld (mget 0#24 t.owner g) 14 0 = team)

/-- Whether a bank has an allocated granule. -/
def Tile.bankAllocated (t : Tile) (bank : Nat) : Bool := (below 16).any fun g => !t.granFree (bank / 4 * 16 + g)

/-- Allocate a granule: it is granted to the team, its lines are fresh, and a bank in winter wakes (07 R169, R170, R183, R185; log
68). -/
def State.allocGranule (s : State) (tile tenant team g : Nat) : State :=
  let t := s.tile tile
  let first := !t.bankAllocated (g / 16 * 4)
  let s := s.freshen (unitInGranule tile g)
  let season := upTo 4 (fun b (m : SMap (BitVec 2)) =>
    let bank := g / 16 * 4 + b
    if first && mget 2#2 m bank = 2#2 then mput m bank 3#2 else m) t.season
  s.setTile tile { t with owner := mput t.owner g (ownerEntry tenant team), grants := mput t.grants g [team], season := season }

/-- Free a granule; a bank whose last granule goes is in winter (07 R170, R185), and fresh when it wakes. -/
def State.freeGranule (s : State) (tile g : Nat) : State :=
  let t := s.tile tile
  let t := { t with owner := mput t.owner g 0#24, grants := mput t.grants g [] }
  let s := s.setTile tile t
  if t.bankAllocated (g / 16 * 4) then s
  else
    let s := s.freshen fun u => (below 4).any fun b => unitInBank tile (g / 16 * 4 + b) u
    let t := s.tile tile
    s.setTile tile { t with season := upTo 4 (fun b (m : SMap (BitVec 2)) => mput m (g / 16 * 4 + b) 2#2) t.season }

/-! ### Claims (27 R472) -/

/-- Whether a claim meets no claim of another team with another value. -/
def Tile.claimFits (t : Tile) (c : Claim) : Bool :=
  t.claims.all fun d => decide (d.team = c.team) || d.cb != c.cb || decide (d.idx ≠ c.idx) || decide (d.val = c.val)

/-- Whether some team claims a register. -/
def Tile.claimed (t : Tile) (cb : Bool) (idx : Nat) : Bool := t.claims.any fun d => d.cb == cb && decide (d.idx = idx)

/-- Add claims; an unclaimed register takes the value claimed. -/
def Tile.addClaims (t : Tile) (cs : List Claim) : Tile :=
  cs.foldl (fun (t : Tile) (c : Claim) =>
    let t := if t.claimed c.cb c.idx then t
      else if c.cb then { t with codebook := mput t.codebook c.idx (BitVec.ofNat 256 c.val) }
      else { t with fmt := mput t.fmt c.idx (BitVec.ofNat 16 c.val) }
    { t with claims := t.claims ++ [c] }) t

/-- The claims of a team end; a register that nobody claims then takes its reset value. -/
def Tile.dropClaims (t : Tile) (team : Nat) : Tile :=
  let mine := t.claims.filter fun c => decide (c.team = team)
  let t := { t with claims := t.claims.filter fun c => decide (c.team ≠ team) }
  mine.foldl (fun (t : Tile) (c : Claim) =>
    if t.claimed c.cb c.idx then t
    else if c.cb then { t with codebook := mput t.codebook c.idx 0#256 }
    else { t with fmt := mput t.fmt c.idx 0x0008#16 }) t

/-! ### What a team needs on a tile (21 R434; 07 R171; 27 R472) -/

/-- What a team takes on a tile. -/
structure TilePlan where
  tile : Nat
  granules : List Nat
  spill : Nat
  extra : Bool
  claims : List Claim
deriving DecidableEq, Repr

/-- The format that a bank will have for a team that names these formats. -/
def Tile.fmtFor (t : Tile) (named : List (Nat × Nat)) (bank : Nat) : BitVec 16 :=
  match named.find? fun p => p.1 = bank with
  | some p => BitVec.ofNat 16 p.2
  | none => t.bankFmt bank

/-- Whether a granule lies in a scale area (07 R174). -/
def Tile.inScale (t : Tile) (named : List (Nat × Nat)) (g : Nat) : Bool :=
  decide (14 ≤ g % 16) && (below 4).any fun b => scaledOf (t.fmtFor named (g / 16 * 4 + b))

/-- Whether a list of register values names one register with two values. -/
def namesTwo (l : List (Nat × Nat)) : Bool := l.any fun p => l.any fun q => decide (p.1 = q.1 ∧ p.2 ≠ q.2)

/-- The place of a team's members on a tile: the lowest free granules, the spill granule and the claims; none where they do not
fit. -/
def Tile.plan (t : Tile) (tile team : Nat) (ds : List Decl) : Option TilePlan :=
  let banks := ds.foldl (fun acc d => acc ++ d.banks) []
  let cbs := ds.foldl (fun acc d => acc ++ d.codebooks) []
  let need := sumOf (ds.map (·.granules))
  let free := (below 64).filter t.granFree
  let mine := free.take need
  if mine.length < need || namesTwo banks || namesTwo cbs then none
  else
    let sp := match mine.find? fun g => !t.inScale banks g with
      | some g => some (g, false)
      | none => ((free.drop need).find? fun g => !t.inScale banks g).map fun g => (g, true)
    match sp with
    | none => none
    | some (g, extra) =>
      let groups := (g :: mine).map (· / 16)
      let named := fun b => (banks.find? fun p => p.1 = b).map (·.2)
      let fmts := (below 16).filterMap fun b =>
        match named b with
        | some v => some (⟨team, false, b, v⟩ : Claim)
        | none => if groups.contains (b / 4) then some ⟨team, false, b, 8⟩ else none
      let books := (below 8).filterMap fun i => (cbs.find? fun p => p.1 = i).map fun p => (⟨team, true, i, p.2⟩ : Claim)
      if (fmts ++ books).all t.claimFits then some ⟨tile, mine, g, extra, fmts ++ books⟩ else none

/-- Take what a plan names. -/
def State.takePlan (s : State) (tenant team : Nat) (p : TilePlan) : State :=
  let gs := if p.extra then p.granules ++ [p.spill] else p.granules
  let s := gs.foldl (fun s g => s.allocGranule p.tile tenant team g) s
  let t := s.tile p.tile
  s.setTile p.tile { t.addClaims p.claims with spillGran := mput t.spillGran team (some p.spill) }

/-! ### Ends (07 R170, R178; 10 R230; 19 R399; 27 R472) -/

/-- The accumulator tiles and the spills of a slot are free. -/
def State.freeSlotTiles (s : State) (n : Nat) : State :=
  let t := s.tile (tileOf n)
  let mine := t.spillCol.filter fun e => match e.2 with | some (m, _) => decide (m = n) | none => false
  let t := mine.foldl (fun (t : Tile) (e : Nat × Option (Nat × Nat)) => t.vacate (e.1 / 64) (e.1 % 64)) t
  s.setTile (tileOf n) { t with
    zAlloc := t.zAlloc.filter fun (e : Nat × Option Nat) => e.2 ≠ some (n % 8) }

/-- The columns of a tile that hold no spill are fresh, and its status entry is clear (07 R178). -/
def Tile.freshOwn (t : Tile) (z : Nat) : Tile :=
  let t := upTo 64 (fun c (t : Tile) =>
    if (mget none t.spillCol (z * 64 + c)).isNone then (t.setCol z c 0#2048).cleanCol z c else t) t
  { t with zStatus := mput t.zStatus z 0#8, zLast := mput t.zLast z none }

/-- A team leaves a tile: granules, claims and accumulator tiles. -/
def State.leaveTile (s : State) (tile team : Nat) : State :=
  let s := ((s.tile tile).granulesOf team).foldl (fun s g => s.freeGranule tile g) s
  let t := (s.tile tile).dropClaims team
  let t := upTo 16 (fun z (t : Tile) => match mget none t.zLast z with
    | some (_, w) => if w = team then t.freshOwn z else t
    | none => t) t
  s.setTile tile { t with spillGran := mput t.spillGran team none }

/-- The tiles of a team's slots, each once. -/
def Team.tiles (t : Team) : List Nat := t.slots.foldl (fun acc n => if acc.contains (n / 8) then acc else acc ++ [n / 8]) []

/-- Change every request on the fabric. -/
def State.mapReqs (s : State) (f : FabReq → FabReq) : State :=
  { s with stations := s.stations.map fun (e : Nat × Station) => (e.1, { e.2 with reqs := e.2.reqs.map f }) }

/-- A slot is left by its task: its hold ends, its tiles are free, and what it has on the fabric serves nothing. Near-memory
commands that have started stay in the journal until they complete (19 R399). -/
def State.leaveSlot (s : State) (n : Nat) : State :=
  let s := ((s.endHold n).freeSlotTiles n).endQuanta n
  let s := s.mapReqs fun r => match r.kind with
    | .enqr _ => r
    | _ => if r.who = n then { r with live := false } else r
  s.upSlot n fun x =>
    { y := { tenant := x.y.tenant, ctx := x.y.ctx }, journal := x.journal.filter fun j => j.entry.isNm }

/-- A member's task is over; with the last member the team ends (07 R170, R178; 01 R21). -/
def State.leaveTeam (s : State) (team : Nat) : State :=
  let t := s.team team
  if t.tasks.any s.inFlight then s
  else
    let s := if t.state == .swapped then s else t.tiles.foldl (fun s k => s.leaveTile k team) s
    let s := { s with teams := mdel s.teams team }
    s.setDie t.die (let d := s.die t.die; { d with precede := if d.precede = some team then none else d.precede })

end Sys2Proof.Machine
end

