-- ==== Sys2Proof/Machine/Futures.lean ====
section
/-! DEFINITION. Task records (16 R350, R351), future records and their states (18 R382, R383), the end and the reclamation of
tasks (19 R399, R400), and what a host command learns of them (21 R435). -/
namespace Sys2Proof.Machine

/-! ### Task records (16 R350) -/

/-- The number in `n` bytes at offset o of a record. -/
def recField (bs : List Byte) (o n : Nat) : Nat := leNat ((bs.drop o).take n)

/-- The ranges of a record from offset o on, those of length 0 left out. -/
def recRanges (bs : List Byte) (o : Nat) : List (Word × Nat) :=
  (below 4).filterMap fun i =>
    let len := recField bs (o + 16 * i + 8) 8
    if len = 0 then none else some (BitVec.ofNat 64 (recField bs (o + 16 * i) 8), len)

/-- The fields of a record. -/
def parseRec (bs : List Byte) : TaskRec :=
  let f := recField bs
  { prologue := BitVec.ofNat 64 (f 0x00 8), kernel := BitVec.ofNat 64 (f 0x08 8), epilogue := BitVec.ofNat 64 (f 0x10 8)
    trip := f 0x18 4, domain := BitVec.ofNat 64 (f 0x20 8), stampBase := BitVec.ofNat 64 (f 0x28 8)
    budget := BitVec.ofNat 32 (f 0x30 4), redMax := f 0x34 4, ctx := f 0x38 2 % 4096, flags := f 0x3A 2
    slip := f 0x3C 1 % 128, nin := f 0x3D 1 % 8
    inputs := (below (f 0x3D 1 % 8)).map fun i => BitVec.ofNat 32 (f (0x40 + 4 * i) 4)
    reads := recRanges bs 0x80, writes := recRanges bs 0xC0 }

/-- Whether R351 refuses a record read from the queue of context c. -/
def recRefused (bs : List Byte) (c : Nat) : Bool :=
  let f := recField bs
  decide (f 0x38 2 / 4096 ≠ 0) || decide (4 ≤ f 0x3A 2) || decide (128 ≤ f 0x3C 1) || decide (8 ≤ f 0x3D 1) ||
  decide (f 0x3E 2 ≠ 0) || decide (f 0x50 48 ≠ 0) || decide (f 0x38 2 % 4096 ≠ c) || decide (4 < f 0x3D 1 % 8) ||
  (below 8).any fun i =>
    decide (f (0x80 + 16 * i + 8) 8 / 2 ^ 40 ≠ 0) || decide (f (0x80 + 16 * i) 8 / 2 ^ 60 = 15)

/-- The bytes of the record at a VA, read for context c (log 12: a record that cannot be read counts as refused), and the state after
the read. -/
def State.readRec (s : State) (c : Nat) (va : Word) : State × Option (List Byte) :=
  let r := s.readVa (.die (ctxDie (s.context c))) ⟨ctxTenant (s.context c), 0, c, 0⟩ va.toNat 256 rR
  (r.1, r.2.toOption)

/-- The record at a VA, unless it is refused, and the state after its read. -/
def State.recordAt (s : State) (c : Nat) (va : Word) : State × Option TaskRec :=
  let r := s.readRec c va
  (r.1, r.2.bind fun bs => if recRefused bs c then none else some (parseRec bs))

/-! ### Future records (18 R382) -/

def futGen (h : W32) : Nat := h.toNat % 4096
def futHandle (slot gen : Nat) : W32 := BitVec.ofNat 32 (slot * 4096 + gen)

def State.future (s : State) (n : Nat) : Future := mget {} s.futures n
def State.setFuture (s : State) (n : Nat) (f : Future) : State := { s with futures := mput s.futures n f }

/-- Whether a handle is stale. -/
def State.futStale (s : State) (h : W32) : Bool :=
  let f := s.future (futSlot h)
  decide (65536 ≤ futSlot h) || decide (futGen h ≠ f.gen) || f.state == .free

/-- The checks of R395 of a handle by tenant t. -/
def State.futCheck (s : State) (t : Nat) (h : W32) : M Unit := do
  liftF (must (!s.futStale h) fFuture h.toNat)
  liftF (must (decide (ctxTenant (s.context (s.future (futSlot h)).ctx) = t)) fOwner h.toNat)

/-- The greatest COUNT, which stays (18 R383). -/
def countMax : Nat := 0xFFFFF

/-- The lowest free record of a die that has generations left. -/
def State.freeFuture (s : State) (die : Nat) : Option Nat :=
  (firstBelow 8192 fun k =>
    let f := s.future (die * 8192 + k)
    f.state == .free && decide (f.gen < 4095)).map fun k => die * 8192 + k

/-- Allocate a future (19 R394, 18 R383): the state and the handle. -/
def State.allocFuture (s : State) (n ctx : Nat) (front : Bool) (record : Word) : State × W32 :=
  let f := s.future n
  (s.setFuture n { state := .pending, gen := f.gen + 1, count := 1, ctx := ctx, task := none, front := front, record := record },
    futHandle n (f.gen + 1))

/-! ### Ranks and readiness (16 R353) -/

/-- Ranges meet: both SAs or both VAs of one buffer, and their intervals intersect. -/
def rangesMeet (p q : Word × Nat) : Bool :=
  let a := p.1.toNat
  let b := q.1.toNat
  (ccIsVa a == ccIsVa b) && (!ccIsVa a || decide (vaIndex a = vaIndex b)) &&
    decide (a < b + q.2) && decide (b < a + p.2)

def anyMeet (l m : List (Word × Nat)) : Bool := l.any fun p => m.any fun q => rangesMeet p q

/-- A task that waits for nothing is ready (16 R353). -/
def Task.settle (x : Task) : Task :=
  if x.state == .waiting && x.preds.isEmpty && x.futPreds.isEmpty then { x with state := .ready } else x

/-- Whether a member is ready to be placed; a member that is over holds nothing back. -/
def State.memberReady (s : State) (k : Nat) : Bool :=
  match mfind s.tasks k with
  | some x => x.state == .ready || x.state == .finished
  | none => true

/-- A team whose members are all ready became ready now (16 R354, R364). -/
def State.settleTeam (s : State) (t : Team) : Team :=
  if t.state == .waiting && t.since = 0 && decide (t.tasks.length = t.size) && t.tasks.all s.memberReady then
    { t with since := max 1 s.dcc.toNat }
  else t

/-- Tasks and teams become ready. -/
def State.settleReady (s : State) : State :=
  let s := { s with tasks := s.tasks.map fun (e : Nat × Task) => (e.1, e.2.settle) }
  { s with teams := s.teams.map fun (e : Nat × Team) => (e.1, s.settleTeam e.2) }

/-- A task that waits for a future no longer waits for it. -/
def State.dropFutPred (s : State) (h : W32) : State :=
  ({ s with tasks := s.tasks.map fun (e : Nat × Task) =>
    (e.1, { e.2 with futPreds := e.2.futPreds.filter fun g => g ≠ h }) }).settleReady

/-! ### What a host command learns (21 R435) -/

/-- Completion statuses (21 R432). -/
def stDone : Nat := 0
def stReclaimed : Nat := 7

/-- A task with future h has ended: the host command that launched it. -/
def HostQ.ended (q : HostQ) (h : W32) (reclaimed : Bool) : HostQ :=
  match q.flight.find? fun c => c.futures.contains h with
  | none => q
  | some c =>
    let rest := c.futures.filter fun g => g ≠ h
    let others := q.flight.filter fun d => d.index ≠ c.index
    if reclaimed then
      { q with flight := others, ready := q.ready ++ [⟨c.index, stReclaimed, c.root, c.gen, c.irq⟩] }
    else if rest.isEmpty then
      { q with flight := others, ready := q.ready ++ [⟨c.index, stDone, c.root, c.gen, c.irq⟩] }
    else
      { q with flight := q.flight.map fun d => if d.index = c.index then { d with futures := rest } else d }

def State.hostEnded (s : State) (h : W32) (reclaimed : Bool) : State :=
  { s with hq := s.hq.map fun (e : Nat × HostQ) => (e.1, e.2.ended h reclaimed) }

/-! ### Ends -/

/-- A task is over in the in-flight set: its references, its slot and its team are given up (16 R352; 19 R399). -/
def State.closeTask (s : State) (t : Nat) (reclaimed : Bool) : State × List W32 :=
  match mfind s.tasks t with
  | none => (s, [])
  | some x =>
    let s := s.setTask t { x with state := .finished, refs := [], slot := none }
    let s := match x.slot with
      | some n => s.leaveSlot n
      | none => s
    let s := { s.leaveTeam x.team with csa := s.csa.filter fun (e : Nat × Slot) => e.2.job.task ≠ some t }
    (if reclaimed then s.countCtx x.ctx 11 else s, x.refs)

/-- Whether a task in flight is reclaimed at once: it has not started, it is swapped out or pre-empted (19 R398), or its slot has
stopped, which leaves it as a pre-empted one (20 R409). -/
def State.reclaimNow (s : State) (t : Nat) : Bool :=
  match mfind s.tasks t with
  | none => false
  | some x =>
    match x.state with
    | .waiting => true
    | .ready => true
    | .swapped => true
    | .resident =>
      (match x.slot with
        | some n => (s.slot n).job.preempted || (s.slot n).job.stopped
        | none => false)
    | .finished => false

/-- Take the entry of a future out of its task queue (13 R305). -/
def State.unqueue (s : State) (ctx : Nat) (h : W32) : State :=
  { s with taskQ := mput s.taskQ ctx ((mget [] s.taskQ ctx).filter fun e => e.handle ≠ h) }

/-- Whether a task still in its queue is kept when its COUNT is 0: its record has NORECLAIM (18 R383). -/
def State.keptQueued (s : State) (f : Future) : Bool :=
  match (s.recordAt f.ctx f.record).2 with
  | some r => r.noReclaim
  | none => false

/-- The boundaries that the slot of a task has passed no longer count (20 R412; 19 R398: the next one does). -/
def State.forgetPassed (s : State) (t : Nat) : State :=
  match (mfind s.tasks t).bind fun (x : Task) => x.slot with
  | some n => s.upSlot n Slot.dropReached
  | none => s

/-- COUNT of record n is 0: the moves of R383. The task to be reclaimed at once, if any. -/
def State.countZero (s : State) (n : Nat) : State × Option Nat :=
  let f := s.future n
  let h := futHandle n f.gen
  match f.state with
  | .free => (s, none)
  | .done => (s.setFuture n { f with state := .free, task := none }, none)
  | .reclaimed =>
    let inSet := match f.task with | some t => (mfind s.tasks t).isSome | none => false
    (if inSet then s else s.setFuture n { f with state := .free, task := none }, none)
  | .pending =>
    match f.task with
    | some t =>
      let keep := match mfind s.tasks t with | some x => x.rc.noReclaim | none => false
      if keep then (s, none)
      else
        let s := (s.setFuture n { f with state := .reclaimed }).forgetPassed t
        (s, if s.reclaimNow t then some t else none)
    | none =>
      if s.keptQueued f then (s, none)
      else
        let s := (s.unqueue f.ctx h).setFuture n { f with state := .free }
        ((s.countCtx f.ctx 11).dropFutPred h, none)

/-- One drop of a reference to handle h (18 R383): COUNT falls unless it stands at 0 or at its top. -/
def State.dropOne (s : State) (h : W32) : State × Option Nat :=
  let n := futSlot h
  let f := s.future n
  if s.futStale h || f.count = countMax || f.count = 0 then (s, none)
  else
    let s := s.setFuture n { f with count := f.count - 1 }
    if f.count = 1 then s.countZero n else (s, none)

/-- Drop a list of references, and the lists of the tasks that this reclaims in their turn (19 R400), with fuel. -/
def State.dropList : Nat → List W32 → State → State
  | 0, _, s => s
  | _, [], s => s
  | fuel + 1, h :: r, s =>
    match s.dropOne h with
    | (s, none) => s.dropList fuel r
    | (s, some t) =>
      let (s, refs) := s.closeTask t true
      s.dropList fuel (r ++ refs)

/-- Every reference that tasks hold, as fuel. -/
def State.refTotal (s : State) : Nat := sumOf (s.tasks.map fun (e : Nat × Task) => e.2.refs.length)

def State.drops (s : State) (hs : List W32) : State := s.dropList (s.refTotal + hs.length + 1) hs

/-- The front end drops the reference that it holds (18 R383, R464). -/
def State.frontDrop (s : State) (h : W32) : State :=
  let f := s.future (futSlot h)
  if f.front then (s.setFuture (futSlot h) { f with front := false }).drops [h] else s

/-- A task's job has ended (05 R136; 18 R383; 19 R393): its future is done unless it was reclaimed. -/
def State.finishTask (s : State) (t : Nat) : State :=
  match mfind s.tasks t with
  | none => s
  | some x =>
    let h := x.tq.handle
    let f := s.future (futSlot h)
    let live := !s.futStale h
    let done := live && f.state == .pending
    let s := if done then s.setFuture (futSlot h) { f with state := .done } else s
    let (s, refs) := s.closeTask t false
    let s := s.drops refs
    let s := s.hostEnded h !done
    let s := s.frontDrop h
    if done && (s.future (futSlot h)).count = 0 && (s.future (futSlot h)).state == .done then (s.countZero (futSlot h)).1 else s

/-- A task in flight is reclaimed (19 R398 to R400, R478): its future is reclaimed, its references are dropped, and the host
command that launched it learns of it. -/
def State.reclaimTask (s : State) (t : Nat) : State :=
  match mfind s.tasks t with
  | none => s
  | some x =>
    let h := x.tq.handle
    let f := s.future (futSlot h)
    let s := if !s.futStale h && f.state == .pending then s.setFuture (futSlot h) { f with state := .reclaimed } else s
    let (s, refs) := s.closeTask t true
    ((s.drops refs).hostEnded h true).frontDrop h

/-- A task still in its queue is reclaimed (13 R305; 19 R398, R399). -/
def State.reclaimQueued (s : State) (ctx : Nat) (e : TqEntry) : State :=
  let n := futSlot e.handle
  let f := s.future n
  let s := s.unqueue ctx e.handle
  let s := if s.futStale e.handle then s else s.setFuture n { f with state := .reclaimed }
  let s := ((s.countCtx ctx 11).dropFutPred e.handle).hostEnded e.handle true
  let s := s.frontDrop e.handle
  if (s.future n).count = 0 then (s.countZero n).1 else s

/-- A finished task leaves the in-flight set, and a reclaimed record without references is free (18 R383). -/
def State.leaveSet (s : State) (t : Nat) : State :=
  match mfind s.tasks t with
  | none => s
  | some x =>
    let s := { s with tasks := mdel s.tasks t }
    let n := futSlot x.tq.handle
    let f := s.future n
    if s.futStale x.tq.handle then s
    else
      let s := s.setFuture n { f with task := none }
      if f.state == .reclaimed && f.count = 0 then (s.countZero n).1 else s

end Sys2Proof.Machine
end

