-- ==== Sys2Proof/Machine/Lottery.lean ====
section
/-! DEFINITION. Effective tickets (16 R349), lending (16 R355 to R357, 18 R385), the tickets of candidates (16 R359), and draws
of the die scheduler (01 R32 to R34; 16 R363, R365). -/
namespace Sys2Proof.Machine

/-! ### Currencies (16 R348, R349) -/

def curValid (e : Nat) : Bool := natBit e 63
def curDepth (e : Nat) : Nat := natBits e 62 61
def curParent (e : Nat) : Nat := natBits e 60 51
def curTenant (e : Nat) : Nat := natBits e 50 43
def curFunding (e : Nat) : Nat := natBits e 31 0

def State.currency (s : State) (n : Nat) : Nat := s.entry 0x11 n

def addNew (l : List Nat) (a : Nat) : List Nat := if l.contains a then l else l ++ [a]

/-- Contexts with a task that is ready, resident or swapped (16 R347). -/
def State.activeCtxs (s : State) : List Nat :=
  s.tasks.foldl (fun acc (e : Nat × Task) => match e.2.state with
    | .ready => addNew acc e.2.ctx
    | .resident => addNew acc e.2.ctx
    | .swapped => addNew acc e.2.ctx
    | .waiting => acc
    | .finished => acc) []

/-- A node and its ancestors but for the base; the tree has at most four levels (16 R348). -/
def State.chain (s : State) : Nat → Nat → List Nat
  | 0, _ => []
  | fuel + 1, n => if n = 0 then [] else n :: s.chain fuel (curParent (s.currency n))

/-- The nodes that are active. -/
def State.activeNodes (s : State) : List Nat :=
  s.activeCtxs.foldl (fun acc c => (s.chain 4 (ctxCurrency (s.context c))).foldl addNew acc) []

/-- issued(n): the funding of active children and the tickets of active contexts. -/
def State.issued (s : State) (n : Nat) : Nat :=
  sumOf ((s.activeNodes.filter fun m => curParent (s.currency m) = n).map fun m => curFunding (s.currency m)) +
  sumOf ((s.activeCtxs.filter fun c => ctxCurrency (s.context c) = n).map fun c => ctxTickets (s.context c))

/-- value(n), with fuel for the levels of the tree. -/
def State.curValue (s : State) : Nat → Nat → Nat
  | 0, _ => 0
  | fuel + 1, n =>
    let e := s.currency n
    if curDepth e ≤ 1 then curFunding e
    else s.curValue fuel (curParent e) * curFunding e / s.issued (curParent e)

/-- eff(c): effective tickets (16 R349). -/
def State.eff (s : State) (c : Nat) : Nat :=
  let n := ctxCurrency (s.context c)
  if !s.activeCtxs.contains c || s.issued n = 0 then 0
  else s.curValue 4 n * ctxTickets (s.context c) / s.issued n

/-! ### Lending (16 R355 to R357) -/

/-- Whether a slot lends in this cycle. -/
def State.lends (s : State) (n : Nat) : Bool :=
  match (s.slot n).lendSince with
  | some t => decide (t < s.dcc.toNat)
  | none => false

/-- The borrower of the wait that SY of slot n executes (16 R355). -/
def State.borrower (s : State) (n : Nat) : Option Nat :=
  let mine := (s.slot n).job.task
  let other := fun (t : Option Nat) => t.bind fun k => if s.inFlight k && decide (some k ≠ mine) then some k else none
  let future := fun (h : W32) =>
    if s.futStale h then none
    else (s.future (futSlot h)).task.bind fun k => if s.inFlight k then some k else none
  match (s.slot n).e.sy.active with
  | none => none
  | some e =>
    match e.cmd with
    | .sy (.awaitl _ a) => future ((e.cap a).setWidth 32)
    | .sy (.yieldl kind a _) =>
      let v := (e.cap a).toNat
      match kind with
      | .future => future ((e.cap a).setWidth 32)
      | .data => other (mget (none, none) s.qActors (queueKey v)).1
      | .room => other (mget (none, none) s.qActors (queueKey v)).2
      | .counter => other (mget none s.ctrIssuer ((s.slot n).y.ctx.toNat * 256 + v % 256))
    | _ => none

/-- The slot on which a task lends, if it lends. -/
def State.lenderOf (s : State) (t : Nat) : Option Nat :=
  (mfind s.tasks t).bind fun (x : Task) => x.slot.bind fun n => if s.lends n then some n else none

/-- The walk of R356 from task x with this many hops left. -/
def State.walk (s : State) : Nat → List Nat → Nat → Option Nat
  | 0, _, x => some x
  | hops + 1, seen, x =>
    match s.lenderOf x with
    | none => some x
    | some n =>
      if seen.contains n then none
      else
        match s.borrower n with
        | none => none
        | some y => s.walk hops (n :: seen) y

/-- target(L) for lender slot L. -/
def State.lendTarget (s : State) (n : Nat) : Option Nat := (s.borrower n).bind (s.walk 7 [n])

/-- The loan sum of a task (18 R385). -/
def State.loanSum (s : State) (t : Nat) : Nat :=
  s.slots.foldl (fun a (e : Nat × Slot) =>
    if s.lends e.1 && s.lendTarget e.1 == some t then a + s.eff e.2.y.ctx.toNat else a) 0

/-- Loans credited to the task of a slot. -/
def State.slotLoans (s : State) (n : Nat) : Nat :=
  match (s.slot n).job.task with
  | some t => s.loanSum t
  | none => 0

/-! ### Tickets of candidates (16 R359) -/

def State.mxTickets (s : State) (n : Nat) : Nat := max 1 (s.eff (s.slot n).y.ctx.toNat + s.slotLoans n)

/-- VX and CP, with the compensation factor (16 R358). -/
def State.engTickets (s : State) (n factor : Nat) : Nat :=
  max 1 (s.eff (s.slot n).y.ctx.toNat * factor / 2 ^ 16 + s.slotLoans n)

def State.teamTickets (s : State) (team : Nat) : Nat :=
  let t := s.team team
  max 1 (s.eff t.ctx + sumOf (t.tasks.map s.loanSum))

/-! ### Draws (01 R32 to R34) -/

/-- The draw value of an arbiter (01 R34). -/
def drawValue (seed : Word) (num : Nat) (ctr : BitVec 56) : Nat :=
  (praline seed (BitVec.ofNat 64 (num * 2 ^ 56 + ctr.toNat))).toNat

/-- A draw of the die scheduler among candidates with these tickets: the index of the winner. A lone candidate wins without a
draw (01 R33). -/
def State.dieDraw (s : State) (d : Nat) (tickets : List Nat) : State × Nat :=
  if tickets.length < 2 then (s, 0)
  else
    let x := s.die d
    (s.setDie d { x with draw := x.draw + 1#56 }, winner tickets (drawValue x.seed 0 x.draw))

/-- The weight of a victim (16 R363). -/
def victimWeight (c : Nat) : Nat := 2 ^ 32 / c

/-- A victim draw: the winner by inverse lottery; the draw counter advances (16 R363), but for a lone candidate (01 R33). -/
def State.victimDraw (s : State) (d : Nat) (cands : List (Nat × Nat)) : State × Option Nat :=
  let x := s.die d
  match cands with
  | [] => (s, none)
  | [c] => (s, some c.1)
  | _ =>
    let i := winner (cands.map fun c => victimWeight c.2) (drawValue x.seed 0 x.draw)
    (s.setDie d { x with draw := x.draw + 1#56 }, (cands[i]?).map Prod.fst)

end Sys2Proof.Machine
end

