-- ==== Sys2Proof/Machine/Sched.lean ====
section
/-! DEFINITION. The die scheduler: entry of tasks (16 R351 to R353) and placement of teams (01 R21; 04 R101; 16 R354, R362 to R364). -/
namespace Sys2Proof.Machine

/-! ### Task entry (16 R351, R353) -/

/-- The context whose queue is served next on a die: ascending, beginning after the last one served. -/
def State.nextQueue (s : State) (d : Nat) : Option Nat :=
  let cs := (s.taskQ.filter fun (e : Nat × List TqEntry) =>
    !e.2.isEmpty && ctxValid (s.context e.1) && decide (ctxDie (s.context e.1) = d)).map Prod.fst
  match minOf (cs.filter fun c => decide ((s.die d).lastCtx < c)) with
  | some c => some c
  | none => minOf cs

/-- The lowest free index of the in-flight set of a die. -/
def State.freeIndex (s : State) (d : Nat) : Option Nat :=
  (firstBelow 2048 fun i => (mfind s.tasks (d * 2048 + i)).isNone).map fun i => d * 2048 + i

/-- Whether U ranks before a new task with record r: an overlap of ranges with a write (16 R353). -/
def ranksBefore (u : Task) (r : TaskRec) : Bool :=
  u.state != .finished && !u.rc.noMatch && !r.noMatch &&
  (anyMeet u.rc.writes (r.reads ++ r.writes) || anyMeet u.rc.reads r.writes)

/-- The team of a launch record, when a member has entered before. -/
def State.launchTeam (s : State) (launch : Nat) : Option Nat :=
  (s.tasks.find? fun (e : Nat × Task) => e.2.tq.launch = launch).map fun e => e.2.team

/-- The lowest free team number; that of the queue pool is never given (13 R309). -/
def State.freeTeam (s : State) : Nat := (firstFrom 32766 1 fun t => (mfind s.teams t).isNone).getD 0

/-- LEVEL of a domain (04 R108). -/
def domLevel (w : Word) : Nat := fld w 63 62

/-- A task enters the in-flight set (16 R351 to R353). -/
def State.enterTask (s : State) (d t c : Nat) (e : TqEntry) (r : TaskRec) : State :=
  let preds := (s.tasks.filter fun (u : Nat × Task) =>
    decide (u.1 / 2048 = d) && decide (u.2.ctx = c) && ranksBefore u.2 r).map Prod.fst
  let futs := r.inputs.filter fun h => !s.futStale h && (s.future (futSlot h)).state == .pending
  let (team, s) := match s.launchTeam e.launch with
    | some k => (k, s)
    | none =>
      let k := s.freeTeam
      let level := if e.spawned then 0 else domLevel r.domain
      (k, s.setTeam k { die := d, ctx := c, record := e.record, level := level, size := e.members })
  let s := s.setTask t { state := .waiting, ctx := c, team := team, tq := e, rc := r, preds := preds, futPreds := futs, refs := [], slot := none }
  let tm := s.team team
  let s := s.setTeam team { tm with tasks := tm.tasks ++ [t] }
  let f := s.future (futSlot e.handle)
  let s := if s.futStale e.handle then s else s.setFuture (futSlot e.handle) { f with task := some t }
  s.settleReady

/-- A record is refused at entry: its future is reclaimed, and so is every other member of its team (16 R351). -/
def State.refuseEntry (s : State) (d c : Nat) (e : TqEntry) : State :=
  let f := s.future (futSlot e.handle)
  let s := if s.futStale e.handle then s else s.setFuture (futSlot e.handle) { f with state := .reclaimed }
  let s := ((s.countDev d 0).hostEnded e.handle true).dropFutPred e.handle
  let s := s.frontDrop e.handle
  let s := if (s.future (futSlot e.handle)).count = 0 then (s.countZero (futSlot e.handle)).1 else s
  let queued := (mget [] s.taskQ c).filter fun q => decide (q.launch = e.launch)
  let s := queued.foldl (fun s q => s.reclaimQueued c q) s
  let entered := (s.tasks.filter fun (u : Nat × Task) => decide (u.2.tq.launch = e.launch) && u.2.state != .finished).map Prod.fst
  entered.foldl (fun s t => s.reclaimTask t) s

/-- TASK_ENTRY: 16 R351 to R353; 13 R305. Nothing enters on a die whose firmware has stopped (23 R456). -/
def execTaskEntry (die : BitVec 3) (s : State) : Res :=
  .next (
    let d := die.toNat
    if (s.die d).failed then s else
    match s.nextQueue d, s.freeIndex d with
    | some c, some t =>
      match mget [] s.taskQ c with
      | [] => s
      | e :: rest =>
        let x := s.die d
        let s := { s.setDie d { x with lastCtx := c } with taskQ := mput s.taskQ c rest }
        match s.recordAt c e.record with
        | (s, none) => s.refuseEntry d c e
        | (s, some r) => s.enterTask d t c e r
    | _, _ => s)

/-- PREDECESSOR_FINISH: 16 R352, R353; 18 R383. The finish of the task in entry n is counted by its successors, and the entry
leaves the set. -/
def execPredecessorFinish (die : BitVec 3) (n : BitVec 11) (s : State) : Res :=
  .next (
    let t := die.toNat * 2048 + n.toNat
    match mfind s.tasks t with
    | none => s
    | some x =>
      if x.state != .finished then s
      else
        let s := { s with tasks := s.tasks.map fun (e : Nat × Task) => (e.1, { e.2 with preds := e.2.preds.filter fun p => p ≠ t }) }
        (s.dropFutPred x.tq.handle).leaveSet t)

/-! ### Where a team fits (16 R354, R363, R364) -/

/-- CSAARRAY and HANDLER of a die (16 R362). -/
def State.csaArray (s : State) (d : Nat) : Nat := natBits (s.entry 0x17 d) 63 0
def State.trapHandler (s : State) (d : Nat) : Nat := natBits (s.entry 0x17 d) 127 64

/-- A tile as it stands, or as it will stand when the teams that are being removed have gone. -/
def State.tileSoon (s : State) (soon : Bool) (tile : Nat) : Tile :=
  let t := s.tile tile
  if !soon then t
  else
    (s.teams.filter fun (e : Nat × Team) => e.2.state == .stopping || e.2.state == .preempted).foldl (fun (t : Tile) (e : Nat × Team) =>
      let t := { t with owner := (t.granulesOf e.1).foldl (fun m g => mput m g 0#24) t.owner }
      t.dropClaims e.1) t

/-- The free slots of a tile, ascending. -/
def State.freeSlots (s : State) (soon : Bool) (tile : Nat) : List Nat :=
  ((below 8).map fun i => tile * 8 + i).filter fun n =>
    let x := s.slot n
    x.vacant || (soon && match (s.team x.job.team).state with
      | .stopping => x.job.task.isSome
      | .preempted => x.job.task.isSome
      | .waiting => false
      | .resident => false
      | .swapped => false)

/-- Whether members with these declarations fit on a tile. -/
def State.fitsOn (s : State) (soon : Bool) (team tile : Nat) (ds : List Decl) : Bool :=
  decide (ds.length ≤ (s.freeSlots soon tile).length) && ((s.tileSoon soon tile).plan tile team ds).isSome

/-- Whether a tile can give members what they declare once everything but the queue pool is freed (16 R364). -/
def State.couldHold (s : State) (tile : Nat) (ds : List Decl) : Bool :=
  let t := s.tile tile
  let bare : Tile := { owner := t.owner.filter fun (e : Nat × BitVec 24) => decide (fld e.2 14 0 = poolTeam) && e.2.getLsbD 23 }
  decide (ds.length ≤ 8) && (bare.plan tile 0 ds).isSome

/-- Tiles for the members of a team, taken in order from a list of tiles: members of one tile domain together, others one by
one. -/
def assign (level : Nat) (order : List Nat) (ok : Nat → List Decl → Bool) (ds : List Decl) : Option (List (Nat × Decl)) :=
  if level = 0 then (order.find? fun k => ok k ds).map fun k => ds.map fun d => (k, d)
  else
    ds.foldl (fun (acc : Option (List (Nat × Decl))) d => acc.bind fun l =>
      (order.find? fun k => ok k ((l.filter fun p => p.1 = k).map (·.2) ++ [d])).map fun k => l ++ [(k, d)]) (some [])

/-- The tiles that a team may use: those of its home die, and of the other dies for a wider domain; none on a die without a CSA
array (16 R354, R362) or whose firmware has stopped (23 R456). -/
def State.tilesFor (s : State) (t : Team) : List Nat :=
  let dies := t.die :: (if 2 ≤ t.level then (below 8).filter fun d => d ≠ t.die else [])
  (dies.filter fun d => decide (s.csaArray d ≠ 0) && !(s.die d).failed).foldl (fun acc d => acc ++ (below 48).map fun k => d * 48 + k) []

/-- The declarations of a team's members. -/
def State.declsOf (s : State) (t : Team) : List Decl := t.tasks.filterMap fun k => (mfind s.tasks k).map fun (x : Task) => x.tq.decl

/-- Where a team can be placed now. -/
def State.placeOf (s : State) (soon : Bool) (team : Nat) : Option (List (Nat × Decl)) :=
  let t := s.team team
  assign t.level (s.tilesFor t) (s.fitsOn soon team) (s.declsOf t)

/-- Insert a tile into a list ordered by free slots, the most first, and by number. -/
def insertTile (free : Nat → Nat) (k : Nat) : List Nat → List Nat
  | [] => [k]
  | a :: r => if free a < free k || (decide (free a = free k) && decide (k < a)) then k :: a :: r else a :: insertTile free k r

/-- The tiles on which room is made for a team (16 R363, R364). -/
def State.targetsOf (s : State) (team : Nat) : List (Nat × Decl) :=
  let t := s.team team
  let tiles := s.tilesFor t
  let room := fun k ds => decide (List.length ds ≤ (s.freeSlots false k).length) && s.couldHold k ds
  match assign t.level tiles room (s.declsOf t) with
  | some l => l
  | none =>
    let free := fun k => (s.freeSlots false k).length
    (assign t.level (tiles.foldr (fun k l => insertTile free k l) []) s.couldHold (s.declsOf t)).getD []

/-! ### Placement (01 R21; 04 R101; 16 R350, R362) -/

/-- RED_MAX as placed (16 R350; 04 R109). -/
def redMaxOf (v : Nat) : W32 := BitVec.ofNat 32 (if v = 0 then 65536 else if 2 ^ 24 < v then 2 ^ 24 else v)

/-- The CSA of a task (16 R362). -/
def State.csaOf (s : State) (t : Nat) : Nat := s.csaArray (t / 2048) + t % 2048 * 2 ^ 16

/-- Place task t on slot n as member `index` of a team. -/
def State.placeTask (s : State) (n t team : Nat) : State :=
  match mfind s.tasks t with
  | none => s
  | some x =>
    let r := x.rc
    let csa := s.csaOf t
    let dom := if x.tq.spawned then domainOf (BitVec.ofNat 64 (2 ^ 32))
      else BitVec.ofNat 64 (fld r.domain 63 62 * 2 ^ 62 + fld r.domain 55 32 * 2 ^ 32 + x.tq.member)
    let y : SysRegs := {
      stampBase := r.stampBase, slip := min 64 r.slip, iterBudget := r.budget, redMax := redMaxOf r.redMax, domain := dom,
      tenant := BitVec.ofNat 8 (ctxTenant (s.context x.ctx)), ctx := BitVec.ofNat 12 x.ctx,
      cutBase := BitVec.ofNat 64 (csa + 0xD100), csaBase := BitVec.ofNat 64 csa,
      reloc := (below 8).foldl (fun m j => mput m j (x.tq.relocs.getD j 0#64)) [] }
    let job : Job := {
      part := .prologue, trip := r.trip, kernelPc := r.kernel, epiloguePc := r.epilogue, task := some t, team := team,
      reads := r.reads, writes := r.writes, iterStart := s.dcc }
    let s := s.setSlot n { y := y, pc := r.prologue, job := job }
    let s := s.setTask t { x with state := .resident, slot := some n }
    let s := { s with csa := mdel s.csa csa }
    (s.writeVa (.die (dieOf n)) ⟨0, 0, x.ctx, 1⟩ (csa + 0xD100) rW (leBytes 8 (s.trapHandler (n / 384)))).1

/-- The slots for members assigned to tiles: the lowest free slots of each tile, in member order. -/
def State.slotsFor (s : State) (l : List (Nat × Decl)) : List Nat :=
  l.foldl (fun acc p => match (s.freeSlots false p.1).find? fun n => !acc.contains n with
    | some n => acc ++ [n]
    | none => acc) []

/-- Place a team whole (01 R21): granules, claims, registers. -/
def State.placeTeam (s : State) (team : Nat) (l : List (Nat × Decl)) : State :=
  let t := s.team team
  let tenant := ctxTenant (s.context t.ctx)
  let slots := s.slotsFor l
  let tiles := l.foldl (fun acc p => addNew acc p.1) []
  let s := tiles.foldl (fun s k =>
    match (s.tile k).plan k team ((l.filter fun p => p.1 = k).map (·.2)) with
    | some p => s.takePlan tenant team p
    | none => s) s
  let s := (t.tasks.zip slots).foldl (fun s p => s.placeTask p.2 p.1 team) s
  (s.setTeam team { t with state := .resident, slots := slots }).countCtx t.ctx 9

/-! ### Draws of the die scheduler -/

/-- Insert a team into a list ordered by context, then by number (01 R32). -/
def insertTeam (s : State) (k : Nat) : List Nat → List Nat
  | [] => [k]
  | a :: r =>
    if (s.team k).ctx < (s.team a).ctx || (decide ((s.team k).ctx = (s.team a).ctx) && decide (k < a)) then k :: a :: r
    else a :: insertTeam s k r

/-- Whether a team is ready: all its members are, or it was pre-empted or swapped out (16 R354, 20 R414, R415). -/
def State.teamReady (s : State) (team : Nat) : Bool :=
  let t := s.team team
  match t.state with
  | .waiting => decide (t.since ≠ 0)
  | .preempted => (t.tasks.zip t.slots).all fun p => (s.slot p.2).job.task == some p.1 || !s.inFlight p.1
  | .swapped => true
  | .resident => false
  | .stopping => false

/-- Whether a ready team's members fit in free slots of tiles that could give them what they declare (16 R354, R364). -/
def State.teamFits (s : State) (team : Nat) : Bool :=
  let t := s.team team
  match t.state with
  | .waiting =>
    let room := fun k ds => decide (List.length ds ≤ (s.freeSlots false k).length) && s.couldHold k ds
    (assign t.level (s.tilesFor t) room (s.declsOf t)).isSome
  | .preempted => true
  | .swapped => t.slots.all fun n => (s.slot n).vacant
  | .resident => false
  | .stopping => false

/-- The candidates of a die's draw, in order. -/
def State.candidates (s : State) (d : Nat) : List Nat :=
  let ks := ((s.teams.filter fun (e : Nat × Team) => decide (e.2.die = d)).map Prod.fst).filter fun k => s.teamReady k && s.teamFits k
  ks.foldr (fun k l => insertTeam s k l) []

/-- Pre-emption of a resident team is requested (20 R412). -/
def State.askOne (s : State) (team : Nat) : State :=
  let t := s.team team
  if t.state != .resident then s
  else
    let s := s.setTeam team { t with state := .stopping }
    t.slots.foldl (fun s n => s.upSlot n fun x =>
      if x.job.team = team && x.job.task.isSome then
        let x := x.dropReached
        { x with job := { x.job with preemptReq := true } }
      else x) s

/-- The teams whose slots run a pair with a slot of a team (20 R414). -/
def State.pairedTeams (s : State) (team : Nat) : List Nat :=
  (s.team team).slots.filterMap fun n =>
    match (s.tile (tileOf n)).busy with
    | some b => if b.slot = n then (b.feed.bind (·.pair)).map fun m => (s.slot m).job.team else none
    | none => none

/-- Pre-emption of a team is requested, and of a team with which it is in a pair (20 R412, R414). -/
def State.askPreempt (s : State) (team : Nat) : State := (s.pairedTeams team).foldl State.askOne (s.askOne team)

/-- The granules that resident teams of a context hold on a die (16 R363). -/
def State.heldOn (s : State) (d ctx : Nat) : Nat :=
  sumOf ((s.teams.filter fun (e : Nat × Team) => decide (e.2.ctx = ctx) && e.2.state != .waiting && e.2.state != .swapped).map
    fun (e : Nat × Team) => sumOf ((e.2.tiles.filter fun k => decide (k / 48 = d)).map fun k => ((s.tile k).granulesOf e.1).length))

/-- Resident teams with a region on a tile, by their first granule (16 R363). -/
def State.regionsOn (s : State) (tile : Nat) : List Nat :=
  (below 64).foldl (fun acc g =>
    let e := mget 0#24 (s.tile tile).owner g
    if e.getLsbD 23 && (s.team (fld e 14 0)).state == .resident then addNew acc (fld e 14 0) else acc) []

/-- Whether a tile's image can be put back (20 R415): its granules are free, its claims fit, and its accumulator tiles and spill
columns are not in use. -/
def State.imageFits (s : State) (soon : Bool) (i : TileImage) : Bool :=
  let t := s.tileSoon soon i.tile
  i.granules.all t.granFree && i.claims.all t.claimFits &&
  (i.zAlloc.all fun (e : Nat × Option Nat) => e.2.isNone || ((t.allocOf e.1).isNone &&
    (below 64).all fun c => (mget none t.spillCol (e.1 * 64 + c)).isNone)) &&
  (i.zSpill.all fun (e : Nat × Option (Nat × Nat)) => (mget none t.spillCol e.1).isNone && (t.allocOf (e.1 / 64)).isNone)

/-- The tiles on which room is made for a team, and whether it fits there once the teams being removed have gone. -/
def State.roomTiles (s : State) (team : Nat) : List (Nat × Bool) :=
  let t := s.team team
  if t.state == .swapped then
    t.image.map fun i => (i.tile, s.imageFits true i && (t.slots.filter fun n => n / 8 = i.tile).all (s.freeSlots true i.tile).contains)
  else
    let targets := s.targetsOf team
    (targets.foldl (fun acc p => addNew acc p.1) []).map fun k =>
      (k, s.fitsOn true team k ((targets.filter fun p => decide (p.1 = k)).map (·.2)))

/-- One victim is drawn on the first tile that lacks room for a team (16 R363, R364). -/
def State.drawVictim (s : State) (d team : Nat) : State :=
  match ((s.roomTiles team).find? fun p => !p.2 && !(s.regionsOn p.1).isEmpty).map Prod.fst with
  | none => s
  | some k =>
    let all := s.regionsOn k
    let above := all.filter fun v => decide (ctxMinscr (s.context (s.team v).ctx) < s.heldOn (k / 48) (s.team v).ctx)
    let cands := if above.isEmpty then all else above
    match s.victimDraw d (cands.map fun v => (v, s.teamTickets v)) with
    | (s, some v) => s.askPreempt v
    | (s, none) => s

/-- A pre-empted team that is resident runs on where it stopped (20 R411, R414). -/
def State.resumeTeam (s : State) (team : Nat) : State :=
  let t := s.team team
  let s := s.setTeam team { t with state := .resident }
  t.slots.foldl (fun s n =>
    if (s.slot n).job.team = team && (s.slot n).job.preempted then
      (s.upSlot n fun x => { x with job := { x.job with preempted := false } }).resume n none
    else s) s

def State.setPrecede (s : State) (d : Nat) (t : Option Nat) : State :=
  let x := s.die d
  s.setDie d { x with precede := t }

/-- The team that won, or that takes precedence: it is placed, it resumes where it stands, it waits to be swapped in, or room is
made for it. -/
def State.serveTeam (s : State) (d team : Nat) : State :=
  match (s.team team).state with
  | .preempted => (s.resumeTeam team).setPrecede d none
  | .swapped => s.setPrecede d (some team)
  | .waiting =>
    match s.placeOf false team with
    | some l => (s.placeTeam team l).setPrecede d none
    | none =>
      let s := s.setPrecede d (some team)
      if (s.placeOf true team).isSome then s else s.drawVictim d team
  | .resident => s.setPrecede d none
  | .stopping => s

/-- TEAM_PLACEMENT: 01 R21, R32 to R34; 16 R354, R363, R364. -/
def execTeamPlacement (die : BitVec 3) (s : State) : Res :=
  .next (
    let d := die.toNat
    if (s.die d).failed then s else
    match (s.die d).precede with
    | some team =>
      if (mfind s.teams team).isNone then s.setPrecede d none
      else if (s.team team).state == .swapped then s.drawVictim d team
      else s.serveTeam d team
    | none =>
      match s.candidates d with
      | [] => s
      | cs =>
        let (s, i) := s.dieDraw d (cs.map s.teamTickets)
        s.serveTeam d (cs.getD i 0))

/-- STARVATION_EXPIRY: 16 R364. The oldest waiting team takes precedence after 2^STARVELOG cycles. -/
def execStarvationExpiry (die : BitVec 3) (s : State) : Res :=
  .next (
    let d := die.toNat
    let late := 2 ^ natBits (s.entry 0x13 d) 16 12
    let waiting := ((s.teams.filter fun (e : Nat × Team) => decide (e.2.die = d)).map Prod.fst).filter fun k =>
      s.teamReady k && !s.teamFits k
    match (s.die d).precede, minOf (waiting.map fun k => (s.team k).since) with
    | none, some t =>
      if t + late ≤ s.dcc.toNat then s.setPrecede d (waiting.find? fun k => decide ((s.team k).since = t)) else s
    | _, _ => s)

end Sys2Proof.Machine
end

