-- ==== Sys2Proof/Machine/Arbiter.lean ====
section
/-! DEFINITION. The arbiters of engines: who is a candidate, draws, quanta (01 R26, R32 to R35; 05 R135; 16 R358), and the turns of
dispatchers and of LD, ST and SY (01 R16, R26). -/
namespace Sys2Proof.Machine

/-! ### Candidates (01 R32) -/

/-- Whether a near-memory command, or a CPYS, at the head of slot n's CP queue waits (08 R201; 11 R263, R265). -/
def State.cpWaits (s : State) (n : Nat) (en : Entry) (i : Instr) : Bool :=
  let x := s.slot n
  let nm := (x.journal.any fun j => j.isFence) ||
    !s.clearFor n en.ord .nm (((s.accOf n en (x.xNow .cp) i).nm).getD [])
  match i with
  | .nmfence _ _ _ => x.journal.any fun j => j.entry.isNm
  | .cpys _ _ _ _ _ _ _ _ => s.scHolds n en.ord
  | .nmaxpy _ _ _ _ _ _ _ => nm
  | .nmscale _ _ _ _ _ _ => nm
  | .nmfade _ _ _ _ _ _ _ => nm
  | .nmsum _ _ _ _ _ _ => nm
  | .nmfill _ _ _ _ _ _ => nm
  | .nmchk _ _ _ _ _ => nm
  | _ => false

/-- Whether the command at the head of an engine's queue could issue in this cycle if the engine were given to its slot (01 R32). -/
def State.headReady (s : State) (n : Nat) (e : Engine) : Bool :=
  let x := s.slot n
  match (x.eng e).entries with
  | [] => false
  | en :: _ =>
    match decodeEngine (BitVec.ofNat 3 (classOf e)) en.word, decodeCtl (EWord.split en.word) with
    | .ok i, .ok k =>
      en.isEng && x.mayIssue e &&
      (match e with
        | .mx => s.mxGoes n en i
        | .vx => !x.held s.dcc.toNat e k en && (!x.guardFor en k.guard || en.opc != 0x1E0 || (s.spillLoc n (fld en.word 4 0)).isSome)
        | .cp => !x.held s.dcc.toNat e k en && !x.backed e && (!x.guardFor en k.guard || !s.cpWaits n en i)
        | .ld => false
        | .st => false
        | .sy => false)
    | _, _ => false

/-- The slots of a tile. -/
def slotsOf (tile : Nat) : List Nat := (below 8).map fun i => tile * 8 + i

/-! ### Draws and quanta (01 R33 to R35; 16 R358) -/

def Tile.holdOf (t : Tile) : Engine → Option Quantum
  | .mx => t.holdMx
  | .vx => t.holdVx
  | .cp => t.holdCp
  | .ld => none
  | .st => none
  | .sy => none

def Tile.setHold (t : Tile) (e : Engine) (q : Option Quantum) : Tile :=
  match e with
  | .mx => { t with holdMx := q }
  | .vx => { t with holdVx := q }
  | .cp => { t with holdCp := q }
  | .ld => t
  | .st => t
  | .sy => t

/-- Whether an engine arbitrates by draw on a tile now: VX and CP always, MX in DRAWN mode and not while a command runs. -/
def Tile.draws (t : Tile) : Engine → Bool
  | .mx => !t.stamped && t.busy.isNone
  | .vx => true
  | .cp => true
  | .ld => false
  | .st => false
  | .sy => false

/-- Arbiter numbers (01 R34). -/
def arbNum : Engine → Nat
  | .mx => 1 | .vx => 2 | .cp => 3 | .ld => 0 | .st => 0 | .sy => 0

def Tile.drawOf (t : Tile) : Engine → BitVec 56
  | .mx => t.drawMx | .vx => t.drawVx | .cp => t.drawCp | .ld => 0#56 | .st => 0#56 | .sy => 0#56

def Tile.bumpDraw (t : Tile) (e : Engine) : Tile :=
  match e with
  | .mx => { t with drawMx := t.drawMx + 1#56 }
  | .vx => { t with drawVx := t.drawVx + 1#56 }
  | .cp => { t with drawCp := t.drawCp + 1#56 }
  | .ld => t
  | .st => t
  | .sy => t

/-- The tickets of a slot in the draw of an engine (16 R359). -/
def State.arbTickets (s : State) (e : Engine) (n : Nat) : Nat :=
  match e with
  | .vx => s.engTickets n (s.slot n).compVx
  | .cp => s.engTickets n (s.slot n).compCp
  | _ => s.mxTickets n

def Slot.setComp (x : Slot) (e : Engine) (v : Nat) : Slot :=
  match e with
  | .vx => { x with compVx := v }
  | .cp => { x with compCp := v }
  | .mx => x
  | .ld => x
  | .st => x
  | .sy => x

/-- A slot wins an engine: its quantum begins, and its factor is 1 (16 R358). One that has a reduction open already holds MX up to its
MRET (01 R35). -/
def State.giveEngine (s : State) (tile : Nat) (e : Engine) (n : Nat) : State :=
  (s.setTile tile ((s.tile tile).setHold e (some ⟨n, s.dcc.toNat, e == .mx && (s.slot n).redOpen⟩))).upSlot n fun x => x.setComp e 0x10000

/-- The winner of a draw among the candidates of a tile, and the state after it; a lone candidate wins without one (01 R32, R33). -/
def State.winnerOf (s : State) (tile : Nat) (e : Engine) : State × Option Nat :=
  let t := s.tile tile
  match (slotsOf tile).filter fun n => s.headReady n e with
  | [] => (s, none)
  | [n] => (s, some n)
  | cs =>
    let n := cs.getD (winner (cs.map (s.arbTickets e)) (drawValue t.seed (arbNum e) (t.drawOf e))) 0
    ((s.setTile tile (t.bumpDraw e)).countCtx (s.slot n).y.ctx.toNat (5 + arbNum e), some n)

/-- Whether an MMAP stands at the head of a slot's MX queue, its guard true. -/
def State.pairs (s : State) (n : Nat) : Bool :=
  match s.pairHead n with
  | some h => (s.slot n).guardFor h.en h.k.guard
  | none => false

/-- A draw of an engine of a tile that no slot holds. The winner of MX whose head is an MMAP needs the array of the partner tile too: where
that has no holder its own draw is made in the same cycle, and the pair takes both arrays together; where that draw is won by another
command, the winner here gets nothing (10 R244; log 71). -/
def State.drawEngine (s : State) (tile : Nat) (e : Engine) : State :=
  if !(s.tile tile).draws e || ((s.tile tile).holdOf e).isSome then s
  else
    match s.winnerOf tile e with
    | (s, none) => s
    | (t, some n) =>
      let other := tileOf n / 48 * 48 + Nat.xor (tileOf n % 48) 1
      if e == .mx && s.pairs n && (s.tile other).holdMx.isNone then
        match t.winnerOf other .mx with
        | (_, none) => t
        | (u, some m) =>
          let v := u.giveEngine other .mx m
          if s.pairs m then v.giveEngine tile .mx n else v
      else t.giveEngine tile e n

/-- ARBITER_DRAW: 01 R32 to R35. -/
def execArbiterDraw (e : Engine) (s : State) : Res := .next (s.drawEngine (tileOf s.cur) e)

/-- The compensation factor of a quantum that ended after u cycles (16 R358). -/
def compFactor (u : Nat) : Nat := 2 ^ 16 * 256 / max 1 (min 256 u)

/-- Whether the last command dispatched before a YIELD has issued: every command that stands has a later number (05 R135). -/
def Slot.yielded (x : Slot) (e : Engine) : Bool :=
  let done := fun (y : Option Nat) => match y with
    | some p => (x.eng e).entries.all fun en => decide (0 < (en.seq - BitVec.ofNat 32 p).toNat) && decide ((en.seq - BitVec.ofNat 32 p).toNat < 2 ^ 31)
    | none => false
  match e with
  | .vx => done x.yieldVx
  | .cp => done x.yieldCp
  | .mx => false
  | .ld => false
  | .st => false
  | .sy => false

def Slot.endYield (x : Slot) (e : Engine) : Slot :=
  match e with
  | .vx => { x with yieldVx := none }
  | .cp => { x with yieldCp := none }
  | .mx => x
  | .ld => x
  | .st => x
  | .sy => x

/-- The quantum of slot n ends after u cycles: an early end gives compensation (16 R358). -/
def State.endQuantum (s : State) (tile : Nat) (e : Engine) (n u : Nat) : State :=
  (s.setTile tile ((s.tile tile).setHold e none)).upSlot n fun x =>
    if u < 256 then (x.endYield e).setComp e (compFactor u) else x.endYield e

/-- A quantum that was given up ends in the cycle after the last command dispatched before the YIELD has issued (05 R135). -/
def State.yieldEnds (s : State) (tile : Nat) (e : Engine) : State :=
  match (s.tile tile).holdOf e with
  | some q => if (s.slot q.slot).yielded e && decide (q.start < s.dcc.toNat) then s.endQuantum tile e q.slot (s.dcc.toNat - q.start) else s
  | none => s

/-- What ends a quantum with a cycle: VX and CP after 256 cycles, or with an empty queue; MX with an empty queue once nothing of the
winner runs and it has opened no reduction (01 R35). -/
def State.quantumEnds (s : State) (tile : Nat) (e : Engine) : State :=
  match (s.tile tile).holdOf e with
  | none => s
  | some q =>
    let t := s.tile tile
    let u := s.dcc.toNat - q.start
    let empty := ((s.slot q.slot).eng e).entries.isEmpty
    match e with
    | .mx => if !q.opened && t.busy.isNone && empty then s.setTile tile (t.setHold e none) else s
    | _ => if decide (256 ≤ u) || (decide (0 < u) && empty) then s.endQuantum tile e q.slot u else s

/-- QUANTUM_END: 01 R35; 05 R135; 16 R358. -/
def execQuantumEnd (e : Engine) (s : State) : Res := .next ((s.yieldEnds (tileOf s.cur) e).quantumEnds (tileOf s.cur) e)

/-- The engines that arbitrate by draw. -/
def drawnEngines : List Engine := [.mx, .vx, .cp]

/-- The quanta of a tile at the end of a cycle, and those given up at its start. -/
def State.quantaEnd (s : State) (tile : Nat) : State := drawnEngines.foldl (fun s e => s.quantumEnds tile e) s
def State.yieldsEnd (s : State) (tile : Nat) : State := drawnEngines.foldl (fun s e => s.yieldEnds tile e) s

/-! ### Turns (01 R16, R26) -/

/-- The arbiter by turns of a dispatcher, or of LD, ST or SY (`Tile.turns`). -/
def coreTurn (n : Nat) : Nat := n % 8 / 4
def engTurn : Engine → Option Nat
  | .ld => some 2
  | .st => some 3
  | .sy => some 4
  | .vx => none
  | .mx => none
  | .cp => none

/-- The slots that come before slot n in a cyclic order that begins after `last`, among `slots` in ascending order. -/
def aheadOf (slots : List Nat) (last : Option Nat) (n : Nat) : List Nat :=
  let order := match last with
    | some k => (slots.filter fun m => decide (k < m)) ++ (slots.filter fun m => decide (m ≤ k))
    | none => slots
  order.takeWhile (· ≠ n)

/-- Whether slot n is served next: it goes on with its turn, or no slot before it in the order has something ready. -/
def Tile.turnOf (t : Tile) (arb limit : Nat) (slots : List Nat) (n : Nat) (ready : Nat → Bool) : Bool :=
  match mfind t.turns arb with
  | some (k, c) => (decide (k = n) && decide (c < limit)) || (aheadOf slots (some k) n).all fun m => !ready m
  | none => (aheadOf slots none n).all fun m => !ready m

/-- Slot n has been served. -/
def Tile.served (t : Tile) (arb limit n : Nat) : Tile :=
  { t with turns := mput t.turns arb (match mfind t.turns arb with
      | some (k, c) => if k = n ∧ c < limit then (n, c + 1) else (n, 1)
      | none => (n, 1)) }

end Sys2Proof.Machine
end

