-- ==== Sys2Proof/Machine/BaseDie.lean ====
section
/-! DEFINITION. Base dies and stack links (12): requests that reach a base die, messages that come back, the season map, command
parity and replay, training, and faults of links. Messages arrive whole, once and in order (12 R288, R289; log 21). -/
namespace Sys2Proof.Machine

def State.upStack (s : State) (k : Nat) (f : Stack → Stack) : State := s.setStack k (f (s.stack k))

/-- The number in a message's header (12 R290). -/
def hdrBits (mtype : Nat) (h : LinkHdr) : Nat :=
  mtype * 2 ^ 58 + h.flags.toNat * 2 ^ 56 + h.stk.toNat * 2 ^ 52 + h.key.toNat * 2 ^ 42 + h.tag.toNat * 2 ^ 30 + h.uaddr.toNat

/-- An answer is noted. -/
def State.answer (s : State) (kind value : Nat) : State := { s with answers := s.answers ++ [⟨kind, value⟩] }

/-! ### Requests (12 R268 to R271, R274, R278, R291) -/

/-- A request arrives at its base die, after every season map update that was sent before it (12 R283). One that is not served completes
at once (12 R268, R274); another takes a place in the queue of its PC, if there is one, and wakes its region (12 R269; 07 R185). -/
def State.takeReq (s : State) (r : PcReq) : State :=
  let k := r.h.stk.toNat
  let s := s.drainSeasons k
  let pc := pcOf r.key0
  if (s.unserved r.origin r.h.key.toNat r.key0).isSome then s.performReq r
  else if 16 ≤ ((s.stack k).queue pc).length then s
  else
    let i := regionIdx r.key0
    let s := if s.regionSeason i = 0 then s else s.wakeRegion i 3
    { s with regionUse := mput s.regionUse i s.dcc.toNat }.upStack k fun st => { st with queues := mput st.queues pc (st.queue pc ++ [r]) }

/-- READ64: 12 R269, R291. -/
def execRead64 (h : LinkHdr) (s : State) : Res := .next (s.takeReq ⟨h, none, 0⟩)

/-- WRITE64: 12 R269, R271, R291; 08 R207. -/
def execWrite64 (h : LinkHdr) (mask : Word) (data : BitVec 512) (s : State) : Res := .next (s.takeReq ⟨h, some (mask, data), 0⟩)

/-! ### Messages from a stack -/

/-- The oldest message of a stack's link arrives, if `f` takes it. -/
def State.arrive (s : State) (k : Nat) (f : State → LinkMsg → Option State) : State :=
  match (s.stack k).fromStack with
  | [] => s
  | m :: r =>
    match f s m with
    | some s => s.upStack k fun x => { x with fromStack := r }
    | none => s

/-- DATA64: 12 R291. -/
def execData64 (stack : BitVec 4) (s : State) : Res :=
  .next (s.arrive stack.toNat fun s m => match m with
    | .data h d => some (s.answer 0x03 (d.toNat * 2 ^ 64 + hdrBits 0x03 h))
    | _ => none)

/-- WACK: 12 R291. -/
def execWack (stack : BitVec 4) (s : State) : Res :=
  .next (s.arrive stack.toNat fun s m => match m with
    | .wack h => some (s.answer 0x04 (hdrBits 0x04 h))
    | _ => none)

/-- POISON_REPORT: 12 R278; 18 R390. The die that owns the stack counts it. -/
def execPoisonReport (stack : BitVec 4) (s : State) : Res :=
  .next (s.arrive stack.toNat fun s m => match m with
    | .poison _ => some (s.countDev (stack.toNat / 2) 4)
    | _ => none)

/-! ### Season map (12 R282, R283, R291) -/

/-- SEASON_MAP_UPDATE: 12 R283, R291. The oldest update on the link reaches the base die. -/
def execSeasonMapUpdate (stack : BitVec 4) (s : State) : Res := .next (s.takeSeason stack.toNat)

/-! ### Capacity (12 R268, R293, R294) -/

/-- What a base die reports of its stack (12 R293): what the stack is (log 64), its spare rows, its microcode slots, and the temperature at
its last training. -/
def Stack.selfReport (st : Stack) (k : Nat) : CapReport :=
  let b := Config.stackBody k
  let f := fun (w hi lo : Nat) => BitVec.ofNat w (fld b hi lo)
  { height := f 8 127 120, lgroups := f 4 119 116, channels := f 6 115 110, pcs := f 2 109 108, banks := f 5 107 103,
    rows := f 15 102 88, rowBytes := f 12 87 76, regions := f 16 75 60, rate := f 8 59 52,
    spares := BitVec.ofNat 8 (16 - (st.spareUsed.map Prod.snd).foldl max 0), nmSlots := st.nmSlots, keys := f 12 27 16,
    temp := match st.trainTemp with | [] => f 8 15 8 | ts => BitVec.ofNat 8 ((ts.map Prod.snd).foldl max 0), stepping := f 8 7 0 }

/-- CAPACITY_REQUEST: 12 R293. -/
def execCapacityRequest (stack : BitVec 4) (s : State) : Res :=
  .next (s.upStack stack.toNat fun x => { x with fromStack := x.fromStack ++ [.capRep (x.selfReport stack.toNat)] })

/-- A report is taken (12 R294): a stack whose report is not accepted is out of service. -/
def Stack.take (st : Stack) (r : CapReport) : Stack := if capAccepted r then { st with report := some r } else { st with out := true }

/-- Whether accepted stacks report one height. -/
def State.oneHeight (s : State) : Bool :=
  let hs := (below 16).filterMap fun k => if (s.stack k).accepted then (s.stack k).report.map fun r => r.height else none
  hs.all fun a => some a == hs.head?

/-- CAPACITY_REPORT: 12 R294. A package of two heights is not brought up (23 R458 step 4). -/
def execCapacityReport (stack : BitVec 4) (r : CapReport) (s : State) : Res :=
  .next (
    let s := s.upStack stack.toNat fun x =>
      let x := match x.fromStack with
        | .capRep q :: rest => if q = r then { x with fromStack := rest } else x
        | _ => x
      x.take r
    if s.oneHeight || s.mgmt.ready then s else { s with mgmt := { s.mgmt with bootFail := true, bootStep := 4 } })

/-! ### Parity and replay (12 R272 to R275) -/

/-- The device event counter of parity replays of a PC (18 R390). -/
def replayCounter (stack pc : Nat) : Nat := if stack % 2 = 0 then 7 + pc else 71 + pc

def Stack.failPc (st : Stack) (pc : Nat) : Stack :=
  if natBit st.failedPcs pc then st else { st with failedPcs := st.failedPcs + 2 ^ pc }

/-- A PC's bit in the mask of those that ignore commands (12 R272). -/
def Stack.setDeaf (st : Stack) (pc : Nat) (b : Bool) : Stack :=
  { st with deaf := if natBit st.deaf pc == b then st.deaf else if b then st.deaf + 2 ^ pc else st.deaf - 2 ^ pc }

/-- One replay (12 R273): the bank state goes back to what it was before the failing command, parity-clear is sent, and every command from
that one on is issued again in order, with new stamps and the same data. -/
def Stack.replay (st : Stack) (now pc oldest : Nat) : Stack :=
  let h := mget [] st.hist pc
  match h.drop oldest with
  | [] => st
  | c :: r =>
    let st := ({ st.withRows pc c.before with hist := mput st.hist pc (h.take oldest) } : Stack).setDeaf pc false
    (c :: r).foldl (fun (st : Stack) (d : HistCmd) => st.command now d.op d.key d.data) st

/-- Requests in the queue of a PC that has failed complete at once (12 R274). -/
def State.flushPc (s : State) (k pc : Nat) : State := upTo ((s.stack k).queue pc).length (fun _ s => s.serveReq k pc 0) s

/-- ALERT: 12 R272 to R274. The DRAM ignores the PC from command `oldest` of its history on; each replay is counted, and fails again
`parityAgain` times. After four that fail the PC is failed, and the DRAM goes on ignoring it. -/
def execAlert (stack : BitVec 4) (pc : BitVec 6) (oldest : BitVec 5) (parityAgain : BitVec 3) (s : State) : Res :=
  .next (
    let k := stack.toNat
    let p := pc.toNat
    let st := s.stack k
    if natBit st.failedPcs p || (mget [] st.hist p).length ≤ oldest.toNat then s
    else
      let s := upTo (min 4 (parityAgain.toNat + 1)) (fun _ (s : State) =>
        (s.countDev (k / 2) (replayCounter k p)).upStack k fun st => (st.setDeaf p true).replay s.dcc.toNat p oldest.toNat) s
      if 4 ≤ parityAgain.toNat then (s.upStack k fun x => (x.setDeaf p true).failPc p).flushPc k p else s)

/-! ### Training (12 R276) -/

/-- A training of a channel at a temperature: one that cannot be trained leaves its PCs failed (12 R276). -/
def Stack.train (st : Stack) (chan temp : Nat) (trains : Bool) : Stack :=
  let st := { st with trainTemp := mput st.trainTemp chan temp }
  if trains then st else (st.failPc (2 * chan)).failPc (2 * chan + 1)

/-- Whether a request waits on a channel for a region that is out of summer (12 R276). -/
def State.wakeWaits (s : State) (k chan : Nat) : Bool :=
  [2 * chan, 2 * chan + 1].any fun pc => ((s.stack k).queue pc).any fun r => decide (s.regionSeason (regionIdx r.key0) ≠ 0)

/-- CHANNEL_RETRAIN: 12 R276. A channel is trained again when the temperature has moved by 8 °C or more, and not while a request on it
waits for a wake; what its PCs have queued completes at once if they fail. -/
def execChannelRetrain (stack : BitVec 4) (chan : BitVec 5) (temp : BitVec 8) (trains : Bool) (s : State) : Res :=
  .next (
    let k := stack.toNat
    let c := chan.toNat
    let t := temp.toNat
    let due := match mfind (s.stack k).trainTemp c with
      | some u => decide (u + 8 ≤ t) || decide (t + 8 ≤ u)
      | none => true
    if !due || s.wakeWaits k c then s
    else
      let s := s.upStack k fun x => x.train c t trains
      if trains then s else (s.flushPc k (2 * c)).flushPc k (2 * c + 1))

/-! ### Links (12 R285, R288 to R290; 01 R10) -/

/-- FLIT_CRC_FAIL: 12 R288; 18 R390. The sender resends: no message and no order changes, and the replay is counted. -/
def execFlitCrcFail (stack : BitVec 4) (s : State) : Res :=
  .next (s.countDev (stack.toNat / 2) 5)

/-- INTEGRITY_TAG_FAILURE: 12 R289. The link takes a new session key; no message is lost or doubled. -/
def execIntegrityTagFailure (stack : BitVec 4) (s : State) : Res :=
  .next (s.upStack stack.toNat fun x => { x with keys := x.keys + 1, linkUp := true })

/-- STACK_LINK_PROTOCOL_ERROR: 12 R290. The link resets, retrains, and resends what was not acknowledged: it is up, and no message is
lost or doubled. -/
def execStackLinkProtocolError (stack : BitVec 4) (s : State) : Res :=
  .next (s.upStack stack.toNat fun x => { x with linkUp := true })

/-- STACK_RING_LINK_DOWN: 12 R285. -/
def execStackRingLinkDown (stack : BitVec 4) (s : State) : Res :=
  .next (s.upStack stack.toNat fun x => { x with eDown := true })

/-- PACKAGE_RING_LINK_DOWN: 01 R10. Traffic takes the other ring, in order. -/
def execPackageRingLinkDown (die : BitVec 3) (ccw : Bool) (s : State) : Res :=
  .next (
    let x := s.die die.toNat
    s.setDie die.toNat (if ccw then { x with ccwDown := true } else { x with cwDown := true }))

end Sys2Proof.Machine
end

