-- ==== Sys2Proof/Machine/CoreMem.lean ====
section
/-! DEFINITION. The memory accesses of the control core and fences (08 R193, R201, R202; 09 R226 to R229). -/
namespace Sys2Proof.Machine

/-- The checks of R226 for `n` bytes at t with a right (VAs): ALIGN, then R165 or R179, then R176. -/
def State.ccCheck (s : State) (t n right : Nat) : Except Flt (List (Nat × Nat)) := do
  must (decide (t % n = 0)) fAlign t
  let _ ← s.checkAt (s.issuer s.cur) (ccIsVa t) t n right
  .ok (s.keysAt (ccIsVa t) t n)

def homesOf (ks : List (Nat × Nat)) : List Nat := ks.map fun k => homeOf k.1

/-- A read by the control core: its bytes; POISON is precise, with TRAP_INFO t (R226). -/
def State.ccRead (s : State) (t : Nat) (ks : List (Nat × Nat)) : M (State × Nat) := do
  let (s, bs, p) := s.loadKeys s.me.y.ctx.toNat ks
  let s := if ccIsVa t then (s.heat t).fillCore s.cur t else s
  afterF s (must (!p) fPoison t)
  .ok (s, leNat bs)

/-- A write by the control core, performed at once (08 R193) and counted toward the phase (14 R323). -/
def State.ccWrite (s : State) (t n v : Nat) (ks : List (Nat × Nat)) : State :=
  let phase := s.phaseAt s.cur (s.me.ord + 1)
  let s := s.writeKeys s.me.y.ctx.toNat ks (leBytes n v)
  let s := if ccIsVa t then (s.heat t).fillCore s.cur t else s
  s.countInbound s.cur phase ((below n).map (t + ·))

/-- The position in program order of the word being executed. -/
def State.here (s : State) : Nat := s.me.ord + 1

/-- The access of the control core at its position in program order: a fence before it that orders it is waited for (08 R201,
09 R229), and only then is a refusal of the access raised; its bytes otherwise. -/
def State.ccAdmit (s : State) (t n right : Nat) (k : AccKind) : M (List (Nat × Nat)) := do
  need (!s.scHolds s.cur s.here)
  match s.ccCheck t n right with
  | .ok ks =>
    need (!s.fenced s.cur s.here k (homesOf ks))
    .ok ks
  | .error f =>
    need (!s.me.fences.any fun g => decide (g.ord < s.here) && fenceCovers g.kind k && s.fenceHolds s.cur g)
    liftF (.error f)

/-- Bytes of a size code (03 R72). -/
def csizeBytes : CSize → Nat
  | .b | .bn => 1
  | .h | .hn => 2
  | .w | .wn => 4
  | .d => 8

/-- The extension of LDC (09 R227). -/
def ldcExtend (sz : CSize) (v : Nat) : Word :=
  match sz with
  | .b => BitVec.ofInt 64 (asInt 8 v)
  | .h => BitVec.ofInt 64 (asInt 16 v)
  | .w => BitVec.ofInt 64 (asInt 32 v)
  | _ => BitVec.ofNat 64 v

/-- A load of the control core from an address to S[d]. -/
def State.ldcAt (s : State) (sz : CSize) (d : BitVec 5) (t : Nat) : M State := do
  let ks ← s.ccAdmit t (csizeBytes sz) rR .load
  let (s, v) ← s.ccRead t ks
  .ok (s.upMe fun x => x.setS d (ldcExtend sz v))

/-- A store of the control core of S[d]. -/
def State.stcAt (s : State) (sz : CSize) (d : BitVec 5) (t : Nat) : M State := do
  let n := csizeBytes sz
  let ks ← s.ccAdmit t n rW .store
  .ok (s.ccWrite t n (s.me.getS d).toNat ks)

/-- LDC: 09 R227. -/
def execLdc (sz : CSize) (d a : BitVec 5) (imm : BitVec 12) (s : State) : Res :=
  s.directM [d, a] [] 0 4 fun s => s.ldcAt sz d (s.me.getS a + sext64 imm).toNat

/-- LDC, long form: 09 R227; two words. -/
def execLdcLong (sz : CSize) (d a : BitVec 5) (disp : W32) (s : State) : Res :=
  s.directM [d, a] [] 7 8 fun s => s.ldcAt sz d (s.me.getS a + sext64 disp).toNat

/-- STC: 09 R227. -/
def execStc (sz : CSize) (d a : BitVec 5) (imm : BitVec 12) (s : State) : Res :=
  s.directM [d, a] [] 0 4 fun s => s.stcAt sz d (s.me.getS a + sext64 imm).toNat

/-- STC, long form: 09 R227. -/
def execStcLong (sz : CSize) (d a : BitVec 5) (disp : W32) (s : State) : Res :=
  s.directM [d, a] [] 7 8 fun s => s.stcAt sz d (s.me.getS a + sext64 disp).toNat

/-- AMO: 09 R228; it acts as FENCE.LS at its scope on each side (08 R202). -/
def execAmo (op : AmoOp) (dword : Bool) (scope : Scope) (d a b : BitVec 5) (s : State) : Res :=
  s.directM [d, a, b] [] 0 4 fun s => do
    let n := if dword then 8 else 4
    let t := (s.me.getS a).toNat
    need (!s.fenceHolds s.cur ⟨s.here, .ls, scope⟩)
    let ks ← s.ccAdmit t n rA .both
    let (s, old) ← s.ccRead t ks
    let v := fun (w : Word) => w.toNat % 2 ^ (8 * n)
    let new := amoNew op (8 * n) false old (v (s.me.getS b)) (v (s.me.getS d))
    let s := s.ccWrite t n new ks
    .ok (s.upMe fun x => x.setS d (BitVec.ofInt 64 (asInt (8 * n) old)))

/-- FENCE: 08 R201, 09 R229. It takes its position in program order; what it orders is held by `State.fenced`. -/
def execFence (kind : FenceKind) (scope : Scope) (s : State) : Res :=
  .next (s.upMe fun x => { x.advance 4 with fences := x.fences ++ [⟨x.ord + 1, kind, scope⟩], ord := x.ord + 1 })

end Sys2Proof.Machine
end

