-- ==== Sys2Proof/Machine/Sync.lean ====
section
/-! DEFINITION. Queue and synchronisation instructions (14): hardware queues (13 R306 to R310), ENQR (R320, 18 R388), token
routing, rendezvous, domain phases (18 R386, R387), and WAITC. -/
namespace Sys2Proof.Machine

/-! ### Order of SY entries (08 R192, R198, R201) -/

/-- Wait until an SY entry may read or update an object (08 R198, R201). -/
def State.syReady (s : State) (en : Entry) (sc : Scope) (d : Nat) (k : AccKind) : M Unit :=
  need (s.pushClear s.cur sc en.ord && !s.fenced s.cur en.ord k [dieHome d])

/-- The scope of an object homed on die d (18 R380, R382). -/
def State.dieScope (s : State) (d : Nat) : Scope := if d = dieOf s.cur then .d else .p

/-- The home die of the context of the slot that moves (16 R347). -/
def State.myDie (s : State) : Nat := s.dieOfCtx s.cur

def State.wantP (s : State) (p : BitVec 3) (b : Bool) : State := s.upMe fun x => x.setP p b
def State.wantS (s : State) (r : BitVec 5) (v : Word) : State := s.upMe fun x => x.setS r v

/-- An event that ends the wait of the entry that SY executes (14 R316). -/
def State.syEvent (s : State) (body : Instr → Option (State → Entry → M State)) : Res :=
  .next (
    match s.me.e.sy.active with
    | none => s
    | some en =>
      match en.cmd with
      | .sy i =>
        match body i with
        | none => s
        | some f =>
          if s.me.job.stopped || s.me.job.preempted || s.me.drain.isSome then s
          else
            match f s en with
            | .error .wait => s
            | .error (.fault flt) => s.raiseEng s.cur .sy flt en.tag
            | .error (.after t flt) => t.raiseEng s.cur .sy flt en.tag
            | .ok s => s.upMe fun x => x.finish .sy en
      | .eng _ => s
      | .movx _ _ => s)

/-! ### Queue records (13 R306, R307) -/

def qValid (q : Nat) : Bool := natBit q 127
def qSwapped (q : Nat) : Bool := natBit q 126
def qEsize (q : Nat) : Nat := 8 * 2 ^ natBits q 125 124
def qCap (q : Nat) : Nat := 2 ^ natBits q 123 120
def qTenant (q : Nat) : Nat := natBits q 119 112
def qGen (q : Nat) : Nat := natBits q 111 100
def qHead (q : Nat) : Nat := natBits q 63 48
def qTail (q : Nat) : Nat := natBits q 47 32
def qOcc (q : Nat) : Nat := (qTail q + 2 ^ 16 - qHead q) % 2 ^ 16
def qScope (q : Nat) : Scope :=
  match natBits q 99 98 with
  | 0 => .t | 1 => .d | 2 => .p | _ => .f

def handleGen (h : Nat) : Nat := (h / 2 ^ 5) % 4096

/-- The record that a handle names. -/
def State.queueOf (s : State) (h : Nat) : Nat := s.entry 0x16 (queueKey h)

/-- Whether a handle is stale (13 R306). -/
def State.queueStale (s : State) (h : Nat) : Bool :=
  let q := s.queueOf h
  decide (h % 32 ≠ 0) || !qValid q || decide (qGen q ≠ handleGen h)

/-- The checks of an operation on a queue by tenant t (14 R317). -/
def State.queueCheck (s : State) (t h : Nat) : M Unit := do
  liftF (must (!s.queueStale h) fQueue h)
  liftF (must (decide (qTenant (s.queueOf h) = t)) fOwner h)

/-- The bytes of an entry are held under (queue × 2^16 + count) in `qdata`. -/
def qSlotKey (k count : Nat) : Nat := k * 2 ^ 16 + count % 2 ^ 16

/-- Append an entry to a queue that has room (14 R317). -/
def State.qPush (s : State) (k : Nat) (v : BitVec 512) : State :=
  let q := s.entry 0x16 k
  { s.setEntry 0x16 k (natSetBits q 47 32 (qTail q + 1)) with qdata := mput s.qdata (qSlotKey k (qTail q)) v }

/-- The entry at the head of a queue. -/
def State.qFront (s : State) (k : Nat) : BitVec 512 := mget 0#512 s.qdata (qSlotKey k (qHead (s.entry 0x16 k)))

/-- Remove the entry at the head. -/
def State.qPop (s : State) (k : Nat) : State :=
  let q := s.entry 0x16 k
  { s.setEntry 0x16 k (natSetBits q 63 48 (qHead q + 1)) with qdata := mdel s.qdata (qSlotKey k (qHead q)) }

/-- The last-actor fields (16 R355). -/
def State.nameActor (s : State) (k : Nat) (enq : Bool) (t : Option Nat) : State :=
  let a := mget (none, none) s.qActors k
  { s with qActors := mput s.qActors k (if enq then (t, a.2) else (a.1, t)) }

/-! ### ENQ, DEQ, PEEK, QSTAT (14 R317 to R319) -/

/-- The address checks of an IND form (14 R318): the keys of ESIZE bytes, once the earlier stores to them are performed. -/
def State.indKeys (s : State) (en : Entry) (b : BitVec 5) (size right : Nat) (k : AccKind) : M (List (Nat × Nat)) := do
  let t := (en.cap b).toNat
  let ks ← liftF (s.ccCheck t size right)
  need (s.pushClear s.cur (narrowest s.cur (homesOf ks)) en.ord && !s.fenced s.cur en.ord k (homesOf ks))
  .ok ks

/-- ENQ: 14 R317, R318. -/
def execEnq (d : BitVec 3) (a b : BitVec 5) (ind : Bool) (s : State) : Res :=
  s.sync (.enq d a b ind) [a, b] { pd := some d } fun s en => do
    let h := handleOf (en.cap a)
    let k := queueKey h
    let q := s.queueOf h
    s.syReady en (if qValid q then qScope q else .p) (k / 4096) .store
    s.queueCheck s.me.y.tenant.toNat h
    let (s, v) ← (if ind then do
        let ks ← s.indKeys en b (qEsize q) rR .load
        let t := (en.cap b).toNat
        let (s, bs, _) := s.loadKeys s.me.y.ctx.toNat ks
        let s := if ccIsVa t then s.heat t else s
        match s.firstPoison ks with
        | some i => .error (.after s ⟨fPoison, t + i⟩)
        | none => .ok (s, BitVec.ofNat 512 (leNat bs))
      else .ok (s, (en.cap b).setWidth 512))
    if qOcc q = qCap q then .ok (s.wantP d false)
    else .ok (((s.qPush k v).nameActor k true s.me.job.task).wantP d true)

/-- DEQ and PEEK (14 R317, R318): `take` says whether the entry is removed. -/
def State.dequeue (s : State) (en : Entry) (d a b : BitVec 5) (ind : Bool) (p : BitVec 3) (take : Bool) : M State := do
  let h := handleOf (en.cap a)
  let k := queueKey h
  let q := s.queueOf h
  s.syReady en (if qValid q then qScope q else .p) (k / 4096) .load
  s.queueCheck s.me.y.tenant.toNat h
  let ks ← (if ind then s.indKeys en b (qEsize q) rW .store else .ok [])
  if qOcc q = 0 then .ok ((s.wantP p false).wantS d 0#64)
  else do
    let e := s.qFront k
    let t := (en.cap b).toNat
    let s := if ind then s.writeKeys s.me.y.ctx.toNat ks (leBytes (qEsize q) e.toNat) else s
    let s := if ind && ccIsVa t then s.heat t else s
    let s := if take then (s.qPop k).nameActor k false s.me.job.task else s
    .ok ((s.wantS d (e.setWidth 64)).wantP p true)

/-- DEQ: 14 R317, R318. -/
def execDeq (d a b : BitVec 5) (ind : Bool) (p : BitVec 3) (s : State) : Res :=
  s.sync (.deq d a b ind p) [a, b] { sd := some d, pd := some p } fun s en => s.dequeue en d a b ind p true

/-- PEEK: 14 R317, R318. -/
def execPeek (d a b : BitVec 5) (ind : Bool) (p : BitVec 3) (s : State) : Res :=
  s.sync (.peek d a b ind p) [a, b] { sd := some d, pd := some p } fun s en => s.dequeue en d a b ind p false

/-- QSTAT: 14 R319. -/
def execQstat (d a : BitVec 5) (s : State) : Res :=
  s.sync (.qstat d a) [a] { sd := some d } fun s en => do
    let h := handleOf (en.cap a)
    let q := s.queueOf h
    s.syReady en (if qValid q then qScope q else .p) (queueKey h / 4096) .load
    s.queueCheck s.me.y.tenant.toNat h
    .ok (s.wantS d (BitVec.ofNat 64 (b2n (qSwapped q) * 2 ^ 34 + natBits q 125 124 * 2 ^ 32 + qCap q * 2 ^ 16 + qOcc q)))

/-! ### ENQR (14 R320; 18 R388) -/

/-- ENQR: 14 R320. A packet that its stream has no room for has not left (22 R446). -/
def execEnqr (d : BitVec 3) (a b : BitVec 5) (c : BitVec 4) (s : State) : Res :=
  s.sync (.enqr d a b c) [a, b] { pd := some d } fun s en => do
    let v := (en.cap a).toNat
    let n := s.cur
    need (s.pushClear n .f en.ord && !s.fenced n en.ord .store [farHome (v / 2 ^ 32 % 4096)])
    liftF (must (decide (v < 2 ^ 44)) fIllegal 0)
    let w := v / 2 ^ 32
    let e ← liftF (s.checkWindow n s.me.y.tenant.toNat (w * 2 ^ 40) [(0, 0)] 125)
    let st := s.station (stationFor (winNode e) (dieOf n))
    if st.freeCredit (s.vfOfCtx s.me.y.ctx.toNat) = 0 then .ok (s.wantP d false)
    else do
      need (decide (st.streamOut (streamOf (dieOf n) 0 (winNode e)) < 1024))
      .ok ((s.request n (.enqr c) w 0 .enqr 0xFF#64 ((en.cap b).setWidth 512) (BitVec.ofNat 32 (handleOf (en.cap a)))).wantP d true)

/-- The place of an outcome in a remote-status counter (18 R388). -/
def outcomeLo : EnqrOutcome → Nat
  | .ok => 48 | .full => 32 | .gone => 16 | .denied => 0

/-- Add an outcome to its field, which stays at its top (18 R388). -/
def countOutcome (w : Word) (o : EnqrOutcome) : Word :=
  let lo := outcomeLo o
  if fld w (lo + 15) lo = 0xFFFF then w else w + BitVec.ofNat 64 (2 ^ lo)

/-- The oldest outcome that returned to a slot is counted. -/
def Slot.takeOutcome (x : Slot) : Slot :=
  match x.outcomes with
  | [] => x
  | (c, o) :: r => { x with outcomes := r, rsc := mput x.rsc c.toNat (countOutcome (mget 0#64 x.rsc c.toNat) o) }

/-- ENQR_OUTCOME: 14 R320, 18 R388. -/
def execEnqrOutcome (s : State) : Res :=
  .next (s.upMe Slot.takeOutcome)

/-! ### Token routing (14 R321) -/

/-- The engine of a TOKP code. -/
def tokEngine (c : BitVec 3) : Option Engine :=
  match c.toNat with
  | 0 => some .ld | 1 => some .st | 2 => some .vx | 3 => some .mx | 4 => some .cp | _ => none

/-- Whether an engine may take a FIFO in a direction. -/
def tokAllowed (e : Engine) (out : Bool) (f : BitVec 3) : Bool :=
  f == 0#3 ||
  (match e, out with
    | .ld, true => [1, 2]
    | .st, false => [3, 4]
    | .vx, false => [1, 5]
    | .vx, true => [3, 7]
    | .mx, false => [2, 6, 7]
    | .mx, true => [4]
    | .cp, true => [5, 6]
    | _, _ => []).contains f.toNat

/-- TOKP: 14 R321. The routing changes when the word is dispatched. -/
def execTokp (eng fifo : BitVec 3) (out : Bool) (s : State) : Res :=
  match s.phase with
  | .dispatch =>
    .next (match tokEngine eng with
      | none => s.raiseWord ⟨fIllegal, 0⟩ 6
      | some e =>
        if !tokAllowed e out fifo then s.raiseWord ⟨fIllegal, 0⟩ 6
        else if !s.me.room .sy then s
        else (s.submit (.tokp eng fifo out) [] {}).upMe fun x =>
          if out then { x with routePush := mput x.routePush (classOf e) fifo }
          else { x with routePop := mput x.routePop (classOf e) fifo })
  | .issue _ => s.sync (.tokp eng fifo out) [] {} fun s _ => .ok s

/-! ### Rendezvous (14 R322) -/

/-- Whether the RNDV that SY executes may retire. -/
def State.rndvMay (s : State) : Bool :=
  let x := s.me
  ([Engine.ld, .st, .vx, .mx, .cp].all fun e => (x.eng e).entries.isEmpty && (x.eng e).active.isNone) && x.loads.isEmpty && x.storeQ.isEmpty &&
  (match (s.tile (tileOf s.cur)).busy with | some b => decide (b.slot ≠ s.cur) | none => true) &&
  x.journal.isEmpty && x.replay.isEmpty && x.ldq.isEmpty && !x.redOpen

/-- RNDV retires, and dispatch goes on. -/
def State.rndvBody (s : State) (_ : Entry) : M State := do
  need s.rndvMay
  .ok (s.upMe fun x => match x.hold with
    | .rndv => { x with hold := .free }
    | .free => x
    | .region _ => x
    | .arb _ _ => x)

/-- RNDV: 14 R322. -/
def execRndv (s : State) : Res :=
  match s.phase with
  | .dispatch =>
    .next (if !s.me.room .sy then s else (s.submit .rndv [] {}).upMe fun x => { x with hold := .rndv })
  | .issue _ => s.sync .rndv [] {} State.rndvBody

/-- RNDV_RETIRE: 14 R322. -/
def execRndvRetire (s : State) : Res :=
  s.syEvent fun i => match i with
    | .rndv => some State.rndvBody
    | _ => none

/-! ### Domain phases (14 R323 to R326; 18 R386, R387; 08 R205) -/

/-- An arrival with E expected bytes (18 R387); a saturated count is more than any E. `tag` is that of the word that arrives. -/
def DomCounts.arrive (d : DomCounts) (e : W32) (tag : Word) : DomCounts :=
  let short := decide (e.toNat < d.rx.toNat) || d.rx == BitVec.allOnes 32
  { d with arrived := true, rx := if short then 0#32 else e - d.rx, overrun := d.overrun || short, due := none, tag := tag }

/-- The close of a phase (18 R387); `due` says that its SYNC.W has still to come. -/
def DomCounts.close (d : DomCounts) (above due : Bool) : DomCounts :=
  { phase := d.phase + 1#32, rx := if above then 0#32 else BitVec.ofNat 32 d.rxNext, due := if due then some d.phase else none }

def Entry.arrivedIn (en : Entry) : Bool := (mfind en.caps capPhase).isSome

/-- The entry that SY executes waits for the close of its phase (14 R326). -/
def Slot.markArrived (x : Slot) (en : Entry) : Slot :=
  x.setEng .sy { x.e.sy with active := some { en with caps := mput en.caps capPhase (x.dom.phase.setWidth 64) } }

/-- The arrival of a SYNC or an ARRIVE: a release at the domain's scope (08 R205), and ILLEGAL for a second arrival in one phase. -/
def State.arriveBody (s : State) (en : Entry) (a : BitVec 5) : M State := do
  let sc := scopeOfDomain en.domain
  need (s.pushClear s.cur sc en.ord && !s.fenced s.cur en.ord .store [scopeHome s.cur sc])
  liftF (must (!s.me.dom.arrived) fIllegal 0)
  .ok (s.upMe fun x => { x with dom := x.dom.arrive ((en.cap a).setWidth 32) en.tag })

/-- SYNC: 14 R324. It arrives, and waits for the close; it is an acquire until then (08 R205; `Slot.syncHolds`). -/
def execSync (a : BitVec 5) (s : State) : Res :=
  match s.phase with
  | .dispatch => .next (s.submit (.sync a) [a] {})
  | .issue en =>
    .next (
      if en.arrivedIn then s
      else
        match s.arriveBody en a with
        | .error .wait => s
        | .error (.fault f) => s.raiseEng s.cur .sy f en.tag
        | .error (.after t f) => t.raiseEng s.cur .sy f en.tag
        | .ok s => s.upMe fun x => x.markArrived en)

/-- SYNC_W: 14 R324. The wait of an ARRIVE of the same phase; a phase that has closed already ends it. -/
def execSyncW (s : State) : Res :=
  match s.phase with
  | .dispatch => .next (s.submit .syncW [] {})
  | .issue en =>
    .next (
      if en.arrivedIn then s
      else if s.me.dom.arrived then s.upMe fun x => x.markArrived en
      else if s.me.dom.due.isNone then s.raiseEng s.cur .sy ⟨fIllegal, 0⟩ en.tag
      else s.upMe fun x => ({ x with dom := { x.dom with due := none } }).finish .sy en)

/-- ARRIVE: 14 R324. -/
def execArrive (a : BitVec 5) (s : State) : Res :=
  s.sync (.arrive a) [a] {} fun s en => s.arriveBody en a

/-- The members in this package of the domain that the phase of team `team` belongs to (14 R324): the slot itself where COUNT is 0 or
1. -/
def State.domMembers (s : State) (team : Nat) : List Nat :=
  let t := s.team team
  if s.me.job.team = team && (!s.me.shared || t.slots.isEmpty) then [s.cur] else t.slots

/-- Whether the domain has members in other packages: a ring domain whose COUNT is above the members here. -/
def Slot.ringWide (x : Slot) (here : Nat) : Bool := decide (fld x.y.domain 63 62 = 3) && decide (here < fld x.y.domain 55 32)

/-- The members in other packages, of which the spec gives no message: 0 where one has not arrived or has bytes pending, 1 where all
have arrived and none is pending, 2 where all have arrived and one overran (log 78). -/
def State.farMembers (s : State) (team : Nat) : Nat := (Config.farPhase s.freeCtr team).toNat

/-- The SYNC or SYNC.W of a phase that closes retires, wherever SY has it. -/
def Slot.endSync (x : Slot) (en : Entry) : Slot :=
  let q := x.e.sy
  (x.setEng .sy { q with
    active := q.active.filter fun e => decide (e.seq ≠ en.seq)
    entries := q.entries.filter fun e => decide (e.seq ≠ en.seq) }).retire .sy en.seq

/-- Close the phase at one member: its SYNC or SYNC.W retires, and an overrun is raised after that (14 R325, 18 R389). -/
def State.closeAt (s : State) (above : Bool) (n : Nat) : State :=
  let x := s.slot n
  let wait := (x.e.sy.active.toList ++ x.e.sy.entries).find? Entry.arrivedIn
  let s := s.upSlot n fun x =>
    let x := { x with dom := x.dom.close above wait.isNone }
    match wait with
    | some en => x.endSync en
    | none => x
  if above then
    (s.countCtx x.y.ctx.toNat 2).raiseLate n .sy ⟨fPhase, x.dom.phase.toNat⟩ ((wait.map (·.tag)).getD x.dom.tag)
  else s

/-- PHASE_CLOSE: 14 R324, R325. Every member has arrived, none is at a trap, and no byte is pending or the phase overran. -/
def execPhaseClose (team : Nat) (s : State) : Res :=
  .next (
    let ms := s.domMembers team
    let here := fun (n : Nat) =>
      let x := s.slot n
      x.dom.arrived && !x.y.inTrap && x.drain.isNone && !x.job.stopped && !x.job.preempted
    let wide := ms.any fun n => (s.slot n).ringWide ms.length
    let far := if wide then s.farMembers team else 1
    let above := (ms.any fun n => (s.slot n).dom.overrun) || decide (far = 2)
    if ms.isEmpty || !ms.all here || far = 0 || 2 < far || !(above || ms.all fun n => (s.slot n).dom.rx = 0#32) then s
    else ms.foldl (fun s n => s.closeAt above n) s)

/-! ### WAITC (14 R327) -/

/-- WAITC on the counter as it stands. -/
def waitcBody (d : BitVec 3) (a : BitVec 5) (id : BitVec 8) (s : State) (en : Entry) : M State := do
  let die := s.myDie
  s.syReady en (s.dieScope die) die .load
  let w := s.counter s.me.y.ctx.toNat id.toNat
  need (ctrErr w || decide ((en.cap a).toNat ≤ ctrValue w))
  .ok (s.wantP d (!ctrErr w))

/-- WAITC: 14 R327. -/
def execWaitc (d : BitVec 3) (a : BitVec 5) (id : BitVec 8) (s : State) : Res :=
  s.sync (.waitc d a id) [a] { pd := some d } (waitcBody d a id)

/-- WAITC_SATISFIED: 14 R327. -/
def execWaitcSatisfied (s : State) : Res :=
  s.syEvent fun i => match i with
    | .waitc d a id => some (waitcBody d a id)
    | _ => none

/-! ### The queue pool (13 R309, R310; 16 R365) -/

/-- Bytes of a queue's contents. -/
def qBytes (q : Nat) : Nat := qEsize q * qCap q
def qOff (q : Nat) : Nat := natBits q 31 0

/-- The queues of a die that are resident. -/
def State.residentQueues (s : State) (d : Nat) : List Nat :=
  (s.tab.filter fun (e : Nat × Nat) =>
    decide (e.1 / 2 ^ 44 = 0x16) && decide (e.1 % 2 ^ 44 / 4096 = d) && qValid e.2 && !qSwapped e.2).map fun e => e.1 % 2 ^ 44

/-- The lowest offset of the pool at which `len` bytes are free (log 16). -/
def State.poolRoom (s : State) (d len : Nat) : Option Nat :=
  let size := (s.die d).pool * 65536
  let used := (s.residentQueues d).map fun k => let q := s.entry 0x16 k; (qOff q, qBytes q)
  let starts := 0 :: used.map fun p => p.1 + p.2
  minOf (starts.filter fun o => decide (o + len ≤ size) && used.all fun p => decide (o + len ≤ p.1) || decide (p.1 + p.2 ≤ o))

def State.tenantShare (s : State) (d t : Nat) : Nat := natBits (s.entry 0x14 (d * 256 + t)) 6 0 * 65536

/-- Bytes of the resident queues of a tenant on a die. -/
def State.tenantBytes (s : State) (d t : Nat) : Nat :=
  sumOf (((s.residentQueues d).filter fun k => qTenant (s.entry 0x16 k) = t).map fun k => qBytes (s.entry 0x16 k))

/-- The tickets that a queue carries in a victim draw (16 R365). -/
def State.queueTickets (s : State) (d k : Nat) : Nat :=
  let t := qTenant (s.entry 0x16 k)
  let cs := s.activeCtxs.filter fun c => decide (ctxTenant (s.context c) = t) && decide (ctxDie (s.context c) = d)
  match minOf cs with
  | some c => max 1 (s.eff c)
  | none => 1

/-- Swap a queue out: its contents move whole to its backing store (13 R310). -/
def State.swapQueueOut (s : State) (d k : Nat) : State :=
  ({ s.setEntry 0x16 k (natSetBits (natSetBits (s.entry 0x16 k) 126 126 1) 31 0 0) with qSwaps := s.qSwaps ++ [k] }).countDev d 6

/-- Insert a queue into a list in ascending order of first granule; those of one granule stay in the order of their indices (16 R363;
log 79). -/
def State.insertQueue (s : State) (k : Nat) : List Nat → List Nat
  | [] => [k]
  | a :: r => if qOff (s.entry 0x16 k) / 65536 ≤ qOff (s.entry 0x16 a) / 65536 then k :: a :: r else a :: s.insertQueue k r

/-- One victim of the pool for a queue of tenant t that needs room (13 R310). -/
def State.poolVictim (s : State) (d t len : Nat) : State :=
  let all := (s.residentQueues d).foldr s.insertQueue []
  let above := all.filter fun k => decide (s.tenantShare d (qTenant (s.entry 0x16 k)) < s.tenantBytes d (qTenant (s.entry 0x16 k)))
  let cands := if !above.isEmpty then above else if s.tenantBytes d t + len ≤ s.tenantShare d t then all else []
  match s.victimDraw d (cands.map fun k => (k, s.queueTickets d k)) with
  | (s, some k) => s.swapQueueOut d k
  | (s, none) => s

/-- Victims are swapped out until there is room, with fuel (13 R310). -/
def State.makePoolRoom (s : State) (d t len : Nat) : Nat → State
  | 0 => s
  | fuel + 1 =>
    if (s.poolRoom d len).isSome then s
    else
      let s2 := s.poolVictim d t len
      if s2.residentQueues d = s.residentQueues d then s else s2.makePoolRoom d t len fuel

/-- The oldest swapped queue of a die that satisfies p. -/
def State.oldestSwap (s : State) (d : Nat) (p : Nat → Bool) : Option Nat := s.qSwaps.find? fun k => decide (k / 4096 = d) && p k

/-- QUEUE_SWAP_OUT: 13 R310, 16 R365. A victim makes room for the oldest swapped queue of the tenant. -/
def execQueueSwapOut (die : BitVec 3) (tenant : BitVec 8) (s : State) : Res :=
  .next (
    let d := die.toNat
    match s.oldestSwap d fun k => decide (qTenant (s.entry 0x16 k) = tenant.toNat) with
    | none => s
    | some k =>
      let len := qBytes (s.entry 0x16 k)
      if (s.poolRoom d len).isSome then s else s.poolVictim d tenant.toNat len)

/-- QUEUE_SWAP_IN: 13 R310. The oldest swapped queue that has room within its tenant's share returns. -/
def execQueueSwapIn (die : BitVec 3) (s : State) : Res :=
  .next (
    let d := die.toNat
    let fits := fun (k : Nat) =>
      let q := s.entry 0x16 k
      (s.poolRoom d (qBytes q)).isSome && decide (s.tenantBytes d (qTenant q) + qBytes q ≤ s.tenantShare d (qTenant q))
    match s.oldestSwap d fits with
    | none => s
    | some k =>
      let q := s.entry 0x16 k
      let s := { s with qSwaps := s.qSwaps.filter fun j => j ≠ k }
      (s.setEntry 0x16 k (natSetBits (natSetBits q 126 126 0) 31 0 ((s.poolRoom d (qBytes q)).getD 0))).countDev d 6)

end Sys2Proof.Machine
end

