-- ==== Sys2Proof/Machine/Fabric.lean ====
section
/-! DEFINITION. A bridge station (22): what it does with slots that arrive, the release of requests in stream order and their
performance at this package, responses, allowances, gone notices, drain tokens, and failures of ports and rings. Link CRC, replay
buffers and lanes are below the model (log 21). -/
namespace Sys2Proof.Machine

def State.upStation (s : State) (k : Nat) (f : Station → Station) : State := s.setStation k (f (s.station k))

/-- A slot leaves a station. -/
def State.emit (s : State) (k : Nat) (r : RingSlot) : State := s.upStation k fun st => { st with sent := st.sent ++ [r] }

/-! ### Answers to inbound requests (22 R445, R447, R450, R451) -/

/-- The header of what a station sends back for a request of header h: to its origin, in the stream of that class (22 R443). -/
def State.backHdr (s : State) (k cls : Nat) (h : SlotHdr) : SlotHdr :=
  let seq := mget 0#16 (s.station k).sendSeq (streamOf h.srcDie.toNat cls h.srcNode.toNat)
  { h with pass2 := false, ret := false, srcNode := BitVec.ofNat 12 s.ownNode, dstNode := h.srcNode, seq := seq }

/-- Send back an operation of a class. -/
def State.sendBack (s : State) (k cls : Nat) (op : SlotOp) (h : SlotHdr) (data : BitVec 512) (poison : BitVec 2) : State :=
  let b := s.backHdr k cls h
  (s.emit k { op := op, h := b, data := data, poison := poison }).upStation k fun st =>
    { st with sendSeq := mput st.sendSeq (streamOf h.srcDie.toNat cls h.srcNode.toNat) (b.seq + 1#16) }

/-- The one response of a request, and the return of its credit (22 R450). -/
def State.respondTo (s : State) (k : Nat) (op : SlotOp) (h : SlotHdr) (data : BitVec 512) (poison : BitVec 2) : State :=
  (s.sendBack k 2 op h data poison).sendBack k 3 .allow h 0#512 0#2

/-! ### Checks at the target (15 R338; 22 R451) -/

def mmuTenant (e : Nat) : Nat := natBits e 123 116

/-- Whether the destination VF of a request takes it no longer (22 R451). -/
def State.dvfGone (s : State) (h : SlotHdr) : Bool :=
  let seg := s.see 0x03 h.dvf.toNat
  !natBit seg 63 || natBit seg 62 || decide (natBits seg 61 50 ≠ h.dgen.toNat)

/-- The bytes of the span that a mask names, ascending. -/
def maskBytes (m : Word) : List Nat := (below 64).filter fun i => m.getLsbD i

/-- The checks of R338 of an access: valid, below LENGTH, source node, right. -/
def State.mmuCheck (s : State) (h : SlotHdr) (offs : List Nat) (bit : Nat) : Except Flt Nat := do
  let e := s.see 0x05 h.remWin.toNat
  let src := natBits e 115 104
  must (natBit e 127) fBound 0
  must (offs.all fun o => decide (o < natBits e 80 41)) fBound 0
  must (decide (src = 0xFFF) || decide (src = h.srcNode.toNat)) fOwner 0
  must (natBit e bit) fRights 0
  .ok e

/-- Who an inbound access is made for: the tenant of its MMU entry (15 R338). -/
def farIssuer (e : Nat) : Issuer := ⟨mmuTenant e, 0, 4096, 0⟩

/-- An inbound access under R338 and R179, each check over all its bytes before the next: the MMU entry, and the VA of each byte that
the mask names. -/
def State.mmuBytes (s : State) (h : SlotHdr) (bit right : Nat) : Except Flt (Nat × List (Nat × Nat)) := do
  let js := maskBytes h.mask
  let e ← s.mmuCheck h (if js.isEmpty then [h.offset.toNat] else js.map (h.offset.toNat + ·)) bit
  let at_ := fun (b : Nat) => natBits e 39 0 + h.offset.toNat + b
  let va := fun (b : Nat) => natBits e 103 84 * 2 ^ 40 + at_ b
  let first := js.headD 0
  let last := js.getLastD 0
  must (decide (at_ last < 2 ^ 40)) fBound 0
  let _ ← s.checkEntry (farIssuer e) (va first) (if js.isEmpty then 0 else last + 1 - first) right
  js.foldl (fun (r : Except Flt Unit) b => do
    r
    s.checkVa (farIssuer e) (va b) 1 right) (.ok ())
  .ok (e, js.map fun b => (b, va b))

/-! ### Performance of inbound requests -/

/-- Inbound bytes count at a member of a ring-level domain of the tenant whose read ranges hold them (14 R323; log 25). -/
def Slot.countFar (x : Slot) (tenant : Nat) (vas : List Nat) : Slot :=
  if fld x.y.domain 63 62 = 3 ∧ x.y.tenant.toNat = tenant then
    { x with dom := upTo (vas.filter (inRanges x.job.reads)).length (fun _ (d : DomCounts) => d.byte d.phase) x.dom }
  else x

def State.countFar (s : State) (tenant : Nat) (vas : List Nat) : State :=
  { s with slots := s.slots.map fun (e : Nat × Slot) => (e.1, e.2.countFar tenant vas) }

/-- An inbound WRITE is performed, or refused (22 R451): bytes that its sender marked poisoned are written so (11 R257). -/
def State.farWrite (s : State) (k : Nat) (r : RingSlot) : State :=
  match s.mmuBytes r.h 125 rW with
  | .error f => s.respondTo k (.fault f.code) r.h 0#512 0#2
  | .ok (e, bs) =>
    let o : Origin := .die k
    let ks := bs.map fun b => s.vaKey b.2
    let bad := (bs.filter fun b => r.poison.getLsbD (b.1 / 32)).map fun b => s.vaKey b.2
    let s := (s.touchAllFrom o 4096 ks).writeAllFrom o (ks.zip (bs.map fun b => beatByte r.data b.1))
    let s := (bad.filter fun c => s.takes o c).foldl (fun s c => s.markPoison c.1) s
    ((s.heatAll (bs.map Prod.snd)).countFar (mmuTenant e) (bs.map Prod.snd)).respondTo k .wack r.h 0#512 0#2

/-- An inbound READ is performed, or refused. -/
def State.farLoad (s : State) (k : Nat) (r : RingSlot) : State :=
  match s.mmuBytes r.h 126 rR with
  | .error f => s.respondTo k (.fault f.code) r.h 0#512 0#2
  | .ok (_, bs) =>
    let o : Origin := .die k
    let ks := bs.map fun b => s.vaKey b.2
    let s := (((s.touchAllFrom o 4096 ks).noteReadsFrom o ks).heatAll (bs.map Prod.snd))
    let got := (bs.zip ks).map fun b => (b.1.1, s.readKeyFrom o b.2.2 b.2.1)
    let data := got.foldl (fun (d : BitVec 512) (g : Nat × (Byte × Bool)) => d ||| (g.2.1.setWidth 512 <<< (8 * g.1))) 0#512
    s.respondTo k .data r.h data (flagsOf fun j => got.any fun g => g.2.2 && decide (g.1 / 32 = j))

/-- An inbound ENQR: the queue operation of R317 for the tenant of the MMU entry (14 R320). -/
def State.farEnq (s : State) (k : Nat) (r : RingSlot) : State :=
  match s.mmuCheck r.h [r.h.offset.toNat] 125 with
  | .error _ => s.respondTo k (.outcome .denied) r.h 0#512 0#2
  | .ok e =>
    let h := r.handle.toNat
    let q := s.queueOf h
    if s.queueStale h then s.respondTo k (.outcome .gone) r.h 0#512 0#2
    else if qTenant q ≠ mmuTenant e then s.respondTo k (.outcome .denied) r.h 0#512 0#2
    else if qOcc q = qCap q then s.respondTo k (.outcome .full) r.h 0#512 0#2
    else (((s.qPush (queueKey h) r.data).nameActor (queueKey h) true none)).respondTo k (.outcome .ok) r.h 0#512 0#2

/-- A released request is performed at this package (22 R451). -/
def State.farPerform (s : State) (k : Nat) (r : RingSlot) : State :=
  let isEnq := match r.op with | .enqr => true | _ => false
  if s.dvfGone r.h then
    (s.respondTo k (if isEnq then .outcome .denied else .fault fOwner) r.h 0#512 0#2).sendBack k 3 .gone r.h 0#512 0#2
  else
    match r.op with
    | .write => s.farWrite k r
    | .read => s.farLoad k r
    | .enqr => s.farEnq k r
    | _ => s

/-- The stream of an inbound request (22 R443, R446). -/
def RingSlot.stream (r : RingSlot) : Nat :=
  streamOf r.h.srcDie.toNat (match r.op with | .read => 1 | _ => 0) r.h.srcNode.toNat

/-- Release slots in the order of their streams, each performed as it is released, with fuel (22 R446). -/
def State.releaseAll (k : Nat) : Nat → State → State
  | 0, s => s
  | fuel + 1, s =>
    let st := s.station k
    match firstIdx (fun (r : RingSlot) => decide (mget 0#16 st.relSeq r.stream = r.h.seq)) st.arrived with
    | none => s
    | some i =>
      match st.arrived[i]? with
      | none => s
      | some r =>
        let t := r.h.tenant.toNat
        let s := s.setStation k { st with
          arrived := dropNth st.arrived i
          relSeq := mput st.relSeq r.stream (r.h.seq + 1#16)
          held := mput st.held t (mget 0 st.held t - 1) }
        (s.farPerform k r).releaseAll k fuel

/-! ### Arrival (22 R449) -/

/-- Receive slots of a station. -/
def recvSlots : Nat := 512

def Station.share (st : Station) (t : Nat) : Nat := mget 0 st.shares t

/-- Free slots of the shared part. -/
def Station.sharedFree (st : Station) : Nat :=
  let tenants := (mkeys st.shares ++ mkeys st.held).foldl (fun (acc : List Nat) t => if acc.contains t then acc else acc ++ [t]) []
  let kept := sumOf (tenants.map fun t => st.share t - mget 0 st.held t)
  recvSlots - kept - sumOf (st.held.map Prod.snd)

/-- Whether a station takes a slot of a tenant. -/
def Station.accepts (st : Station) (t : Nat) : Bool := decide (mget 0 st.held t < st.share t) || decide (0 < st.sharedFree)

/-- A request arrives at its destination: taken and released in order, or refused and sent on. -/
def State.arriveHere (s : State) (k : Nat) (r : RingSlot) : State :=
  let st := s.station k
  let t := r.h.tenant.toNat
  if st.accepts t then
    (s.setStation k { st with arrived := st.arrived ++ [r], held := mput st.held t (mget 0 st.held t + 1) }).releaseAll k
      (st.arrived.length + 1)
  else if r.h.pass2 then s.emit k { r with h := { r.h with ret := true } }
  else s.emit k { r with h := { r.h with pass2 := true } }

/-- Whether a launch tag names a queue that is being reset (20 R420). -/
def State.tagReset (s : State) (t : Option (BitVec 13)) : Bool :=
  match t with
  | some q => (mget {} s.hq q.toNat).resetting
  | none => false

/-- Tokens leave once nothing that they wait for is left (22 R452). -/
def Station.flush (st : Station) : Station :=
  let ready := st.tokens.filter fun (t : RingSlot × List Nat) => t.2.isEmpty
  { st with tokens := st.tokens.filter fun (t : RingSlot × List Nat) => !t.2.isEmpty, sent := st.sent ++ ready.map Prod.fst }

/-- A request is over at its origin: its reservation is free, tokens wait for it no longer (22 R450, R452). -/
def Station.settle (st : Station) (id : Nat) : Station :=
  ({ st with
    reserved := st.reserved - 1
    tokens := st.tokens.map fun (t : RingSlot × List Nat) => (t.1, t.2.filter fun i => i ≠ id) } : Station).flush

/-- The credit of a request returns (22 R450). -/
def Station.refund (st : Station) (id : Nat) : Station :=
  match st.owed.find? fun (p : Nat × Nat) => p.1 = id with
  | none => st
  | some p => { st with
      owed := st.owed.filter fun (q : Nat × Nat) => q.1 ≠ id
      credits := mput st.credits p.2 (st.credit p.2 + 1) }

def Station.without (st : Station) (id : Nat) : Station := { st with reqs := st.reqs.filter fun r => r.id ≠ id }

/-- A request is retired at its origin as refused (22 R452). -/
def Station.retire (st : Station) (id : Nat) : Station := ((st.without id).settle id).refund id

/-- A slot comes back to its origin: it waits to be sent again, or, for a queue that is reset, it is retired (22 R449, R452). -/
def State.comeBack (s : State) (k : Nat) (r : RingSlot) : State :=
  let id := r.h.reqId.toNat
  if s.tagReset r.h.qtag then s.upStation k fun st => st.retire id
  else s.upStation k fun st => { st with returned := st.returned ++ [r] }

/-- A request slot reaches a station (22 R446, R449). -/
def State.inRequest (s : State) (k : Nat) (r : RingSlot) : State :=
  let own := s.ownNode
  if r.h.ret then (if r.h.srcNode.toNat = own then s.comeBack k r else s.emit k r)
  else if r.h.dstNode.toNat = own then s.arriveHere k r
  else s.emit k r

/-- SLOT_WRITE: 22 R446, R449, R451. Its beat may be marked poisoned (11 R257; log 81). -/
def execSlotWrite (station : BitVec 2) (h : SlotHdr) (data : Beat) (s : State) : Res :=
  .next (s.inRequest station.toNat { op := .write, h := h, data := data.bytes, poison := data.poison })

/-- SLOT_READ: 22 R446, R449, R451. -/
def execSlotRead (station : BitVec 2) (h : SlotHdr) (s : State) : Res :=
  .next (s.inRequest station.toNat { op := .read, h := h, data := 0#512 })

/-- SLOT_ENQR: 14 R320; 22 R446, R449, R451. -/
def execSlotEnqr (station : BitVec 2) (h : SlotHdr) (handle : W32) (data : Word) (s : State) : Res :=
  .next (s.inRequest station.toNat { op := .enqr, h := h, data := data.setWidth 512, handle := handle })

/-! ### Responses at the origin (09 R217, R221; 11 R255; 18 R388; 22 R447) -/

/-- Whether a lane of an access lies in the span of a request. -/
def LaneAcc.inReq (l : LaneAcc) (r : FabReq) : Bool :=
  match l.remote with
  | some (w, o) => decide (w = r.window) && decide (o / 64 = r.slot.h.offset.toNat / 64)
  | none => false

/-- The fault that a target returned (20 R404): bit 63 and the fabric address of the first byte asked for. -/
def farFault (r : FabReq) (code : Nat) : Flt :=
  let first := ((maskBytes r.slot.h.mask).headD 0)
  ⟨code, 2 ^ 63 + r.window * 2 ^ 40 + (r.slot.h.offset.toNat + first) % 2 ^ 40⟩

/-- One lane of a load takes its bytes from a beat. -/
def LoadAcc.takeFar (a : LoadAcc) (l : LaneAcc) (data : BitVec 512) (poison : BitVec 2) : LoadAcc :=
  let o := match l.remote with | some (_, o) => o | none => 0
  let v := leNat ((below l.size).map fun j => beatByte data (o + j))
  let p := poison.getLsbD (o % 64 / 32)
  { a with
    data := setLane a.data l.lane (loadExtend a.sx l.size v)
    poison := if p then a.poison ||| (1#64 <<< l.lane) else a.poison
    poisonAddr := if p && a.poison = 0#64 then l.addr else a.poisonAddr }

/-- The lanes of a load that a request serves are answered, with data or with a fault; of several faults that of the lowest lane
stands (09 R216, R222; log 61). -/
def LoadAcc.answer (a : LoadAcc) (r : FabReq) (f : Option Flt) (data : BitVec 512) (poison : BitVec 2) : LoadAcc :=
  let ls := a.lanes.filter fun l => l.inReq r
  let a := { a with lanes := a.lanes.filter fun l => !l.inReq r }
  match f with
  | some g =>
    let l := (minOf (ls.map (·.lane))).getD 0
    if a.flt.isSome && decide (a.fltLane ≤ l) then a else { a with flt := some g, fltLane := l }
  | none => ls.foldl (fun a l => a.takeFar l data poison) a

/-- The lanes of a store that a request serves are answered. -/
def StoreAcc.answer (a : StoreAcc) (r : FabReq) (f : Option Flt) : StoreAcc :=
  { a with
    lanes := a.lanes.filter fun l => !l.acc.inReq r
    flt := match a.flt with | some old => some old | none => f }

/-- A store whose target refused it stands at the head of its queue again and raises the fault as the answer arrives; what its
other requests still bring is dropped (09 R221). -/
def State.storeFault (s : State) (n : Nat) : State :=
  match (s.slot n).storeQ.find? fun a => a.flt.isSome with
  | none => s
  | some a =>
    let s := s.mapReqs fun r => if r.who = n && decide (r.kind = .store a.entry.seq) then { r with live := false } else r
    let s := s.upSlot n fun x =>
      let q := x.e.st
      ({ x with storeQ := x.storeQ.filter fun b => decide (b.entry.seq ≠ a.entry.seq) }).setEng .st { q with entries := a.entry :: q.entries }
    match a.flt with
    | some f => s.raiseEng n .st f a.entry.tag
    | none => s

/-- A copy whose target refused it stops (11 R255). -/
def State.copyFault (s : State) (n : Nat) (seq : W32) (f : Flt) : State :=
  match (s.slot n).journal.find? fun j => decide (j.entry.seq = seq) && !j.entry.isNm with
  | none => s
  | some j =>
    let s := s.mapReqs fun r => if r.who = n && decide (r.kind = .copy seq) then { r with live := false } else r
    let s := s.upSlot n fun x => { x with journal := x.journal.map fun i => if i.entry.seq = seq then { i with stopped := true } else i }
    s.raiseLate n .cp f j.entry.tag

/-- An outcome reaches the counters of the task that sent the ENQR, on its slot or in its saved image (18 R388). -/
def State.giveOutcome (s : State) (r : FabReq) (c : BitVec 4) (o : EnqrOutcome) : State :=
  if (s.slot r.who).y.csaBase.toNat = r.csa then s.upSlot r.who fun x => { x with outcomes := x.outcomes ++ [(c, o)] }
  else
    match mfind s.csa r.csa with
    | some x => { s with csa := mput s.csa r.csa { x with outcomes := x.outcomes ++ [(c, o)] }.takeOutcome }
    | none => s

/-- What an answer to a live request does at its slot. -/
def State.serveAnswer (s : State) (r : FabReq) (f : Option Flt) (o : Option EnqrOutcome) (data : BitVec 512) (poison : BitVec 2) : State :=
  match r.kind with
  | .enqr c => (match o with | some v => s.giveOutcome r c v | none => s)
  | .load seq =>
    s.upSlot r.who fun x =>
      let x := { x with loads := x.loads.map fun (a : LoadAcc) => if a.entry.seq = seq then a.answer r f data poison else a }
      x.placeLoads false x.loads.length
  | .store seq =>
    ((s.upSlot r.who fun x =>
      { x with storeQ := x.storeQ.map fun (a : StoreAcc) => if a.entry.seq = seq then a.answer r f else a }).retireStoresOf
        r.who).storeFault r.who
  | .copy seq => (match f with | some g => s.copyFault r.who seq g | none => s)

/-- Whether a response answers an operation (22 R445). -/
def answersTo (req resp : SlotOp) : Bool :=
  match req, resp with
  | .read, .data => true
  | .read, .fault _ => true
  | .write, .wack => true
  | .write, .fault _ => true
  | .enqr, .outcome _ => true
  | _, _ => false

/-- A copy keeps its answers until its unit takes them. -/
def FabReq.keeps (r : FabReq) : Bool :=
  r.live && (match r.kind with | .copy _ => true | _ => false)

/-- A response reaches a station: it goes on, or it answers its request (22 R447, R450). -/
def State.inResponse (s : State) (k : Nat) (r : RingSlot) : State :=
  if r.h.dstNode.toNat ≠ s.ownNode then s.emit k r
  else
    match (s.station k).reqs.find? fun q => decide (q.id = r.h.reqId.toNat) && q.sent && !q.answered && answersTo q.slot.op r.op with
    | none => s
    | some q =>
      let f := match r.op with | .fault c => some (farFault q c) | _ => none
      let o := match r.op with | .outcome v => some v | _ => none
      let s := s.upStation k fun st =>
        let st := st.settle q.id
        if q.keeps then
          { st with reqs := st.reqs.map fun (p : FabReq) => if p.id = q.id then { p with answered := true, data := r.data, poison := r.poison } else p }
        else st.without q.id
      let s := s.upStation k Station.pump
      if q.live then s.serveAnswer q f o r.data r.poison else s

/-- SLOT_DATA: 22 R447. -/
def execSlotData (station : BitVec 2) (h : SlotHdr) (data : BitVec 512) (poison : BitVec 2) (s : State) : Res :=
  .next (s.inResponse station.toNat { op := .data, h := h, data := data, poison := poison })

/-- SLOT_WACK: 22 R447. -/
def execSlotWack (station : BitVec 2) (h : SlotHdr) (s : State) : Res :=
  .next (s.inResponse station.toNat { op := .wack, h := h, data := 0#512 })

/-- SLOT_OUTCOME: 14 R320; 18 R388. -/
def execSlotOutcome (station : BitVec 2) (h : SlotHdr) (o : EnqrOutcome) (s : State) : Res :=
  .next (s.inResponse station.toNat { op := .outcome o, h := h, data := 0#512 })

/-- SLOT_FAULT: 09 R221; 20 R404; 22 R447. -/
def execSlotFault (station : BitVec 2) (h : SlotHdr) (code : BitVec 16) (s : State) : Res :=
  .next (s.inResponse station.toNat { op := .fault code.toNat, h := h, data := 0#512 })

/-! ### Control slots (22 R450 to R452) -/

/-- A gone notice is entered, the oldest making room (22 R451). -/
def Station.noteGone (st : Station) (g : Nat × Nat × Nat) : Station :=
  if st.gone.contains g then st
  else if 1024 ≤ st.gone.length then { st with gone := st.gone.drop 1 ++ [g], goneDropped := st.goneDropped + 1 }
  else { st with gone := st.gone ++ [g] }

/-- SLOT_GONE: 22 R451. -/
def execSlotGone (station : BitVec 2) (h : SlotHdr) (s : State) : Res :=
  .next (
    if h.dstNode.toNat ≠ s.ownNode then s.emit station.toNat { op := .gone, h := h, data := 0#512 }
    else s.upStation station.toNat fun st => st.noteGone (h.srcNode.toNat, h.dvf.toNat, h.dgen.toNat))

/-- SLOT_DRAIN: 22 R452. A token of this package is complete; another's goes on once every slot that this station sent before it
is answered or back, and not waiting to be sent again. -/
def execSlotDrain (station : BitVec 2) (h : SlotHdr) (s : State) : Res :=
  .next (s.upStation station.toNat fun st =>
    if h.srcNode.toNat = s.ownNode then { st with drains := st.drains + 1 }
    else
      let out := (st.reqs.filter fun r => r.sent && !r.answered && st.returned.all fun q => q.h.reqId.toNat ≠ r.id).map fun r => r.id
      ({ st with tokens := st.tokens ++ [({ op := .drain, h := h, data := 0#512 }, out)] } : Station).flush)

/-- SLOT_ALLOW: 22 R450. -/
def execSlotAllow (station : BitVec 2) (h : SlotHdr) (s : State) : Res :=
  .next (
    if h.dstNode.toNat ≠ s.ownNode then s.emit station.toNat { op := .allow, h := h, data := 0#512 }
    else s.upStation station.toNat fun st => (st.refund h.reqId.toNat).pump)

/-- SLOT_REINJECT: 22 R449. The oldest slot that came back leaves again, SEQ unchanged; one of a queue that is reset is retired
instead (22 R452). -/
def execSlotReinject (station : BitVec 2) (s : State) : Res :=
  .next (s.upStation station.toNat fun st =>
    match st.returned with
    | [] => st
    | r :: rest =>
      let st := { st with returned := rest }
      if s.tagReset r.h.qtag then st.retire r.h.reqId.toNat
      else { st with sent := st.sent ++ [{ r with h := { r.h with pass2 := false, ret := false } }] })

/-! ### Links and ports (22 R442, R444, R448) -/

/-- SLOT_CRC_REPLAY: 22 R448. A replay changes no slot, no order and no count. -/
def execSlotCrcReplay (_station : BitVec 2) (_port : BitVec 4) (_seq : BitVec 16) (s : State) : Res := .next s

/-- SLOT_PROTOCOL_ERROR: 22 R444. The port resets and resends from its replay buffer; no slot is dropped. -/
def execSlotProtocolError (_station : BitVec 2) (_port : BitVec 4) (s : State) : Res := .next s

/-- ZOZAN_PORT_FAILURE: 22 R442; 23 R455. The spare takes the place of the first port that fails. -/
def execZozanPortFailure (station : BitVec 2) (port : BitVec 4) (s : State) : Res :=
  .next (s.upStation station.toNat fun st =>
    if 9 ≤ port.toNat then st
    else
      let st := { st with failedPorts := st.failedPorts ||| (1#9 <<< port.toNat) }
      if port.toNat = 8 then { st with spareFor := none }
      else if st.spareFor.isNone && !st.failedPorts.getLsbD 8 then { st with spareFor := some port }
      else st)

/-- RACK_RING_LINK_DOWN: 22 R442. Traffic takes the other direction, in order. -/
def execRackRingLinkDown (station : BitVec 2) (ccw : Bool) (s : State) : Res :=
  .next (s.upStation station.toNat fun st => if ccw then { st with ccwDown := true } else { st with cwDown := true })

end Sys2Proof.Machine
end

