-- ==== Sys2Proof/Machine/TableInstr.lean ====
section
/-! DEFINITION. Table instructions (17): images and indices, the validity rules of 15 R329 to R344 and 16 R347 to R362, statuses,
and the point at which a write is in force (15 R330). -/
namespace Sys2Proof.Machine

/-! ### Statuses (17 R371) -/

def stIndex : Nat := 1
def stRule : Nat := 2
def stInuse : Nat := 3
def stLocked : Nat := 4
def stNowrite : Nat := 5
def stShare : Nat := 6
def stRange : Nat := 7

/-- The first of a list of refusals that holds; 0 for none. -/
def firstRefusal : List (Bool × Nat) → Nat
  | [] => 0
  | (b, c) :: r => if b then c else firstRefusal r

/-! ### Entries, images and indices (15 R328; 16 R346; 17 R368, R369) -/

/-- Entry widths. A code that names no table counts as 64 (log 19). -/
def tabWidth (code : Nat) : Nat :=
  match code with
  | 0x00 => 256 | 0x01 => 64 | 0x02 => 256 | 0x03 => 64 | 0x04 => 128 | 0x05 => 128 | 0x06 => 384 | 0x07 => 128
  | 0x08 => 513 | 0x09 => 128 | 0x0A => 12 | 0x0B => 16 | 0x0C => 2 | 0x0D => 8 | 0x10 => 128 | 0x11 => 64
  | 0x12 => 256 | 0x13 => 64 | 0x14 => 16 | 0x15 => 128 | 0x16 => 128 | 0x17 => 128 | _ => 64

/-- Bytes of an image (17 R368). -/
def imageBytes (code : Nat) : Nat := ceilDiv (tabWidth code) 64 * 8

/-- Numbers from lo to hi - 1. -/
def inSpan (lo hi v : Nat) : Option Nat := if lo ≤ v ∧ v < hi then some v else none

/-- The entry that an index register names (17 R369). Protection regions are those of the lockstep pairs of the slot's die (21 R428; log
80). -/
def State.tabIndex (s : State) (code v : Nat) : Option Nat :=
  match code with
  | 0x00 => inSpan 1 (2 ^ 20) v
  | 0x01 =>
    let e := s.entry 0x00 (vaIndex v)
    let stripe := vaOffset v / 2 ^ 21
    if v / 2 ^ 60 = 0 && natBit e 255 && decide (stripe < ceilDiv (bufLen e) (2 ^ 21)) then some (pmapIdx e stripe) else none
  | 0x02 => inSpan 1 4096 v
  | 0x03 => inSpan 0 512 v
  | 0x04 => inSpan 0 4096 v
  | 0x05 => inSpan 0 4096 v
  | 0x06 => inSpan 0 1024 v
  | 0x07 => inSpan 0 65536 v
  | 0x08 => inSpan 0 1024 v
  | 0x09 => (inSpan 0 128 v).map (dieOf s.cur * 128 + ·)
  | 0x0A => inSpan 0 1 v
  | 0x0B => inSpan 0 6144 v
  | 0x0C => inSpan 0 6144 v
  | 0x0D => inSpan 0 (2 ^ 19) v
  | 0x10 => inSpan 0 4096 v
  | 0x11 => inSpan 0 1024 v
  | 0x12 => inSpan 0 3072 v
  | 0x13 => inSpan 0 8 v
  | 0x14 => inSpan 0 2048 v
  | 0x15 => inSpan 0 16384 v
  | 0x16 => inSpan 0 32768 v
  | 0x17 => inSpan 0 8 v
  | _ => none

/-- The bits of an image that fields hold; reserved bits are ignored (17 R368, 00 R4). -/
def keepBits (fields : List (Nat × Nat)) (v : Nat) : Nat :=
  fields.foldl (fun a f => a + natBits v f.1 f.2 * 2 ^ f.2) 0

/-- The fields of an entry, as (high, low). -/
def tabFields (code : Nat) : List (Nat × Nat) :=
  match code with
  | 0x00 => [(255, 139), (39, 0)]
  | 0x01 => [(63, 61), (47, 32), (18, 0)]
  | 0x02 => [(255, 0)]
  | 0x03 => [(63, 50), (47, 32), (31, 24), (15, 0)]
  | 0x04 => [(127, 71), (39, 0)]
  | 0x05 => [(127, 84), (80, 41), (39, 0)]
  | 0x06 => [(383, 344), (255, 0)]
  | 0x07 => [(127, 95), (39, 0)]
  | 0x08 => [(512, 0)]
  | 0x09 => [(127, 113), (79, 0)]
  | 0x0A => [(11, 0)]
  | 0x0B => [(7, 0)]
  | 0x10 => [(127, 127), (125, 52), (39, 12)]
  | 0x11 => [(63, 63), (60, 43), (31, 0)]
  | 0x12 => [(255, 0)]
  | 0x13 => [(22, 0)]
  | 0x14 => [(6, 0)]
  | 0x17 => [(127, 0)]
  | _ => []

/-! ### Image accesses (17 R368, R370, R374) -/

/-- The checks of an image of n bytes at t: ALIGN, then R226; every fault has TRAP_INFO t but BANK_CONFLICT, whose form 20 R404
fixes. -/
def State.imageCheck (s : State) (t n right : Nat) : Except Flt (List (Nat × Nat)) :=
  if t % 8 ≠ 0 then .error ⟨fAlign, t⟩
  else
    match s.checkAt (s.issuer s.cur) (ccIsVa t) t n right with
    | .ok _ => .ok (s.keysAt (ccIsVa t) t n)
    | .error f => .error (if f.code = fBank then f else ⟨f.code, t⟩)

/-- The keys of an image, once the fences before it allow the access. -/
def State.imageKeys (s : State) (t n right : Nat) (k : AccKind) : M (List (Nat × Nat)) := do
  need (!s.scHolds s.cur s.here)
  let ks ← liftF (s.imageCheck t n right)
  need (!s.fenced s.cur s.here k (homesOf ks))
  .ok ks

/-- A table instruction that reads an image: level, image, index, then `f`, which gives the status. -/
def State.tableWrite (s : State) (d a b : BitVec 5) (lvl code : Nat) (f : State → Nat → Nat → M (State × Nat)) : Res :=
  s.directM [d, a, b] [] 0 4 fun s => do
    liftF (must (decide (lvl ≤ s.me.lvl)) fPriv 0)
    let t := (s.me.getS b).toNat
    let ks ← s.imageKeys t (imageBytes code) rR .load
    let (s, v) ← s.ccRead t ks
    let (s, st) ← (match s.tabIndex code (s.me.getS a).toNat with
      | none => .ok (s, stIndex)
      | some i => f s i (keepBits (tabFields code) v))
    .ok (s.upMe fun x => x.setS d (BitVec.ofNat 64 st))

/-- The entry is written whole; until the write is in force a translation may read the old entry (15 R330). -/
def State.putEntry (s : State) (code i v : Nat) : State :=
  let old := s.entry code i
  let s := s.setEntry code i v
  if code ≤ 7 then { s with pend := s.pend ++ [⟨tkey code i, old, s.cur, s.me.ord⟩] } else s

/-- The regions of a valid segment, from the first to before the last; segments of no region are empty (15 R334). -/
def segSpan (v : Nat) : Nat × Nat := if natBit v 63 then (natBits v 15 0, natBits v 15 0 + natBits v 47 32) else (0, 0)

/-- What a span takes out of spans. -/
def spanMinus (l : List (Nat × Nat)) (b : Nat × Nat) : List (Nat × Nat) :=
  if b.1 < b.2 then (l.flatMap fun a => [(a.1, min a.2 b.1), (max a.1 b.2, a.2)]).filter fun p => decide (p.1 < p.2) else l

/-- A season map update for spans of regions goes to every stack in service (12 R283, R291). -/
def State.sendSpans (s : State) (event : Nat) (l : List (Nat × Nat)) : State :=
  (below 16).foldl (fun s k => if (s.stack k).out then s else l.foldl (fun s p => s.sendSeason event k p.1 (p.2 - p.1)) s) s

/-- The spans of an old segment that no valid segment covers. -/
def State.leftRegions (s : State) (old : Nat) : List (Nat × Nat) :=
  (s.tab.filter fun (e : Nat × Nat) => decide (e.1 / 2 ^ 44 = 3)).foldl (fun l e => spanMinus l (segSpan e.2)) ([segSpan old].filter fun p => decide (p.1 < p.2))

/-- A VF segment is written: the regions that join it are allocated at once, before a request can name them; those that leave it are
freed once the write is in force, when no request by the old entry is left (15 R334; 12 R282, R283). -/
def State.putSegment (s : State) (i v : Nat) : State :=
  let old := s.entry 0x03 i
  (s.putEntry 0x03 i v).sendSpans 0 (spanMinus ([segSpan v].filter fun p => decide (p.1 < p.2)) (segSpan old))

/-- Refuse with a status, or write. -/
def State.putUnless (s : State) (st code i v : Nat) : M (State × Nat) :=
  .ok (if st = 0 then (s.putEntry code i v, 0) else (s, st))

/-! ### Rules of translation tables (15 R331 to R340) -/

/-- Segments of VFs other than i that overlap an image; one without regions overlaps nothing. -/
def State.segOverlap (s : State) (i v : Nat) : Bool :=
  let lo := natBits v 15 0
  let hi := lo + natBits v 47 32
  s.tab.any fun (e : Nat × Nat) =>
    let base := natBits e.2 15 0
    decide (e.1 / 2 ^ 44 = 3) && decide (e.1 % 2 ^ 44 ≠ i) && natBit e.2 63 &&
      decide (max base lo < min hi (base + natBits e.2 47 32))

/-- Whether the interface of a VF is locked (21 R437). -/
def State.vfLocked (s : State) (vf : Nat) : Bool :=
  let v := mget {} s.vfs vf
  v.enabled && v.state != .unlocked

/-- The refusal of a VF segment image (15 R334). -/
def State.refuseSegment (s : State) (i v : Nat) : Nat :=
  let valid := natBit v 63
  let top := natBits v 15 0 + natBits v 47 32
  firstRefusal [
    (decide (natBits v 61 50 < natBits (s.entry 0x03 i) 61 50), stRule),
    (valid && (mget {} s.vfs i).retired, stRule),
    (valid && (below 16).any fun k => (s.stack k).accepted && decide ((s.stack k).regions < top), stRule),
    (valid && s.segOverlap i v, stInuse),
    (s.vfLocked i, stLocked)]

/-- The refusal of a buffer image (15 R331). -/
def State.refuseBuffer (s : State) (i v : Nat) : Nat :=
  let valid := natBit v 255
  let old := s.entry 0x00 i
  let n := bufStacks v
  let sh := s.entry 0x06 (natBits v 189 180)
  firstRefusal [
    (valid && !([1, 2, 4, 8, 16] : List Nat).contains n, stRule),
    (valid && (decide (8 < natBits v 219 216) || decide (2 ^ 21 < bufGran v * n)), stRule),
    (valid && !natBit (s.entry 0x03 (bufVf v)) 63, stRule),
    (valid && natBit v 190 && !(natBit sh 383 && decide (natBits sh 380 373 = natBits v 239 232)), stRule),
    (valid && (decide (2 ^ 40 < bufLen v) || decide (bufPmap v % 8 ≠ 0)), stRule),
    (valid && natBit old 255 && (decide (natBits v 219 191 ≠ natBits old 219 191) || decide (bufPmap v ≠ bufPmap old)), stInuse)]

/-- The refusal of a page-map image for a stripe of buffer `b` (15 R333). -/
def State.refusePage (s : State) (b v : Nat) : Nat :=
  let e := s.entry 0x00 b
  let n := max 1 (bufStacks e)
  let size := natBits (s.entry 0x03 (bufVf e)) 47 32
  let f := natBits v 18 0
  firstRefusal [(decide (f % (16 / n) ≠ 0) || decide (size * 2 ^ 21 < f * 2 ^ 17 + 2 ^ 21 / n), stRule)]

/-- The product of a list. -/
def prodOf : List Nat → Nat
  | [] => 1
  | a :: r => a * prodOf r

/-- The refusal of a sharding image (15 R339). -/
def refuseShard (v : Nat) : Nat :=
  let ks := below (shRank v)
  let rest := (below 4).filter fun k => decide (shRank v ≤ k)
  let grid := prodOf (ks.map fun k => ceilDiv (shExtent v k) (max 1 (shShape v k)))
  let gridn := natBits v 372 360
  firstRefusal [(natBit v 383 && (
    (ks.any fun k => decide (shExtent v k = 0) || decide (shShape v k = 0)) ||
    (rest.any fun k => decide (shExtent v k ≠ 0) || decide (shShape v k ≠ 0)) ||
    decide (gridn ≠ grid) || decide (gridn < 1) || decide (4096 < gridn) || decide (65536 < shOwners v + gridn)), stRule)]

/-- Whether a valid sharding entry covers an owner-array entry (15 R341). -/
def State.ownerCovered (s : State) (i : Nat) : Bool :=
  s.tab.any fun (e : Nat × Nat) =>
    decide (e.1 / 2 ^ 44 = 6) && natBit e.2 383 && decide (shOwners e.2 ≤ i) && decide (i < shOwners e.2 + natBits e.2 372 360)

/-- The refusal of an owner-array image (15 R340, R341). -/
def State.refuseOwner (s : State) (i v : Nat) : Nat :=
  let node := natBits v 126 115
  let w := s.entry 0x04 (natBits v 106 95)
  firstRefusal [
    (natBit v 127 && decide (node ≠ s.ownNode) &&
      (decide (natBits v 114 107 ≠ 0) || !natBit w 127 || decide (winNode w ≠ node)), stRule),
    (s.ownerCovered i, stInuse)]

/-- The refusal of a window image (15 R337). -/
def State.refuseWindow (s : State) (v : Nat) : Nat := firstRefusal [(natBit v 127 && decide (winNode v = s.ownNode), stRule)]

/-! ### Claimed registers (07 R173; 16 R360; 27 R472) -/

/-- Whether teams of more than one tenant claim a register of a tile. -/
def State.claimedByTwo (s : State) (tile : Nat) (cb : Bool) (i : Nat) : Bool :=
  let ts := ((s.tile tile).claims.filter fun c => c.cb == cb && decide (c.idx = i)).map fun c => ctxTenant (s.context (s.team c.team).ctx)
  ts.any fun a => ts.any fun b => decide (a ≠ b)

/-- The claims of a register carry its new value. -/
def Tile.claimsTo (t : Tile) (cb : Bool) (i v : Nat) : List Claim :=
  t.claims.map fun c => if c.cb == cb && decide (c.idx = i) then { c with val := v } else c

/-- A BANK_FMT value as stored (07 R173); none where the register keeps its value. -/
def bankFmtOf (v : Nat) : Option Nat :=
  let f := natBits v 3 0
  if 14 ≤ f then none
  else some (natBits v 6 0 + (if natBit v 7 && (decide (f = 13) || decide (f = 11) || decide (f = 12)) then 128 else 0))

/-- TBW of BANK_FMT: it waits for a reservation of the bank to end (07 R173). -/
def State.putBankFmt (s : State) (i v : Nat) : M (State × Nat) :=
  let tile := i / 16
  let bank := i % 16
  let t := s.tile tile
  if s.claimedByTwo tile false bank then .ok (s, stInuse)
  else
    match bankFmtOf v with
    | none => .ok (s, 0)
    | some w => do
      need (match t.busy with | some b => !natBit b.banks bank | none => true)
      .ok (s.setTile tile { t with fmt := mput t.fmt bank (BitVec.ofNat 16 w), claims := t.claimsTo false bank w }, 0)

/-- TBW of a codebook slot, between two MX commands of the tile (16 R360). -/
def State.putCodebook (s : State) (i v : Nat) : M (State × Nat) :=
  let tile := i / 8
  let t := s.tile tile
  if s.claimedByTwo tile true (i % 8) then .ok (s, stInuse)
  else do
    need t.busy.isNone
    .ok (s.setTile tile { t with codebook := mput t.codebook (i % 8) (BitVec.ofNat 256 v), claims := t.claimsTo true (i % 8) v }, 0)

/-! ### Die policy and pool shares (13 R309, 16 R361) -/

/-- The sum of the pool shares of a die, with that of tenant t taken as v. -/
def State.shareSum (s : State) (d t v : Nat) : Nat :=
  sumOf ((below 256).map fun u => if u = t then v else natBits (s.entry 0x14 (d * 256 + u)) 6 0)

def clampTo (lo hi v : Nat) : Nat := if v < lo then lo else if hi < v then hi else v

/-- A die-policy image as stored. -/
def policyOf (v : Nat) : Nat :=
  clampTo 0 47 (natBits v 22 17) * 2 ^ 17 + clampTo 10 30 (natBits v 16 12) * 2 ^ 12 + clampTo 10 24 (natBits v 11 7) * 2 ^ 7 + natBits v 6 0

/-- TBW of the die policy: the pool follows once the write is in force (13 R309). -/
def State.putPolicy (s : State) (d v : Nat) : M (State × Nat) :=
  let st := firstRefusal [(decide (64 < natBits v 6 0), stRule), (decide (natBits v 6 0 < s.shareSum d 256 0), stShare)]
  if st ≠ 0 then .ok (s, st)
  else
    let old := s.entry 0x13 d
    let s := s.setEntry 0x13 d (policyOf v)
    .ok ({ s with pend := s.pend ++ [⟨tkey 0x13 d, old, s.cur, s.me.ord⟩] }, 0)

def State.putShare (s : State) (i v : Nat) : M (State × Nat) :=
  let d := i / 256
  s.putUnless (firstRefusal [(decide (natBits (s.entry 0x13 d) 6 0 < s.shareSum d (i % 256) v), stShare)]) 0x14 i v

/-- The pool of a die comes to what its policy says: queues in granules that leave are swapped out, and granules that join are
taken once they are free, victims being drawn where teams hold them (13 R309; 16 R363). True once it has. -/
def State.poolStep (s : State) (d : Nat) : State × Bool :=
  let e := s.entry 0x13 d
  let p := natBits e 6 0
  let k := d * 48 + natBits e 22 17
  let x := s.die d
  let oldTile := d * 48 + x.poolTile
  let keeps := fun (g : Nat) => decide (oldTile = k) && decide (g < x.pool)
  let leaving := (s.residentQueues d).filter fun q =>
    let r := s.entry 0x16 q
    decide (oldTile ≠ k) || decide (p * 65536 < qOff r + qBytes r)
  let s := leaving.foldl (fun s q => s.swapQueueOut d q) s
  let joins := (below p).filter fun g => !keeps g
  if joins.all (s.tile k).granFree then
    let s := ((below x.pool).filter fun g => decide (oldTile ≠ k) || decide (p ≤ g)).foldl (fun s g => s.freeGranule oldTile g) s
    let s := joins.foldl (fun s g => s.allocGranule k 0 poolTeam g) s
    let y := s.die d
    (s.setDie d { y with pool := p, poolTile := natBits e 22 17 }, true)
  else if joins.all (s.tileSoon true k).granFree then (s, false)
  else
    let all := s.regionsOn k
    let above := all.filter fun v => decide (ctxMinscr (s.context (s.team v).ctx) < s.heldOn d (s.team v).ctx)
    match s.victimDraw d ((if above.isEmpty then all else above).map fun v => (v, s.teamTickets v)) with
    | (s, some v) => (s.askPreempt v, false)
    | (s, none) => (s, false)

/-! ### Trap setup (16 R362) -/

/-- Whether a buffer is valid and backed by the firmware's segment. -/
def State.fwBuffer (s : State) (va : Nat) : Bool :=
  let e := s.entry 0x00 (vaIndex va)
  decide (va / 2 ^ 60 = 0) && natBit e 255 && vaIndex va != 0 && s.isFirmware (bufVf e)

/-- Whether the stripes of len bytes at a VA are present and, with `pin`, have SAVEPIN. -/
def State.backed (s : State) (va len : Nat) (pin : Bool) : Bool :=
  let e := s.entry 0x00 (vaIndex va)
  let first := vaOffset va / 2 ^ 21
  let last := (vaOffset va + len - 1) / 2 ^ 21
  decide (vaOffset va + len ≤ bufLen e) &&
    (below (last + 1 - first)).all fun j =>
      let pm := s.entry 0x01 (pmapIdx e (first + j))
      natBit pm 63 && (!pin || natBit pm 61)

/-- The refusal of a trap-setup image. HANDLER names a word of code, present in a buffer of the firmware's segment (log 29). -/
def State.refuseTrapSetup (s : State) (v : Nat) : Nat :=
  let arr := natBits v 63 0
  let h := natBits v 127 64
  firstRefusal [
    (arr != 0 && !(decide (arr % 65536 = 0) && s.fwBuffer arr && s.backed arr (2 ^ 27) true), stRule),
    (h != 0 && !(decide (h % 4 = 0) && s.fwBuffer h && s.backed h 4 false), stRule)]

/-! ### Write instructions (17 R372) -/

/-- TBW: 17 R367 to R372. -/
def execTbw (d a b : BitVec 5) (code : BitVec 7) (s : State) : Res :=
  let c := code.toNat
  if [0x04, 0x05, 0x06, 0x07, 0x08, 0x09, 0x0C, 0x0D, 0x10, 0x11, 0x15, 0x16].contains c then
    s.directM [d, a, b] [] 0 4 fun s => do
      liftF (must (decide (1 ≤ s.me.lvl)) fPriv 0)
      let t := (s.me.getS b).toNat
      let ks ← s.imageKeys t (imageBytes c) rR .load
      let (s, _) ← s.ccRead t ks
      .ok (s.upMe fun x => x.setS d (BitVec.ofNat 64 stNowrite))
  else
    s.tableWrite d a b (if c = 0x0A then 2 else 1) c fun s i v =>
      match c with
      | 0x00 => s.putUnless (s.refuseBuffer i v) 0x00 i v
      | 0x01 => s.putUnless (s.refusePage (vaIndex (s.me.getS a).toNat) v) 0x01 i v
      | 0x02 => s.putUnless 0 0x02 i v
      | 0x03 =>
        let st := s.refuseSegment i v
        .ok (if st = 0 then (s.putSegment i v, 0) else (s, st))
      | 0x0A => s.putUnless 0 0x0A i v
      | 0x0B => s.putBankFmt i v
      | 0x12 => s.putCodebook i v
      | 0x13 => s.putPolicy i v
      | 0x14 => s.putShare i v
      | _ => s.putUnless (s.refuseTrapSetup v) 0x17 i v

/-- SHARDW: 15 R339 to R341. -/
def execShardw (d a b : BitVec 5) (owner : Bool) (s : State) : Res :=
  let c := if owner then 0x07 else 0x06
  s.tableWrite d a b 1 c fun s i v =>
    s.putUnless (if owner then s.refuseOwner i v else refuseShard v) c i v

/-- FMMUW: 15 R337, R338. -/
def execFmmuw (d a b : BitVec 5) (mmu : Bool) (s : State) : Res :=
  let c := if mmu then 0x05 else 0x04
  s.tableWrite d a b 1 c fun s i v => s.putUnless (if mmu then 0 else s.refuseWindow v) c i v

/-- KEYW: 15 R343; the id is written in every base die in service. -/
def execKeyw (d a b : BitVec 5) (s : State) : Res :=
  s.tableWrite d a b 2 0x08 fun s i v =>
    .ok ((below 16).foldl (fun s k => if (s.stack k).out then s else s.setEntry 0x08 (k * 1024 + i) v) s, 0)

/-- PROTW: 15 R344. -/
def execProtw (d a b : BitVec 5) (s : State) : Res :=
  s.tableWrite d a b 2 0x09 fun s i v => s.putUnless 0 0x09 i v

/-- Whether a valid node or context names currency node n. -/
def State.nodeNamed (s : State) (n : Nat) : Bool :=
  s.tab.any fun (e : Nat × Nat) =>
    (decide (e.1 / 2 ^ 44 = 0x11) && curValid e.2 && decide (e.1 % 2 ^ 44 ≠ n) && decide (curParent e.2 = n)) ||
    (decide (e.1 / 2 ^ 44 = 0x10) && ctxValid e.2 && decide (ctxCurrency e.2 = n))

/-- The refusal of a currency image (16 R348). -/
def State.refuseCurrency (s : State) (i v : Nat) : Nat :=
  let old := s.currency i
  let p := s.currency (curParent v)
  let bad :=
    if i = 0 then true
    else if !curValid v then false
    else if i ≤ 256 then decide (curParent v ≠ 0) || decide (curTenant v ≠ i - 1)
    else decide (curParent v = 0) || !curValid p || !(decide (curDepth p = 1) || decide (curDepth p = 2)) || decide (curTenant p ≠ curTenant v)
  let moves := !curValid v || decide (curParent v ≠ curParent old) || decide (curTenant v ≠ curTenant old)
  firstRefusal [(bad, stRule), (curValid old && moves && s.nodeNamed i, stInuse)]

/-- CURW: 16 R348. DEPTH is that of the parent plus 1. -/
def execCurw (d a b : BitVec 5) (s : State) : Res :=
  s.tableWrite d a b 1 0x11 fun s i v =>
    let depth := if i ≤ 256 then 1 else curDepth (s.currency (curParent v)) + 1
    s.putUnless (s.refuseCurrency i v) 0x11 i (natSetBits v 62 61 depth)

/-- Whether a context has tasks (16 R347). -/
def State.ctxHasTasks (s : State) (c : Nat) : Bool :=
  !(mget [] s.taskQ c).isEmpty || s.tasks.any fun (e : Nat × Task) => decide (e.2.ctx = c)

/-- The refusal of a context image (16 R347). -/
def State.refuseContext (s : State) (i v : Nat) : Nat :=
  let seg := s.entry 0x03 (natBits v 125 117)
  let cur := s.currency (ctxCurrency v)
  let old := s.context i
  firstRefusal [
    (ctxValid v && (!natBit seg 63 || decide (natBits seg 31 24 ≠ ctxTenant v) || decide (ctxCurrency v = 0) ||
      !curValid cur || decide (curTenant cur ≠ ctxTenant v) || decide (3072 < ctxMinscr v)), stRule),
    (s.ctxHasTasks i && (!ctxValid v || decide (natBits v 125 109 ≠ natBits old 125 109) || decide (ctxDie v ≠ ctxDie old) ||
      decide (natBits v 39 12 ≠ natBits old 39 12)), stInuse)]

/-- Future records whose COUNT stands at its top are free once their context is destroyed (18 R383; log 20). -/
def State.freeStuck (s : State) (c : Nat) : State :=
  { s with futures := s.futures.map fun (e : Nat × Future) =>
      (e.1, if e.2.ctx = c && e.2.count = countMax then { e.2 with state := .free, task := none } else e.2) }

/-- CTXW of a context (16 R347, 18 R380). -/
def State.putContext (s : State) (i v : Nat) : M (State × Nat) :=
  let st := s.refuseContext i v
  if st ≠ 0 then .ok (s, st)
  else
    let was := ctxValid (s.context i)
    let s := if ctxValid v && !was then s.clearCounters i else if !ctxValid v && was then s.freeStuck i else s
    .ok (s.putEntry 0x10 i v, 0)

/-- A queue is created: resident where the pool has or can make room, else swapped (13 R310, 17 R373). -/
def State.createQueue (s : State) (i v : Nat) : State :=
  let d := i / 4096
  let old := s.entry 0x16 i
  let fields := keepBits [(127, 127), (125, 112), (99, 98), (95, 64)] v
  let q := fields + natBits old 111 100 * 2 ^ 100
  let len := qBytes q
  let s := s.makePoolRoom d (qTenant q) len (s.residentQueues d).length
  match s.poolRoom d len with
  | some off => s.setEntry 0x16 i (q + off)
  | none => { s.setEntry 0x16 i (q + 2 ^ 126) with qSwaps := s.qSwaps ++ [i] }

/-- A queue is destroyed with its contents: its generation rises, or its index is retired (13 R306, 17 R373). -/
def State.destroyQueue (s : State) (i : Nat) : State :=
  let gen := qGen (s.entry 0x16 i)
  let q := if gen = 4095 then 4095 * 2 ^ 100 + 2 ^ 97 else (gen + 1) * 2 ^ 100
  { s.setEntry 0x16 i q with
    qdata := mclear s.qdata (qSlotKey i 0) (qSlotKey i 0 + 2 ^ 16), qActors := mdel s.qActors i
    qSwaps := s.qSwaps.filter fun k => k ≠ i }

/-- The handle of a queue record (13 R306). -/
def State.queueHandle (s : State) (i : Nat) : Nat := i / 4096 * 2 ^ 29 + i % 4096 * 2 ^ 17 + qGen (s.entry 0x16 i) * 2 ^ 5

/-- CTXW of a queue record (17 R373). -/
def State.putQueue (s : State) (i v : Nat) : M (State × Nat) :=
  let old := s.entry 0x16 i
  let c := natBits v 123 120
  if qValid old then
    .ok (if qValid v then (s, stInuse) else (s.destroyQueue i, 0))
  else if !qValid v then .ok (s, 0)
  else if natBit old 97 || c < 4 || 12 < c then .ok (s, stRule)
  else
    let s := s.createQueue i v
    .ok (s, s.queueHandle i * 2 ^ 32)

/-- CTXW: 16 R347, 17 R373. -/
def execCtxw (d a b : BitVec 5) (queue : Bool) (s : State) : Res :=
  if queue then
    s.directM [d, a, b] [] 0 4 fun s => do
      liftF (must (decide (1 ≤ s.me.lvl)) fPriv 0)
      let t := (s.me.getS b).toNat
      let ks ← s.imageKeys t (imageBytes 0x16) rR .load
      let (s, v) ← s.ccRead t ks
      let (s, st) ← (match s.tabIndex 0x16 (s.me.getS a).toNat with
        | none => .ok (s, stIndex)
        | some i => s.putQueue i v)
      .ok (s.upMe fun x => x.setS d (BitVec.ofNat 64 st))
  else s.tableWrite d a b 1 0x10 State.putContext

/-! ### TBR (17 R372; 15 R328) -/

/-- The code of an in-flight state (16 R352). -/
def TaskState.code : TaskState → Nat
  | .waiting => 0 | .ready => 1 | .resident => 2 | .swapped => 3 | .finished => 4

/-- An in-flight entry as TBR reads it (16 R352). -/
def State.taskImage (s : State) (i : Nat) : Nat :=
  match mfind s.tasks i with
  | none => 0
  | some x => 2 ^ 127 + x.state.code * 2 ^ 124 + x.ctx * 2 ^ 112 + (x.preds.length + x.futPreds.length) % 4096 * 2 ^ 100 +
      x.team % 2 ^ 15 * 2 ^ 64 + x.tq.record.toNat

/-- A region-map entry as TBR reads it (12 R282). -/
def State.regionImage (s : State) (i : Nat) : Nat :=
  let e := s.entry 0x0D i
  s.regionSeason i + b2n (natBit e 2) * 4 + b2n (!mget false s.used (regionUnit i)) * 8 + b2n (s.regionAlloc i) * 16

/-- The image of an entry. -/
def State.tabImage (s : State) (code i : Nat) : Nat :=
  match code with
  | 0x08 => (match (below 16).find? fun k => !(s.stack k).out with
    | some k => natBits (s.entry 0x08 (k * 1024 + i)) 512 512 * keyCount
    | none => 0)
  | 0x0B => ((s.tile (i / 16)).bankFmt (i % 16)).toNat
  | 0x0C => (mget 2#2 (s.tile (i / 16)).season (i % 16)).toNat
  | 0x0D => s.regionImage i
  | 0x10 => s.context i + b2n (s.activeCtxs.contains i) * 2 ^ 126
  | 0x12 => (mget 0#256 (s.tile (i / 8)).codebook (i % 8)).toNat
  | 0x15 => s.taskImage i
  | c => s.entry c i

/-- TBR: 17 R367 to R372. -/
def execTbr (d a b : BitVec 5) (code : BitVec 7) (s : State) : Res :=
  s.directM [d, a, b] [] 0 4 fun s => do
    let c := code.toNat
    liftF (must (decide (1 ≤ s.me.lvl)) fPriv 0)
    let t := (s.me.getS b).toNat
    let ks ← s.imageKeys t (imageBytes c) rW .store
    match s.tabIndex c (s.me.getS a).toNat with
    | none => .ok (s.upMe fun x => x.setS d (BitVec.ofNat 64 stIndex))
    | some i =>
      let s := s.ccWrite t (imageBytes c) (s.tabImage c i) ks
      .ok (s.upMe fun x => x.setS d 0#64)

/-! ### TLBI and SHARDR (17 R375, R376) -/

/-- Whether a translation entry is one that a TLBI of scope `sc` and operand `v` covers for every user: those of a buffer, of the buffers
of a VF, or all. A context's copies are not told from others' (log 41). -/
def State.tlbiCovers (s : State) (sc : TlbiScope) (v key : Nat) : Bool :=
  let code := key / 2 ^ 44
  let idx := key % 2 ^ 44
  let ofBuf := fun (b : Nat) =>
    let e := s.entry 0x00 b
    (decide (code = 0) && decide (idx = b)) ||
    (decide (code = 1) && decide (bufPmap e / 8 ≤ idx) && decide (idx < bufPmap e / 8 + ceilDiv (bufLen e) (2 ^ 21)))
  match sc with
  | .buf => ofBuf (v % 2 ^ 20)
  | .ctx => false
  | .vf => (decide (code = 3) && decide (idx = v % 2 ^ 9)) ||
      s.tab.any fun e => decide (0 < e.1) && decide (e.1 < 2 ^ 20) && decide (bufVf e.2 = v % 2 ^ 9) && ofBuf e.1
  | .all => decide (code ≤ 7)

/-- Whether a TLBI drops a tag of a cache (17 R375). -/
def State.tlbiDrops (s : State) (sc : TlbiScope) (v id tag : Nat) : Bool :=
  let kind := id / 2 ^ 16
  let buf := if kind = 1 then tag % 2 ^ 40 else tag / 2 ^ 20 % 2 ^ 20
  match sc with
  | .buf => decide (kind ≤ 2) && decide (buf = v % 2 ^ 20)
  | .ctx =>
    (decide (kind ≤ 1) && decide (tag / 2 ^ 40 = v % 2 ^ 12)) ||
    (decide (kind = 2) && decide ((s.slot ((id - streamTlb 0 0) / 3)).y.ctx.toNat = v % 2 ^ 12))
  | .vf => decide (kind ≤ 2) && decide (bufVf (s.entry 0x00 buf) = v % 2 ^ 9)
  | .all => true

/-- The number under which a TLBI stands among the changes that are not in force. -/
def tlbiKey (sc : TlbiScope) (v : Nat) : Nat :=
  tkey 0x0E ((match sc with | .buf => 0 | .ctx => 1 | .vf => 2 | .all => 3) * 2 ^ 20 + v % 2 ^ 20)

/-- The scope and operand of a TLBI. -/
def tlbiOf (key : Nat) : Option (TlbiScope × Nat) :=
  if key / 2 ^ 44 = 0x0E then
    some ((match key / 2 ^ 20 % 4 with | 0 => .buf | 1 => .ctx | 2 => .vf | _ => .all), key % 2 ^ 20)
  else none

/-- A TLBI begins: cached copies go, and it stands among the changes that are not in force. -/
def State.beginTlbi (s : State) (sc : TlbiScope) (v : Nat) : State :=
  { s.cacheDrop (s.tlbiDrops sc v) with pend := s.pend ++ [⟨tlbiKey sc v, 0, s.cur, s.me.ord⟩] }

/-- TLBI: 15 R336, 17 R375. Cached copies go; it is complete, for a FENCE.SC, once nothing translated through them is left. -/
def execTlbi (scope : TlbiScope) (a : BitVec 5) (s : State) : Res :=
  s.directM [a] [] 0 4 fun s => do
    liftF (must (decide (1 ≤ s.me.lvl)) fPriv 0)
    .ok (s.beginTlbi scope (s.me.getS a).toNat)

/-- What SHARDR leaves in its image: the offset, then NODE and HANDLE of the owner. -/
def shardrImage (o off : Nat) : Nat := off % 2 ^ 64 + (natBits o 126 115 * 2 ^ 32 + natBits o 114 95) * 2 ^ 64

/-- SHARDR: 17 R376. -/
def execShardr (d a b : BitVec 5) (s : State) : Res :=
  s.directM [d, a, b] [] 0 4 fun s => do
    liftF (must (decide (1 ≤ s.me.lvl)) fPriv 0)
    let t := (s.me.getS b).toNat
    let ks ← s.imageKeys t 56 rW .both
    let _ ← liftF (s.imageCheck t 56 rR)
    let (s, v) ← s.ccRead t ks
    let r := natBits v 263 256
    let e := natBits v 271 264
    let cs := (below r).map fun k => natBits v (64 * k + 63) (64 * k)
    if r < 1 || 4 < r || !([1, 2, 4] : List Nat).contains e then .ok (s.upMe fun x => x.setS d (BitVec.ofNat 64 stRule))
    else
      let i := s.issuer s.cur
      let found := (do
        let sh ← s.shardEntry i (s.me.getS a).toNat 0
        s.shardAt sh cs e 0 : Except Flt (Nat × Nat))
      match found with
      | .ok (o, off) =>
        let s := s.ccWrite (t + 40) 16 (shardrImage o off) ((ks.drop 40).take 16)
        .ok (s.upMe fun x => x.setS d 0#64)
      | .error f => if f.code = fShard then .ok (s.upMe fun x => x.setS d (BitVec.ofNat 64 stRange)) else .error (.fault f)

/-! ### In force (15 R330) -/

/-- Whether a command of CP still uses what it translated when it issued: the snapshot of a CPYS (15 R341), or a near-memory command. -/
def CopyJob.translated (j : CopyJob) : Bool :=
  j.entry.isNm || (j.entry.issued && match j.instr with
    | .cpys _ _ _ _ _ _ _ _ => true
    | _ => false)

/-- Whether nothing that translated before now is still to be performed, parked or completed: what slots have issued, requests that
base dies or targets have not answered. -/
def State.nothingTranslated (s : State) : Bool :=
  (s.slots.all fun (e : Nat × Slot) =>
    (e.2.loads.all fun a => a.lanes.isEmpty) && e.2.storeQ.isEmpty && e.2.journal.all fun j => !j.translated) &&
  s.pieces.isEmpty && s.stations.all fun (e : Nat × Station) => e.2.reqs.all fun r => r.answered

/-- Caches drop their copies of an entry (15 R330, R335). -/
def State.dropCopies (s : State) (code i : Nat) : State :=
  s.cacheDrop fun id tag =>
    let kind := id / 2 ^ 16
    let buf := if kind = 1 then tag % 2 ^ 40 else tag / 2 ^ 20 % 2 ^ 20
    let sh := s.entry 0x06 (tag % 2 ^ 20)
    match code with
    | 0 => decide (kind ≤ 2) && decide (buf = i)
    | 1 => (decide (kind = 0) || decide (kind = 2)) && decide (pmapIdx (s.entry 0x00 buf) (tag % 2 ^ 20) = i)
    | 3 => (decide (kind = 0) || decide (kind = 2)) && decide (bufVf (s.entry 0x00 buf) = i)
    | 6 => decide (kind = 3) && decide (tag % 2 ^ 20 = i)
    | 7 => decide (kind = 3) && decide (shOwners sh ≤ i) && decide (i < shOwners sh + natBits sh 372 360)
    | c => decide (kind = 4) && decide (tag = indexTag c i)

/-- A change is in force: caches drop the entry, and a segment frees the regions that left it. -/
def State.endChange (s : State) (p : PendWrite) : State :=
  let s := s.dropCopies (p.key / 2 ^ 44) (p.key % 2 ^ 44)
  if p.key / 2 ^ 44 = 3 then s.sendSpans 1 (s.leftRegions p.old) else s

/-- Change n is in force; a TLBI ends the older changes that it covers. -/
def State.comeInForce (s : State) (n : Nat) (p : PendWrite) : State :=
  let s := { s with pend := dropNth s.pend n }
  match tlbiOf p.key with
  | some (sc, v) =>
    let ends := fun (q : PendWrite) => s.tlbiCovers sc v q.key
    ((s.pend.take n).filter ends).foldl State.endChange
      { s with pend := (s.pend.take n).filter (fun q => !ends q) ++ s.pend.drop n }
  | none => s.endChange p

/-- TABLE_WRITE_IN_FORCE: 15 R330, R336; 13 R309; 16 R361. A change that stores made to page-map memory comes in force by a TLBI alone. -/
def execTableWriteInForce (n : Nat) (s : State) : Res :=
  .next (
    match s.pend[n]? with
    | none => s
    | some p =>
      if p.key / 2 ^ 44 = 0x13 then
        match s.poolStep (p.key % 2 ^ 44) with
        | (s, true) => { s with pend := dropNth s.pend n }
        | (s, false) => s
      else if p.slot = noSlot then s
      else if s.nothingTranslated then s.comeInForce n p
      else s)

end Sys2Proof.Machine
end

