-- ==== Sys2Proof/Machine/Swap.lean ====
section
/-! DEFINITION. Ends, reclamation and pre-emption of jobs (05 R136; 19 R398, R399; 20 R412 to R414), delayed trap entry (20
R409), the context save area (20 R416 to R419), and swapping of teams (20 R415). -/
namespace Sys2Proof.Machine

/-! ### Ends of jobs -/

/-- Whether something of a trap is in hand on a slot. -/
def Slot.calm (x : Slot) : Bool := !x.y.inTrap && x.drain.isNone && !x.job.stopped && !x.job.preempted && !x.anyLatch

/-- Whether the firmware of the home die of a slot's context has stopped: its tasks complete nothing more (23 R456). -/
def State.homeFailed (s : State) (n : Nat) : Bool := (s.die (ctxDie (s.context (s.slot n).y.ctx.toNat))).failed

/-- JOB_END: 05 R136; 18 R383; 01 R35. A member whose pre-emption is due at the end of its epilogue is cut first (20 R412). -/
def execJobEnd (s : State) : Res :=
  .next (
    let n := s.cur
    let x := s.me
    if x.job.part != .ended || !x.calm || !x.quiet (s.tile (tileOf n)) n || s.homeFailed n || (x.job.preemptReq && x.atBoundary) then s
    else
      let s := s.endQuanta n
      match x.job.task with
      | some t => s.finishTask t
      | none => s.leaveSlot n)

/-- The first boundary is behind the slot. -/
def Slot.passBoundary (x : Slot) : Slot := { x with job := { x.job with bounds := x.job.bounds.drop 1 } }

/-- Reclaim the running task of slot n: the cut is taken, and the job ends (19 R399). -/
def State.reclaimRunning (s : State) (n : Nat) : State :=
  match (s.slot n).job.task with
  | some t => (s.takeCut n).reclaimTask t
  | none => s

/-- TASK_RECLAIM: 19 R398, R399. The task's future is reclaimed, and its slot is at a boundary of its prologue or kernel, or is
cut or stopped. R398 speaks of what a task runs; where its dispatcher is in the epilogue and its engines have not reached the last
kernel boundary, the model takes it to run its kernel still and reclaims it at that boundary (log 76). -/
def execTaskReclaim (s : State) : Res :=
  .next (
    let n := s.cur
    let x := s.me
    let cut := x.job.preempted || x.job.stopped
    if s.doomed n && (cut || (x.atBoundary && x.job.part != .ended && x.calm && s.cutReady n false)) then s.reclaimRunning n else s)

/-! ### Pre-emption (20 R412 to R414) -/

/-- PREEMPT_REQUEST: 20 R412. -/
def execPreemptRequest (team : Nat) (s : State) : Res :=
  .next (s.askPreempt team)

/-- A team that is being pre-empted stops when its last member is cut, and is then ready (20 R414). -/
def State.teamStops (s : State) (team : Nat) : State :=
  let t := s.team team
  let cut := t.slots.all fun m =>
    let x := s.slot m
    decide (x.job.team ≠ team) || x.job.task.isNone || x.job.preempted || x.job.stopped
  if cut && t.state == .stopping then s.setTeam team { t with state := .preempted, since := max 1 s.dcc.toNat } else s

/-- The cut of a pre-emption (20 R412, R414). -/
def State.preemptCut (s : State) (n : Nat) : State :=
  let team := (s.slot n).job.team
  let s := s.takeCut n
  (s.upSlot n fun x => { x with job := { x.job with preempted := true, preemptReq := false } }).teamStops team

/-- PREEMPTION_CUT: 20 R412, R414; at the next boundary, the end of the prologue or of the epilogue among them. -/
def execPreemptionCut (s : State) : Res :=
  .next (
    let n := s.cur
    let x := s.me
    if x.job.preemptReq && x.atBoundary && x.calm && s.cutReady n false then
      (s.preemptCut n).upSlot n Slot.passBoundary
    else s)

/-- ITER_OVERRUN: 20 R413. -/
def execIterOverrun (s : State) : Res :=
  .next (
    let n := s.cur
    let x := s.me
    let used := s.dcc.toNat - x.job.iterStart.toNat
    let runs := x.job.part == .prologue || x.job.part == .kernel || x.job.part == .epilogue
    if x.job.preemptReq && runs && x.y.iterBudget != 0#32 && decide (x.y.iterBudget.toNat < used) && x.calm && s.cutReady n false then
      ((s.preemptCut n).report n rIter used).countCtx x.y.ctx.toNat 0
    else s)

/-! ### Trap entry (20 R406, R409) -/

/-- TRAP_ENTRY: 20 R406 to R409. The trap that waits for its cut is entered once the cut can be taken. -/
def execTrapEntry (s : State) : Res :=
  .next (
    let n := s.cur
    match s.me.drain with
    | none => s
    | some (f, tag, k) =>
      if s.cutReady n (decide (k / 8 = 3 ∧ f.code = fXlate)) then s.takeTrap n f tag (k % 8) (k / 8) else s)

/-! ### The context save area (20 R417). Areas whose inner layout the spec does not give are kept in `State.csa` only (log 14). -/

def words8 (l : List Word) : List Byte := l.foldl (fun acc w => acc ++ leBytes 8 w.toNat) []

/-- The saved system registers in number order (04 R106). -/
def Slot.sysWords (x : Slot) : List Word :=
  let y := x.y
  let w := fun (n : Nat) => BitVec.ofNat 64 n
  [w (b2n y.inTrap * 16 + y.prevLevel.toNat * 4 + y.level.toNat), w (b2n y.scoreboard), y.stampBase, y.seed, y.bwphase, w y.slip] ++
  ((below 32).map fun i => mget 0#64 y.spill i) ++
  [zext64 y.iterBudget, zext64 y.redMax, y.domain, zext64 y.tenant, zext64 y.ctx, zext64 x.guards, zext64 y.cause, y.trapPc,
    y.trapInfo, y.cutBase, y.csaBase] ++
  (below 8).map fun i => mget 0#64 y.reloc i

/-- Offsets of TRAP_CAUSE, TRAP_PC and TRAP_INFO in the CSA. -/
def csaTrap : Nat := 0x2900 + 8 * 44

/-- The pieces of a CSA, each with its offset. -/
def Slot.csaBytes (x : Slot) (reserve : Nat) : List (Nat × List Byte) :=
  let r := x.r
  [(0x0000, leBytes 8 (1 + 2 * b2n x.job.stopped + 4 * b2n (reserve ≠ 0)) ++ leBytes 8 reserve ++ leBytes 48 0),
   (0x0040, words8 (allEngines.map fun e => (x.eng e).pc) ++ words8 ((below 32).map fun i => mget 0#64 r.s i) ++
      leBytes 1 r.p.toNat ++ words8 ((below 8).map fun i => x.getK (BitVec.ofNat 3 i)) ++ leBytes 1 x.guards.toNat ++
      leBytes 10 r.tags.toNat),
   (0x0500, words8 ((below 128).map fun i => mget 0#64 r.x i)),
   (0x0900, (below 32).foldl (fun acc i => acc ++ leBytes 256 (mget 0#2048 r.v i).toNat) []),
   (0x2900, words8 x.sysWords),
   (0x2C00, (below 320).foldl (fun acc i => acc ++ leBytes 10 (mget 0#80 x.tmpl (64 + i)).toNat) []),
   (0xD200, leBytes 11776 0)]

/-- The sync unit of a slot's die writes the pieces of a CSA at a VA of the firmware's (20 R416). -/
def State.writeCsa (s : State) (n base reserve : Nat) (x : Slot) : State :=
  (x.csaBytes reserve).foldl (fun s p => (s.writeVa (.die (dieOf n)) (s.schedIssuer n) (base + p.1) rW p.2).1) s

/-- Save slot n (20 R416, R418, R419): to its CSA, or, where a save store faults, to a slot of the die's spill reserve. False
where neither can be written. -/
def State.saveSlot (s : State) (n : Nat) : State × Bool :=
  let x := s.slot n
  let base := x.y.csaBase.toNat
  let keep := fun (s : State) => { s with csa := mput s.csa base x }
  match s.checkVa (s.schedIssuer n) base 0x10000 rW with
  | .ok _ => (keep (s.writeCsa n base 0 x), true)
  | .error f =>
    let d := s.die (dieOf n)
    let s := (s.report n rReserve (if base ≤ f.info && f.info < base + 0x10000 then f.info - base else 0)).countDev (dieOf n) 2
    match firstIdx (fun (r : Nat × Nat) => decide (r.2 = 0)) d.reserve with
    | none => (s, false)
    | some i =>
      match d.reserve[i]? with
      | none => (s, false)
      | some r =>
        match s.checkVa (s.schedIssuer n) r.1 0x10000 rW with
        | .error _ => (s, false)
        | .ok _ =>
          let e := s.die (dieOf n)
          let s := s.setDie (dieOf n) { e with reserve := setNth e.reserve i (r.1, base) }
          (keep (s.writeCsa n r.1 r.1 x), true)

/-- The CSA that is restored on slot n is read, and the saved slot takes from it what firmware may have changed: the trap registers and
the header bit STOPPED (20 R417). -/
def State.restored (s : State) (n base : Nat) (x : Slot) : State × Slot :=
  let at_ := ((s.dies.findSome? fun (e : Nat × Die) => (e.2.reserve.find? fun r => r.2 = base).map Prod.fst)).getD base
  match s.readVa (.die (dieOf n)) ⟨0, 0, x.y.ctx.toNat, 1⟩ at_ 0x10000 rR with
  | (s, .error _) => (s, x)
  | (s, .ok bs) =>
    let rd := fun (o n : Nat) => leNat ((bs.drop o).take n)
    let y := { x.y with
      cause := BitVec.ofNat 32 (rd csaTrap 4), trapPc := BitVec.ofNat 64 (rd (csaTrap + 8) 8),
      trapInfo := BitVec.ofNat 64 (rd (csaTrap + 16) 8) }
    (s, { x with y := y, pc := if x.job.stopped then y.trapPc else x.pc, job := { x.job with stopped := natBit (rd 0 1) 1 } })

/-- The stream TLBs of a slot are dropped with a switch (15 R335, 20 R418). -/
def State.dropStreams (s : State) (n : Nat) : State :=
  s.cacheDrop fun id _ => decide (streamTlb n 0 ≤ id) && decide (id ≤ streamTlb n 2)

/-- Whether a slot stands at a cut with nothing of it left at a base die (20 R418). -/
def Slot.cutDone (x : Slot) : Bool := (x.job.preempted || x.job.stopped) && x.journal.all fun j => !j.entry.isNm

/-- A slot that cannot be saved stops, and its team is reclaimed (20 R419). -/
def State.unsaved (s : State) (n : Nat) : State :=
  let s := s.upSlot n fun x => { x with job := { x.job with stopped := true } }
  (s.team (s.slot n).job.team).tasks.foldl (fun s t => if s.inFlight t then s.reclaimTask t else s) s

/-- Put a saved slot back on slot n, which runs on from its cut (20 R411, R418). -/
def State.restoreSlot (s : State) (n base : Nat) : State :=
  match mfind s.csa base with
  | none => s
  | some x =>
    let (s, y) := s.restored n base x
    let s := (s.dropStreams n).setSlot n { y with job := { y.job with preempted := false } }
    let s := { s with csa := mdel s.csa base }
    let s := { s with dies := s.dies.map fun (e : Nat × Die) =>
      (e.1, { e.2 with reserve := e.2.reserve.map fun r => if r.2 = base then (r.1, 0) else r }) }
    let s := match y.job.task with
      | some t =>
        match mfind s.tasks t with
        | some k => s.setTask t { k with state := .resident, slot := some n }
        | none => s
      | none => s
    if y.job.stopped then s else s.resume n none

/-- CONTEXT_SWITCH: 20 R418, R419. The slot, which stands at a cut, is saved; the slot saved at the CSA `incoming` is restored
to it and resumes. -/
def execContextSwitch (incoming : Word) (s : State) : Res :=
  .next (
    let n := s.cur
    let x := s.me
    let known := (mfind s.csa incoming.toNat).isSome || decide (incoming = x.y.csaBase)
    if !x.cutDone || x.y.csaBase = 0#64 || !known then s
    else
      match s.saveSlot n with
      | (s, false) => s.unsaved n
      | (s, true) =>
        let s := match x.job.task with
          | some t =>
            match mfind s.tasks t with
            | some k => s.setTask t { k with state := .swapped, slot := none }
            | none => s
          | none => s
        let s := s.restoreSlot n incoming.toNat
        let team := (s.slot n).job.team
        let t := s.team team
        let all := t.slots.all fun m => decide ((s.slot m).job.team ≠ team) || !(s.slot m).job.preempted
        if t.state == .preempted && all then s.setTeam team { t with state := .resident } else s)

/-! ### Swapping (20 R415) -/

/-- What the reads of a swap meet in a team's granules on a tile: errors are corrected, or marked (23 R453). -/
def State.meetGranules (s : State) (team tile : Nat) : State :=
  ((s.upsets.filter fun (e : Nat × Nat) => e.2 != 0 && decide (e.1 * 8 < 2 ^ 31)).filter fun e =>
    ((s.tile tile).granulesOf team).any fun g => decide (e.1 * 8 / 2 ^ 22 = saTile tile) && decide (granuleOf (e.1 * 8) = g)).foldl
      (fun s e => s.meetUnit 0 (e.1 * 8)) s

/-- The per-team state of a team on a tile (01 R38): its fresh bits are `used`, the units that have been written. -/
def State.takeImage (s : State) (team tile : Nat) (slots : List Nat) : TileImage :=
  let t := s.tile tile
  let gs := t.granulesOf team
  let mine := fun (z : Nat) => match t.allocOf z with
    | some i => slots.contains (tile * 8 + i)
    | none => false
  let spill := t.spillCol.filter fun (e : Nat × Option (Nat × Nat)) => match e.2 with
    | some (n, _) => slots.contains n
    | none => false
  let inMine := fun (k : Nat) => gs.any fun g => decide (k / 2 ^ 22 = saTile tile) && decide (granuleOf k = g)
  { tile := tile
    z := t.z.filter fun (e : Nat × BitVec 2048) => mine (e.1 / 64) || (mfind spill e.1).isSome
    zStatus := t.zStatus.filter fun (e : Nat × BitVec 8) => mine e.1
    zAlloc := t.zAlloc.filter fun (e : Nat × Option Nat) => mine e.1
    zSpill := spill
    zPoison := t.zPoison.filter fun i => mine (i / 4096) || (mfind spill (i / 64)).isSome
    ptab := t.ptab
    claims := t.claims.filter fun c => decide (c.team = team)
    granules := gs
    spillGran := mget none t.spillGran team
    used := (s.used.filter fun (e : Nat × Bool) => e.2 && gs.any fun g => unitInGranule tile g e.1).map Prod.fst
    bytes := s.mem.filter fun c => decide (c.1 < 2 ^ 31) && inMine c.1
    poison := (s.poison.filter fun (e : Nat × Bool) => e.2 && decide (e.1 * 8 < 2 ^ 31) && inMine (e.1 * 8)).map Prod.fst }

/-- Put per-team state back in its place: what others left in its accumulator tiles and spill columns goes (20 R415). -/
def State.putImage (s : State) (team tenant : Nat) (i : TileImage) : State :=
  let s := i.granules.foldl (fun s g => s.allocGranule i.tile tenant team g) s
  let s := { s with used := i.used.foldl (fun m u => mput m u true) s.used }
  let s := i.bytes.foldl (fun s c => s.putByte c.1 c.2) s
  let s := { s with poison := i.poison.foldl (fun m u => mput m u true) s.poison }
  let t := (s.tile i.tile).addClaims i.claims
  let t := i.zAlloc.foldl (fun (t : Tile) (e : Nat × Option Nat) => t.freshZ e.1) t
  let t := i.zSpill.foldl (fun (t : Tile) (e : Nat × Option (Nat × Nat)) => t.vacate (e.1 / 64) (e.1 % 64)) t
  s.setTile i.tile { t with
    z := i.z.foldl (fun m (e : Nat × BitVec 2048) => mput m e.1 e.2) t.z
    zStatus := i.zStatus.foldl (fun m (e : Nat × BitVec 8) => mput m e.1 e.2) t.zStatus
    zAlloc := i.zAlloc.foldl (fun m (e : Nat × Option Nat) => mput m e.1 e.2) t.zAlloc
    zLast := i.zAlloc.foldl (fun m (e : Nat × Option Nat) => mput m e.1 (some (tenant, team))) t.zLast
    spillCol := i.zSpill.foldl (fun m (e : Nat × Option (Nat × Nat)) => mput m e.1 e.2) t.spillCol
    zPoison := i.zPoison ++ t.zPoison
    ptab := i.ptab.foldl (fun m (e : Nat × Option PTab) => if e.2.isSome then mput m e.1 e.2 else m) t.ptab
    spillGran := mput t.spillGran team i.spillGran }

/-- TEAM_SWAP_OUT: 20 R415. A team that has stopped is written out, and what it holds is freed. -/
def execTeamSwapOut (team : Nat) (s : State) : Res :=
  .next (
    let t := s.team team
    let live := t.slots.filter fun n => (s.slot n).job.team = team && (s.slot n).job.task.isSome
    if t.state != .preempted || live.any fun n => !(s.slot n).cutDone then s
    else
      match live.foldl (fun (r : State × Option Nat) n =>
          match r.2 with
          | some _ => r
          | none => match r.1.saveSlot n with
            | (s, true) => (s, none)
            | (s, false) => (s, some n)) (s, none) with
      | (s, some n) => s.unsaved n
      | (s, none) =>
        let s := t.tiles.foldl (fun s k => s.meetGranules team k) s
        let image := t.tiles.map fun k => s.takeImage team k live
        let s := live.foldl (fun s n =>
          let s := match (s.slot n).job.task with
            | some k =>
              match mfind s.tasks k with
              | some x => s.setTask k { x with state := .swapped, slot := none }
              | none => s
            | none => s
          s.leaveSlot n) s
        let s := t.tiles.foldl (fun s k => s.leaveTile k team) s
        (s.setTeam team { t with state := .swapped, image := image, since := max 1 s.dcc.toNat }).countCtx t.ctx 10)

/-- The CSA under which a task is saved. -/
def State.csaKey (s : State) (t : Nat) : Option Nat :=
  (s.csa.find? fun (e : Nat × Slot) => e.2.job.task = some t).map Prod.fst

/-- TEAM_SWAP_IN: 20 R415, R411. A swapped team that the die scheduler chose is restored where it was. -/
def execTeamSwapIn (team : Nat) (s : State) : Res :=
  .next (
    let t := s.team team
    let tenant := ctxTenant (s.context t.ctx)
    let members := (t.tasks.zip t.slots).filter fun p => s.inFlight p.1
    let fits := (members.all fun p => (s.slot p.2).vacant) && t.image.all (s.imageFits false)
    if t.state != .swapped || (s.die t.die).precede != some team || !fits then s
    else
      let s := t.image.foldl (fun s i => s.putImage team tenant i) s
      let s := s.setTeam team { t with state := .resident, image := [] }
      let s := members.foldl (fun s p => match s.csaKey p.1 with
        | some base => s.restoreSlot p.2 base
        | none => s) s
      s.setPrecede t.die none)

end Sys2Proof.Machine
end

