-- ==== Sys2Proof/Machine/TaskInstr.lean ====
section
/-! DEFINITION. Future, ticket and counter instructions (19): SPAWN, REF, DROP, AWAIT and AWAITL on the future records of 18
R382 to R384, YIELDL, reclamation points, TKTSET and TKTGET, DRAW, and the counter instructions of 18 R378. -/
namespace Sys2Proof.Machine

/-! ### References and order -/

/-- The references that the task of the moving slot holds (19 R393). -/
def State.myRefs (s : State) : List W32 := ((s.taskOf s.cur).map fun (t : Task) => t.refs).getD []

/-- Whether the reference list cannot take another handle: 64 entries (19 R393). -/
def State.refsFull (s : State) : Bool :=
  match s.taskOf s.cur with
  | some t => decide (64 ≤ t.refs.length)
  | none => true

def State.setRefs (s : State) (l : List W32) : State :=
  match s.me.job.task, s.taskOf s.cur with
  | some k, some t => s.setTask k { t with refs := l }
  | _, _ => s

/-- Take out one entry that matches a handle. -/
def dropOnce (h : W32) : List W32 → List W32
  | [] => []
  | a :: r => if a = h then r else a :: dropOnce h r

/-- Wait until an SY entry may touch an object of home `home` at a scope (08 R198, R201). -/
def State.syReadyAt (s : State) (en : Entry) (sc : Scope) (home : Nat) (k : AccKind) : M Unit :=
  need (s.pushClear s.cur sc en.ord && !s.fenced s.cur en.ord k [home])

/-- The order of an operation on the future record that a handle names (18 R382). -/
def State.futReady (s : State) (en : Entry) (h : W32) (k : AccKind) : M Unit :=
  let die := futSlot h / 8192 % 8
  s.syReady en (s.dieScope die) die k

/-- The handle in a captured register: its low 32 bits (log 18). -/
def Entry.handle (en : Entry) (a : BitVec 5) : W32 := (en.cap a).setWidth 32

/-- The reference to a handle is given up: its entry leaves the list and COUNT falls (19 R395). -/
def State.release (s : State) (h : W32) : State :=
  if s.myRefs.contains h then (s.setRefs (dropOnce h s.myRefs)).drops [h] else s

/-! ### SPAWN (19 R394) -/

/-- Entries of a task queue (13 R295). -/
def taskQueueMax : Nat := 4096

/-- Append an entry to the task queue of a context (13 R305). -/
def State.appendTask (s : State) (ctx : Nat) (e : TqEntry) : State :=
  { s with taskQ := mput s.taskQ ctx (mget [] s.taskQ ctx ++ [e]) }

/-- The future and the queue entry of a spawned task. -/
def State.spawnTask (s : State) (en : Entry) (f : Nat) (record : Word) : State × W32 :=
  let ctx := s.me.y.ctx.toNat
  let (s, h) := s.allocFuture f ctx false record
  let e : TqEntry := {
    record := record, handle := h, relocs := (below 8).map fun j => mget 0#64 en.caps (capReloc + j), decl := {},
    launch := s.launches + 1, member := 0, members := 1, spawned := true, tag := s.launchTag s.cur }
  ({ s with launches := s.launches + 1 }.appendTask ctx e, h)

/-- SPAWN: 19 R394. -/
def execSpawn (d a : BitVec 5) (s : State) : Res :=
  s.sync (.spawn d a) [a] { sd := some d } fun s en => do
    let t := en.cap a
    let ctx := s.me.y.ctx.toNat
    let die := s.myDie
    s.syReady en .p die .store
    liftF (must (decide (2 ^ 40 ≤ t.toNat)) fBound t.toNat)
    liftF (must (decide (t.toNat % 256 = 0)) fAlign t.toNat)
    liftF (s.checkVa (s.issuer s.cur) t.toNat 256 rR)
    match s.freeFuture die with
    | none => .ok (s.wantS d 0#64)
    | some f =>
      if s.refsFull || taskQueueMax ≤ (mget [] s.taskQ ctx).length then .ok (s.wantS d 0#64)
      else
        let (s, h) := s.spawnTask en f t
        .ok ((s.setRefs (s.myRefs ++ [h])).wantS d (zext64 h))

/-! ### REF, DROP, AWAIT, AWAITL (19 R395, R396) -/

/-- REF: 19 R395. -/
def execRefF (d : BitVec 3) (a : BitVec 5) (s : State) : Res :=
  s.sync (.refF d a) [a] { pd := some d } fun s en => do
    let h := en.handle a
    s.futReady en h .both
    s.futCheck s.me.y.tenant.toNat h
    let f := s.future (futSlot h)
    liftF (must (f.state != .reclaimed) fFuture h.toNat)
    if s.refsFull then .ok (s.wantP d false)
    else
      let s := s.setFuture (futSlot h) { f with count := min countMax (f.count + 1) }
      .ok ((s.setRefs (s.myRefs ++ [h])).wantP d true)

/-- DROP: 19 R395. -/
def execDropF (d : BitVec 3) (a : BitVec 5) (s : State) : Res :=
  s.sync (.dropF d a) [a] { pd := some d } fun s en => do
    let h := en.handle a
    s.futReady en h .both
    s.futCheck s.me.y.tenant.toNat h
    if s.myRefs.contains h then .ok ((s.release h).wantP d true) else .ok (s.wantP d false)

/-- AWAIT on a record that has left pending: done consumes the reference, reclaimed is FUTURE_GONE. -/
def State.awaitEnd (s : State) (d : BitVec 3) (h : W32) : M State := do
  liftF (must ((s.future (futSlot h)).state != .reclaimed) fFuture h.toNat)
  .ok ((s.release h).wantP d true)

/-- AWAIT: 19 R395. -/
def execAwait (d : BitVec 3) (a : BitVec 5) (s : State) : Res :=
  s.sync (.await d a) [a] { pd := some d } fun s en => do
    let h := en.handle a
    s.futReady en h .load
    s.futCheck s.me.y.tenant.toNat h
    if (s.future (futSlot h)).state == .pending then .ok (s.wantP d false) else s.awaitEnd d h

/-! ### Waits that lend (16 R355, R357; 19 R396, R397) -/

/-- A wait begins: the slot lends, and gives up its VX and CP quanta as YIELD does (19 R396, 05 R135). -/
def State.beginWait (s : State) (en : Entry) : State :=
  if s.me.lendSince.isSome then s
  else
    s.upMe fun x => { x.giveUp (s.tile (tileOf s.cur)) s.cur en.ord with lendSince := some s.dcc.toNat }

/-- The loan ends. -/
def State.endWait (s : State) : State := s.upMe fun x => { x with lendSince := none }

/-- The wait of the entry that SY executes goes on, ends with a fault, or ends and the entry retires. -/
def State.endLend (s : State) (en : Entry) (r : M State) : State :=
  match r with
  | .error .wait => s
  | .error (.fault f) => s.endWait.raiseEng s.cur .sy f en.tag
  | .error (.after t f) => t.endWait.raiseEng s.cur .sy f en.tag
  | .ok s => (s.endWait).upMe fun x => x.finish .sy en

/-- A waiting instruction that SY executes: `order` says that it may act, `body` waits while its object is not ready. -/
def State.issueLend (s : State) (en : Entry) (order : M Unit) (body : M State) : State :=
  match order with
  | .error _ => s
  | .ok _ =>
    match body with
    | .error .wait => s.beginWait en
    | r => s.endLend en r

/-- An event that looks again at the object of the wait that SY executes. -/
def State.lendEvent (s : State) (body : Instr → Entry → Option (M State)) : Res :=
  .next (
    match s.me.e.sy.active with
    | none => s
    | some en =>
      if s.me.lendSince.isNone || s.me.job.stopped || s.me.job.preempted || s.me.drain.isSome then s
      else
        match en.cmd with
        | .sy i =>
          match body i en with
          | some r => s.endLend en r
          | none => s
        | .eng _ => s
        | .movx _ _ => s)

/-- AWAITL's wait: pending holds it (19 R396). -/
def awaitlBody (d : BitVec 3) (h : W32) (s : State) : M State := do
  s.futCheck s.me.y.tenant.toNat h
  need ((s.future (futSlot h)).state != .pending)
  s.awaitEnd d h

/-- AWAITL: 19 R395, R396. -/
def execAwaitl (d : BitVec 3) (a : BitVec 5) (s : State) : Res :=
  match s.phase with
  | .dispatch => .next (s.submit (.awaitl d a) [a] { pd := some d })
  | .issue en => .next (s.issueLend en (s.futReady en (en.handle a) .load) (awaitlBody d (en.handle a) s))

/-- AWAITL_END: 19 R396. -/
def execAwaitlEnd (s : State) : Res :=
  s.lendEvent fun i en => match i with
    | .awaitl d a => some (awaitlBody d (en.handle a) s)
    | _ => none

/-- YIELDL's wait (19 R397). -/
def yieldlBody (kind : YKind) (a b : BitVec 5) (en : Entry) (s : State) : M State := do
  let v := (en.cap a).toNat
  let h := handleOf (en.cap a)
  let q := s.queueOf h
  match kind with
  | .counter => do
    liftF (must (decide (v < 256)) fIllegal 0)
    let w := s.counter s.me.y.ctx.toNat v
    need (ctrErr w || decide ((en.cap b).toNat ≤ ctrValue w))
    .ok s
  | .future => do
    liftF (must (decide (en.cap b = 0#64)) fIllegal 0)
    s.futCheck s.me.y.tenant.toNat (en.handle a)
    need ((s.future (futSlot (en.handle a))).state != .pending)
    .ok s
  | .data => do
    liftF (must (decide (en.cap b = 0#64)) fIllegal 0)
    s.queueCheck s.me.y.tenant.toNat h
    need (decide (0 < qOcc q))
    .ok s
  | .room => do
    liftF (must (decide (en.cap b = 0#64)) fIllegal 0)
    s.queueCheck s.me.y.tenant.toNat h
    need (decide (qOcc q < qCap q))
    .ok s

/-- YIELDL: 19 R397; it orders no access. -/
def execYieldl (kind : YKind) (a b : BitVec 5) (s : State) : Res :=
  match s.phase with
  | .dispatch => .next (s.submit (.yieldl kind a b) [a, b] {})
  | .issue en => .next (s.issueLend en (.ok ()) (yieldlBody kind a b en s))

/-- YIELDL_READY: 19 R397. -/
def execYieldlReady (s : State) : Res :=
  s.lendEvent fun i en => match i with
    | .yieldl kind a b => some (yieldlBody kind a b en s)
    | _ => none

/-! ### Reclamation points (19 R398) -/

/-- RPOINT: 19 R398, R399. One that the kernel dispatched ends a task whose record is reclaimed, as soon as the cut can be
taken. -/
def execRpoint (s : State) : Res :=
  match s.phase with
  | .dispatch => .next (s.submit .rpoint [] {})
  | .issue en =>
    .next (
      if mget 0#64 en.caps capKernel = 1#64 && s.doomed s.cur then
        (if s.cutReady s.cur false then s.reclaimRunning s.cur else s)
      else s.upMe fun x => x.finish .sy en)

/-! ### Tickets (19 R401) and draws (R402) -/

/-- The context that a register names: valid, and of the tenant (19 R401). -/
def State.tktContext (s : State) (v : Word) : M Nat := do
  liftF (must (decide (v.toNat < 4096)) fIllegal 0)
  let e := s.context v.toNat
  liftF (must (ctxValid e && decide (ctxTenant e = s.me.y.tenant.toNat)) fOwner v.toNat)
  .ok e

/-- TKTSET: 19 R401. -/
def execTktset (d a b : BitVec 5) (s : State) : Res :=
  s.sync (.tktset d a b) [a, b] { sd := some d } fun s en => do
    s.syReady en .p s.myDie .both
    let e ← s.tktContext (en.cap a)
    let v := min (en.cap b).toNat (2 ^ 32 - 1)
    .ok ((s.setEntry 0x10 (en.cap a).toNat (natSetBits e 98 67 v)).wantS d (BitVec.ofNat 64 (ctxTickets e)))

/-- TKTGET: 19 R401. -/
def execTktget (d a : BitVec 5) (sel : TktSel) (s : State) : Res :=
  s.sync (.tktget d a sel) [a] { sd := some d } fun s en => do
    s.syReady en .p s.myDie .load
    let x := s.me
    if sel.toNat = 0 then do
      let e ← s.tktContext (en.cap a)
      .ok (s.wantS d (BitVec.ofNat 64 (ctxTickets e)))
    else do
      liftF (must (decide (sel.toNat ≤ 4) && decide (en.cap a = 0#64)) fIllegal 0)
      let v := match sel.toNat with
        | 1 => s.eff x.y.ctx.toNat
        | 2 => s.slotLoans s.cur
        | 3 => x.compVx
        | _ => x.compCp
      .ok (s.wantS d (BitVec.ofNat 64 v))

/-- DRAW: 19 R402. -/
def execDraw (d a : BitVec 5) (s : State) : Res :=
  s.sync (.draw d a) [a] { sd := some d } fun s en => do
    s.syReadyAt en .t (saTile (tileOf s.cur)) .both
    let v := (en.cap a).toNat
    liftF (must (decide (v < 2 ^ 32)) fIllegal 0)
    let u := (praline en.seed s.me.draws).toNat
    let s := s.upMe fun x => { x with draws := x.draws + 1#64 }
    .ok (s.wantS d (BitVec.ofNat 64 (if v = 0 then u else u * v / 2 ^ 32)))

/-! ### Counters (18 R378; 19 R403) -/

/-- The indices of a class (18 R378, R390). -/
def selLimit (cls : Nat) : Nat :=
  match cls with
  | 0 => 256 | 1 => 16 | 2 => 16 | 3 => 1 | 4 => 4 | 5 => 2 | 6 => 135 | _ => 0

/-- The selector in a register, when it names a counter. -/
def selOk (v : Nat) : Bool := decide (v < 2 ^ 16) && decide (selIndex v < selLimit (selClass v))

/-- The order of an access to a counter of a class (18 R380; 08 R198): the slot's own, the die's, or those of the context. -/
def State.ctrReady (s : State) (en : Entry) (cls : Nat) (k : AccKind) : M Unit :=
  if cls = 0 || cls = 2 then s.syReady en (s.dieScope s.myDie) s.myDie k
  else if cls = 6 then s.syReady en .d (dieOf s.cur) k
  else s.syReadyAt en .t (saTile (tileOf s.cur)) k

/-- The level at which an entry was dispatched. -/
def Entry.level (en : Entry) : Nat := (mget 0#64 en.caps capLevel).toNat

/-- A counter as CTRGET reads it (19 R403). -/
def State.ctrRead (s : State) (cls idx : Nat) : Word :=
  let x := s.me
  let w := fun (n : Nat) => BitVec.ofNat 64 n
  match cls with
  | 0 => s.counter x.y.ctx.toNat idx
  | 1 => mget 0#64 x.rsc idx
  | 2 => w (mget 0 s.ctxEvents (x.y.ctx.toNat * 16 + idx))
  | 3 => s.dcc
  | 4 =>
    match idx with
    | 0 => zext64 x.dom.phase
    | 1 => zext64 x.dom.rx
    | 2 => w x.dom.rxNext
    | _ => if x.dom.arrived then zext64 x.dom.rx else 0#64
  | 5 => if idx = 0 then x.draws else x.vrand
  | _ => w (mget 0 s.devEvents (dieOf s.cur * 4096 + idx))

/-- CTRGET: 18 R378, 19 R403. -/
def execCtrget (d a : BitVec 5) (s : State) : Res :=
  s.sync (.ctrget d a) [a] { sd := some d } fun s en => do
    let v := (en.cap a).toNat
    s.ctrReady en (selClass v) .load
    liftF (must (selOk v) fIllegal 0)
    liftF (must (decide (selClass v ≠ 6) || decide (1 ≤ en.level)) fPriv 0)
    .ok (s.wantS d (s.ctrRead (selClass v) (selIndex v)))

/-- Write a context event counter; indices 13 to 15 read 0 (18 R389). -/
def State.setCtxEvent (s : State) (idx v : Nat) : State :=
  if 13 ≤ idx then s else { s with ctxEvents := mput s.ctxEvents (s.me.y.ctx.toNat * 16 + idx) v }

/-- CTRSET: 18 R378, 19 R403. -/
def execCtrset (a b : BitVec 5) (s : State) : Res :=
  s.sync (.ctrset a b) [a, b] {} fun s en => do
    let v := (en.cap a).toNat
    let w := en.cap b
    let cls := selClass v
    let idx := selIndex v
    s.ctrReady en cls .store
    liftF (must (selOk v) fIllegal 0)
    match cls with
    | 0 => .ok ((s.setCounter s.me.y.ctx.toNat idx w).nameCounter s.cur idx)
    | 1 => .ok (s.upMe fun x => { x with rsc := mput x.rsc idx w })
    | 2 => do
      liftF (must (decide (1 ≤ en.level)) fPriv 0)
      .ok (s.setCtxEvent idx (fld w 47 0))
    | 6 => do
      liftF (must (decide (1 ≤ en.level) && decide (w = 0#64)) fPriv 0)
      .ok { s with devEvents := mput s.devEvents (dieOf s.cur * 4096 + idx) 0 }
    | _ => faultM fPriv 0

/-- CTRADD: 18 R378, R380; 19 R403. -/
def execCtradd (a b : BitVec 5) (s : State) : Res :=
  s.sync (.ctradd a b) [a, b] {} fun s en => do
    let v := (en.cap a).toNat
    let n := (en.cap b).toInt
    let cls := selClass v
    let idx := selIndex v
    s.ctrReady en cls .store
    liftF (must (selOk v) fIllegal 0)
    match cls with
    | 0 => .ok ((s.counterAdd s.me.y.ctx.toNat idx n false).nameCounter s.cur idx)
    | 2 => do
      liftF (must (decide (1 ≤ en.level)) fPriv 0)
      .ok (s.setCtxEvent idx (clamp48 (mget 0 s.ctxEvents (s.me.y.ctx.toNat * 16 + idx)) n))
    | _ => faultM fPriv 0

end Sys2Proof.Machine
end

