-- ==== Sys2Proof/Machine/Launch.lean ====
section
/-! DEFINITION. Launch descriptions (21 R433, R434), host commands (21 R431), and what loading and invoking a model do (21 R433,
R435; 25 R464; 28 R476). -/
namespace Sys2Proof.Machine

/-! ### Functions and queues (21 R423, R429) -/

/-- A function's number: VF ids, then the two PFs. -/
def fnKey : Fn → Nat
  | .vf id => id.toNat
  | .pf b => 512 + b2n b

/-- A host queue's number: VF × 16 + queue is the launch tag of 20 R420. -/
def hqKey (fn : Fn) (q : BitVec 4) : Nat := fnKey fn * 16 + q.toNat

def State.vf (s : State) (v : Nat) : Vf := mget {} s.vfs v
def State.setVf (s : State) (v : Nat) (x : Vf) : State := { s with vfs := mput s.vfs v x }
def State.upVf (s : State) (v : Nat) (f : Vf → Vf) : State := s.setVf v (f (s.vf v))
def State.port (s : State) (b : Bool) : Port := if b then s.portB else s.portA
def State.setPort (s : State) (b : Bool) (p : Port) : State := if b then { s with portB := p } else { s with portA := p }

def State.hostQ (s : State) (k : Nat) : HostQ := mget {} s.hq k
def State.setHostQ (s : State) (k : Nat) (q : HostQ) : State := { s with hq := mput s.hq k q }
def State.upHostQ (s : State) (k : Nat) (f : HostQ → HostQ) : State := s.setHostQ k (f (s.hostQ k))

def HostQ.valid (q : HostQ) : Bool := q.record.getLsbD 127
def HostQ.logcap (q : HostQ) : Nat := fld q.record 126 123
def HostQ.cap (q : HostQ) : Nat := 2 ^ q.logcap
def HostQ.ctx (q : HostQ) : Nat := fld q.record 122 111
def HostQ.vector (q : HostQ) : Nat := fld q.record 110 105
def HostQ.sqbase (q : HostQ) : Nat := fld q.record 79 40
def HostQ.cqbase (q : HostQ) : Nat := fld q.record 39 0

/-- The port of a function. -/
def State.portOf (s : State) : Fn → Bool
  | .pf b => b
  | .vf id => (s.vf id.toNat).portB

/-- Whether the host reaches a function: bring-up is complete, its port is up, and a VF is enabled (23 R458). -/
def State.fnUp (s : State) (fn : Fn) : Bool :=
  s.mgmt.ready && (s.port (s.portOf fn)).up &&
  (match fn with | .pf _ => true | .vf id => (s.vf id.toNat).enabled)

/-- The tenant of a function (21 R423, R424): its segment's, or the PF's. -/
def State.fnTenant (s : State) : Fn → Nat
  | .pf b => (s.port b).tenant.toNat
  | .vf id => natBits (s.entry 0x03 id.toNat) 31 24

/-- The WIN_MEM buffer of a function: the lowest valid buffer of its tenant, and for a VF backed by its segment (log 22). -/
def State.winBuf (s : State) (fn : Fn) : Option Nat :=
  minOf ((s.tab.filter fun (e : Nat × Nat) =>
    decide (e.1 / 2 ^ 44 = 0) && natBit e.2 255 && decide (natBits e.2 239 232 = s.fnTenant fn) &&
    (match fn with | .pf _ => true | .vf id => decide (bufVf e.2 = id.toNat))).map fun e => e.1 % 2 ^ 44)

/-- Who the front end acts as for a function. -/
def State.fnIssuer (s : State) (fn : Fn) : Issuer := ⟨s.fnTenant fn, 0, 4096, 0⟩

/-- The front end stands at the host ports, on CD-0 (01 R12, 21 R423). -/
def frontEnd : Origin := .die 0

/-- Bytes at a VA as the front end reads them; none where a check fails or a byte is poisoned. -/
def State.fetchAs (s : State) (i : Issuer) (va len : Nat) : Option (List Byte) := (s.readVa frontEnd i va len rR).2.toOption

/-- The state after that read. -/
def State.fetched (s : State) (i : Issuer) (va len : Nat) : State := (s.readVa frontEnd i va len rR).1

/-- Write bytes at a VA; dropped where a check fails. -/
def State.storeAs (s : State) (i : Issuer) (va : Nat) (bs : List Byte) : State := (s.writeVa frontEnd i va rW bs).1

/-! ### Commands (21 R431) -/

/-- A command as read from its ring. -/
structure HostWord where
  opc : Nat
  flags : Nat
  mslot : Nat
  mgen : Nat
  addrs : List Nat
deriving DecidableEq, Repr

def HostWord.nbuf (c : HostWord) : Nat := c.flags % 16
def HostWord.irq (c : HostWord) : Bool := natBit c.flags 4

/-- The command in 64 bytes. -/
def parseCommand (bs : List Byte) : HostWord :=
  let f := recField bs
  { opc := f 0 1, flags := f 1 1, mslot := f 2 2, mgen := f 4 4, addrs := (below 8).map fun i => f (8 + 7 * i) 7 }

/-- The VA of the command with count n of a queue. -/
def State.commandVa (s : State) (fn : Fn) (q : HostQ) (n : Nat) : Nat :=
  ((s.winBuf fn).getD 0) * 2 ^ 40 + q.sqbase + 64 * (n % q.cap)

/-- The command with count n of a queue; one that cannot be read is all ones. -/
def State.commandAt (s : State) (fn : Fn) (q : HostQ) (n : Nat) : HostWord :=
  parseCommand ((s.fetchAs (s.fnIssuer fn) (s.commandVa fn q n) 64).getD (List.replicate 64 0xFF#8))

/-- The state after the front end has read the next command of a queue. -/
def State.afterCommand (s : State) (fn : Fn) (q : HostQ) : State := s.fetched (s.fnIssuer fn) (s.commandVa fn q q.head.toNat) 64

/-- Reserved bits or values (21 R431, R435). -/
def HostWord.bad (c : HostWord) : Bool :=
  decide (c.opc < 1) || decide (3 < c.opc) || decide (c.flags / 32 ≠ 0) || decide (8 < c.nbuf) || decide (c.mslot / 64 ≠ 0) ||
  (c.opc == 2 && decide (c.mgen ≠ 0)) || (c.addrs.drop c.nbuf).any fun a => decide (a ≠ 0)

/-- Whether an address has buffer index 0 or an offset beyond 40 bits. -/
def badAddr (a : Nat) : Bool := decide (natBits a 55 36 = 0) || decide (natBits a 35 32 ≠ 0)

/-- The VA that an address stands for. -/
def addrVa (a : Nat) : Nat := natBits a 55 36 * 2 ^ 40 + natBits a 35 0 * 256

/-! ### Launch descriptions (21 R433, R434) -/

/-- A declared buffer: RELOC index, rights, size. -/
structure BufDecl where
  reloc : Nat
  rights : Nat
  size : Nat
deriving DecidableEq, Repr

/-- A launch description: record VAs in order, declared buffers, and declarations by entry index. -/
structure Launch where
  tasks : List Nat := []
  bufs : List BufDecl := []
  decls : List (Nat × Decl) := []
deriving DecidableEq, Repr

/-- Whether the bytes from `lo` to `hi` - 1 of an entry are zero. -/
def zeroBytes (bs : List Byte) (lo hi : Nat) : Bool := ((bs.take hi).drop lo).all fun b => b == 0#8

/-- A BANK_FMT value that a description may hold (21 R433). -/
def fmtAllowed (v : Nat) : Bool :=
  decide (v / 256 = 0) && decide (v % 16 < 14) &&
    (!natBit v 7 || decide (v % 16 = 13) || decide (v % 16 = 11) || decide (v % 16 = 12))

/-- The bytes of an entry with its data, by its kind. -/
def entryLen (kind : Nat) : Nat := if kind = 4 then 48 else 16

/-- One entry other than the end; none where R433 gives FORMAT. -/
def Launch.entry (l : Launch) (bs : List Byte) : Option Launch :=
  let f := recField bs
  match f 0 1 with
  | 1 => if zeroBytes bs 1 8 then some { l with tasks := l.tasks ++ [f 8 8] } else none
  | 2 =>
    if (f 1 1 < 8 || f 1 1 = 255) && decide (f 2 1 < 32) && zeroBytes bs 3 8 then
      some { l with bufs := l.bufs ++ [⟨f 1 1, f 2 1, f 8 8⟩] }
    else none
  | 3 =>
    if decide (f 2 1 < 16) && zeroBytes bs 3 4 && zeroBytes bs 6 16 && fmtAllowed (f 4 2) then
      some { l with decls := l.decls ++ [(f 1 1, { banks := [(f 2 1, f 4 2)] })] }
    else none
  | 4 =>
    if decide (f 2 1 < 8) && zeroBytes bs 3 16 then
      some { l with decls := l.decls ++ [(f 1 1, { codebooks := [(f 2 1, f 16 32)] })] }
    else none
  | 5 =>
    if decide (1 ≤ f 2 1) && decide (f 2 1 ≤ 64) && zeroBytes bs 3 16 then
      some { l with decls := l.decls ++ [(f 1 1, { granules := f 2 1 })] }
    else none
  | _ => none

/-- A description that R433 admits: it has a root and its member indices name entries. -/
def Launch.ok (l : Launch) : Bool := !l.tasks.isEmpty && l.decls.all fun d => decide (d.1 < l.tasks.length)

/-- Read the entries from a VA on until kind 0, with fuel. -/
def State.readLaunch (i : Issuer) : Nat → Nat → Launch → State → State × Option Launch
  | 0, _, _, s => (s, none)
  | fuel + 1, va, l, s =>
    match s.fetchAs i va 16 with
    | none => (s.fetched i va 16, none)
    | some bs =>
      let kind := recField bs 0 1
      let s := s.fetched i va 16
      if kind = 0 then (s, if zeroBytes bs 1 16 then some l else none)
      else
        match (s.fetchAs i va (entryLen kind)).bind l.entry with
        | none => (s, none)
        | some m => State.readLaunch i fuel (va + entryLen kind) m s

/-- Read the launch description at a VA; none where R433 gives FORMAT, or it cannot be read. -/
def State.launchAt (s : State) (i : Issuer) (va : Nat) : State × Option Launch :=
  let left := bufLen (s.entry 0x00 (vaIndex va)) - vaOffset va
  let r := State.readLaunch i (left / 16 + 1) va {} s
  (r.1, r.2.bind fun l => if l.ok then some l else none)

/-- What the entries for member entry m declare: granules add up. -/
def Launch.declOf (l : Launch) (m : Nat) : Decl :=
  (l.decls.filter fun d => d.1 = m).foldl (fun (a : Decl) d =>
    { granules := a.granules + d.2.granules, banks := a.banks ++ d.2.banks, codebooks := a.codebooks ++ d.2.codebooks }) {}

/-! ### Declared buffers (21 R433; log 22) -/

/-- The page-map places that are not free: (first, number). They are those of valid buffers, and, page maps being memory, those in
regions of a carve-out or of no stack (15 R333, R334; log 22). -/
def State.pmapUsed (s : State) : List (Nat × Nat) :=
  ((s.tab.filter fun (e : Nat × Nat) => decide (e.1 / 2 ^ 44 = 0) && natBit e.2 255).map fun e =>
    (bufPmap e.2 / 8, ceilDiv (bufLen e.2) (2 ^ 21))) ++
  (below 16).flatMap fun k =>
    let regions := if (s.stack k).accepted then (s.stack k).regions else 0
    (k * 2 ^ 33 + regions * 2 ^ 18, 2 ^ 33 - regions * 2 ^ 18) ::
      (s.tab.filter fun (e : Nat × Nat) => decide (e.1 / 2 ^ 44 = 3) && natBit e.2 63).map fun e =>
        (k * 2 ^ 33 + natBits e.2 15 0 * 2 ^ 18, natBits e.2 47 32 * 2 ^ 18)

def State.framesUsed (s : State) (vf : Nat) : List (Nat × Nat) :=
  (s.tab.filter fun (e : Nat × Nat) => decide (e.1 / 2 ^ 44 = 0) && natBit e.2 255 && decide (bufVf e.2 = vf)).foldl
    (fun (acc : List (Nat × Nat)) e =>
      acc ++ ((below (ceilDiv (bufLen e.2) (2 ^ 21))).filter fun j => natBit (s.entry 0x01 (pmapIdx e.2 j)) 63).map fun j =>
        (natBits (s.entry 0x01 (pmapIdx e.2 j)) 18 0, 16 / max 1 (bufStacks e.2))) []

/-- The lowest multiple of `step`, at an end of an interval in use or at 0, from which `len` numbers are free. -/
def lowestFree (used : List (Nat × Nat)) (step len : Nat) : Option Nat :=
  minOf (((0 :: used.map fun u => ceilDiv (u.1 + u.2) step * step)).filter fun o =>
    used.all fun u => decide (o + len ≤ u.1) || decide (u.1 + u.2 ≤ o))

/-- The lowest free buffer index. -/
def State.freeBuffer (s : State) : Option Nat := (firstFrom (2 ^ 20 - 1) 1 fun i => !natBit (s.entry 0x00 i) 255)

/-- Give the stripes j to j + n - 1 of a page map their frames. -/
def State.mapStripes (s : State) (vf idx step n : Nat) : Option State :=
  (below n).foldl (fun (r : Option State) j => r.bind fun s =>
    (lowestFree (s.framesUsed vf ++ ((below j).map fun i => (natBits (s.entry 0x01 (idx + i)) 18 0, step))) step step).bind fun f =>
      if (f + step) * 2 ^ 17 ≤ natBits (s.entry 0x03 vf) 47 32 * 2 ^ 21 then some (s.setEntry 0x01 (idx + j) (2 ^ 63 + f)) else none)
    (some s)

/-- Create a declared buffer beside the buffer that holds the description: its VA. -/
def State.createBuffer (s : State) (like tenant : Nat) (b : BufDecl) : Option (State × Nat) :=
  if 2 ^ 40 < b.size then none
  else
    s.freeBuffer.bind fun i =>
      let n := ceilDiv b.size (2 ^ 21)
      (lowestFree s.pmapUsed 1 n).bind fun place =>
        (s.mapStripes (bufVf like) place (16 / max 1 (bufStacks like)) n).map fun s =>
          let e := 2 ^ 255 + b.rights * 2 ^ 250 + bufKey like * 2 ^ 240 + tenant * 2 ^ 232 + natBits like 219 191 * 2 ^ 191 +
            b.size * 2 ^ 139 + place * 8
          (s.setEntry 0x00 i e, i * 2 ^ 40)

/-- Create the declared buffers in order: their VAs. -/
def State.createBuffers (s : State) (like tenant : Nat) (bs : List BufDecl) : Option (State × List Nat) :=
  bs.foldl (fun (r : Option (State × List Nat)) b => r.bind fun c =>
    (c.1.createBuffer like tenant b).map fun d => (d.1, c.2 ++ [d.2])) (some (s, []))

/-! ### Records of a model (28 R476) -/

/-- A part address of a record: an offset in the buffer that holds the record until MODEL_LOAD writes the VA (log 27). -/
def partVa (record a : Nat) : Nat := if a < 2 ^ 40 then vaIndex record * 2 ^ 40 + a else a

/-- A range address: the marker of a declared buffer gives its VA. -/
def rangeVa (vas : List Nat) (a : Nat) : Nat := if a / 2 ^ 60 = 15 then vas.getD (a % 2 ^ 60) a else a

/-- A record as MODEL_LOAD leaves it. -/
def loadedRec (record ctx : Nat) (vas : List Nat) (bs : List Byte) : List Byte :=
  let f := recField bs
  let addr := fun (o : Nat) => leBytes 8 (rangeVa vas (f o 8)) ++ leBytes 8 (f (o + 8) 8)
  leBytes 8 (partVa record (f 0 8)) ++ leBytes 8 (partVa record (f 8 8)) ++ leBytes 8 (partVa record (f 16 8)) ++
  (bs.take 0x38).drop 24 ++ leBytes 2 ctx ++ (bs.take 0x80).drop 0x3A ++
  (below 8).foldl (fun acc i => acc ++ addr (0x80 + 16 * i)) []

/-- Bytes that MODEL_LOAD read are written back; the buffer of a model need not grant W (21 R434). -/
def State.loadedAs (s : State) (i : Issuer) (va : Nat) (bs : List Byte) : State := (s.writeVa frontEnd i va rR bs).1

/-- MODEL_LOAD writes the records that a description names. -/
def State.loadRecords (s : State) (i : Issuer) (ctx : Nat) (vas : List Nat) (rs : List Nat) : State :=
  (rs.foldl addNew []).foldl (fun s r =>
    match s.fetchAs i r 256 with
    | none => s
    | some bs => (s.fetched i r 256).loadedAs i r (loadedRec r ctx vas bs)) s

/-! ### Launches (21 R435; 25 R464; 01 R21, R22) -/

/-- A model slot's number: the group of the queue's context (21 R433), × 64. -/
def State.modelKey (s : State) (q : HostQ) (m : Nat) : Nat := s.vfOfCtx q.ctx * 64 + m % 64

def State.model (s : State) (k : Nat) : Model := mget {} s.models k
def State.setModel (s : State) (k : Nat) (m : Model) : State := { s with models := mput s.models k m }

/-- The most members of a team at a level (01 R22). -/
def State.teamLimit (s : State) (level : Nat) : Nat :=
  match level with
  | 0 => 8
  | 1 => 384
  | 2 => 3072
  | _ => 3072 * popCount 64 (s.station 0).members.toNat

/-- Whether a launch breaks R22; a record that cannot be read is refused when it enters. -/
def State.overLimit (s : State) (ctx : Nat) (l : Launch) : Bool :=
  (l.tasks.foldl addNew []).any fun r =>
    match (s.readRec ctx (BitVec.ofNat 64 r)).2 with
    | none => false
    | some bs => decide (s.teamLimit (domLevel (BitVec.ofNat 64 (recField bs 0x20 8))) < (l.tasks.filter fun t => t = r).length)

/-- Free future records of a die that have generations left. -/
def State.freeFutures (s : State) (die : Nat) : Nat :=
  8192 - (s.futures.filter fun (e : Nat × Future) =>
    decide (e.1 / 8192 = die) && (e.2.state != .free || decide (4095 ≤ e.2.gen))).length

/-- The RELOC values of a launch (21 R435). -/
def launchRelocs (c : HostWord) (m : Model) : List Word :=
  (below 8).map fun i => if i < c.nbuf then BitVec.ofNat 64 (addrVa (c.addrs.getD i 0)) else mget 0#64 m.buffers i

/-- Append the tasks of a launch: a future held by the front end and a queue entry for each (21 R435; 25 R464). -/
def State.launch (s : State) (ctx : Nat) (tag : Nat) (relocs : List Word) (l : Launch) : State × List W32 :=
  let recs := l.tasks.foldl addNew []
  let base := s.launches + 1
  let die := ctxDie (s.context ctx)
  ((below l.tasks.length).foldl (fun (r : State × List W32) m =>
    let va := l.tasks.getD m 0
    match r.1.freeFuture die with
    | none => r
    | some f =>
      let (s, h) := r.1.allocFuture f ctx true (BitVec.ofNat 64 va)
      let e : TqEntry := {
        record := BitVec.ofNat 64 va, handle := h, relocs := relocs, decl := l.declOf m,
        launch := base + ((firstIdx (fun a => decide (a = va)) recs).getD 0),
        member := ((l.tasks.take m).filter fun t => t = va).length, members := (l.tasks.filter fun t => t = va).length,
        spawned := false, tag := some tag }
      (s.appendTask ctx e, r.2 ++ [h])) ({ s with launches := s.launches + recs.length }, []))

end Sys2Proof.Machine
end

