-- ==== Sys2Proof/Machine/Host.lean ====
section
/-! DEFINITION. Host ports, queues and semaphores (21 R423 to R435; 13 R311), queue reset and VF teardown (20 R420, R421), TDISP
and SPDM (21 R436 to R440). -/
namespace Sys2Proof.Machine

/-! ### Kicks and rings (13 R311; 21 R430, R432) -/

/-- A queue stops; the reason of a stop that stands is kept. -/
def HostQ.stop (q : HostQ) (reason : Nat) : HostQ := if q.stopped then q else { q with stopped := true, reason := reason }

/-- A kick (13 R311): one beyond 2^c ahead of the head stops the queue. -/
def HostQ.kick (q : HostQ) (tail : W32) : HostQ :=
  if q.cap < (tail - q.head).toNat then q.stop 1 else { q with tail := tail }

/-- A write of CQHEAD (21 R432). -/
def HostQ.consume (q : HostQ) (head : W32) : HostQ :=
  if q.cap < (q.done - head).toNat then q.stop 4 else { q with cqhead := head }

/-- A host write to a queue block of a function that the host reaches, for a queue that exists. -/
def State.queueWrite (s : State) (fn : Fn) (q : BitVec 4) (f : HostQ → HostQ) : State :=
  if s.fnUp fn && (s.hostQ (hqKey fn q)).valid then s.upHostQ (hqKey fn q) f else s

/-- HOST_KICK: 13 R311, 21 R430. -/
def execHostKick (fn : Fn) (q : BitVec 4) (tail : W32) (s : State) : Res := .next (s.queueWrite fn q fun x => x.kick tail)

/-- CQHEAD_WRITE: 21 R432. -/
def execCqheadWrite (fn : Fn) (q : BitVec 4) (head : W32) (s : State) : Res := .next (s.queueWrite fn q fun x => x.consume head)

/-- Whether a function is a VF in ERROR. -/
def State.fnError (s : State) (fn : Fn) : Bool :=
  match fn with
  | .pf _ => false
  | .vf id => (s.vf id.toNat).state == .error

/-- STOPPED_CLEAR: 21 R430. Intake starts again, except under ERROR. -/
def execStoppedClear (fn : Fn) (q : BitVec 4) (s : State) : Res :=
  .next (if s.fnError fn then s else s.queueWrite fn q fun x => { x with stopped := false, reason := 0 })

/-- HOST_QUEUE_CREATE: 21 R429, R437. The record is taken where it breaks no rule and the interface is not locked. -/
def execHostQueueCreate (fn : Fn) (q : BitVec 4) (_byPf : Bool) (rec : BitVec 128) (s : State) : Res :=
  .next (
    let k := hqKey fn q
    let n : HostQ := { record := rec &&& ~~~(0x1FFFFFF#128 <<< 80) }
    let open_ := match fn with
      | .pf _ => true
      | .vf id => (s.vf id.toNat).state == .unlocked && !(s.vf id.toNat).teardown && decide (s.vfOfCtx n.ctx = id.toNat)
    let fits := n.valid && decide (4 ≤ n.logcap) && decide (n.logcap ≤ 12) && decide (n.sqbase % 4096 = 0) &&
      decide (n.cqbase % 4096 = 0) && ctxValid (s.context n.ctx)
    if s.fnUp fn && open_ && fits && !(s.hostQ k).valid then s.setHostQ k n else s)

/-! ### Intake (21 R430 to R435) -/

/-- Whether the front end takes the next command of a queue now. -/
def State.intakes (s : State) (fn : Fn) (q : HostQ) : Bool :=
  s.fnUp fn && q.valid && !q.stopped && !q.resetting && q.head != q.tail && decide (q.ready.length < q.cap) &&
  (match fn with
    | .pf _ => true
    | .vf id => (s.vf id.toNat).state == .run && !(s.vf id.toNat).teardown)

/-- The next command leaves the ring with a status. -/
def HostQ.finish (q : HostQ) (c : HostWord) (status gen : Nat) : HostQ :=
  { q with head := q.head + 1#32, ready := q.ready ++ [⟨q.head.toNat, status, 0#32, BitVec.ofNat 32 gen, c.irq⟩] }

/-- The status of R435 that an INVOKE ends with before its description is read. -/
def invokeRefusal (c : HostWord) (m : Model) : Option Nat :=
  if c.bad || c.opc ≠ 1 then some 1
  else if !m.valid || m.unloading then some 2
  else if c.mgen ≠ m.gen.toNat then some 3
  else if (c.addrs.take c.nbuf).any badAddr then some 4
  else none

/-- The status of R435 that an INVOKE ends with for its description; none where it is launched. -/
def State.launchRefusal (s : State) (ctx : Nat) (l : Option Launch) : Option Nat :=
  match l with
  | none => some 1
  | some l =>
    if s.overLimit ctx l then some 5
    else if taskQueueMax < (mget [] s.taskQ ctx).length + l.tasks.length then some 6
    else if s.freeFutures (ctxDie (s.context ctx)) < l.tasks.length then some 10
    else none

/-- INVOKE: 21 R435; 25 R464. A command with a reserved OPC ends here with FORMAT. -/
def execInvoke (fn : Fn) (q : BitVec 4) (s : State) : Res :=
  .next (
    let k := hqKey fn q
    let x := s.hostQ k
    let c := s.commandAt fn x x.head.toNat
    if !s.intakes fn x || c.opc = 2 || c.opc = 3 then s
    else
      let mk := s.modelKey x c.mslot
      let m := s.model mk
      let s := s.afterCommand fn x
      match invokeRefusal c m with
      | some st => s.upHostQ k fun x => x.finish c st c.mgen
      | none =>
        let (s, l) := s.launchAt (s.fnIssuer fn) m.descr.toNat
        match s.launchRefusal x.ctx l with
        | some st => s.upHostQ k fun x => x.finish c st c.mgen
        | none =>
          let (s, hs) := s.launch x.ctx k (launchRelocs c m) (l.getD {})
          s.upHostQ k fun x => { x with
            head := x.head + 1#32
            flight := x.flight ++ [⟨x.head.toNat, hs, hs.headD 0#32, BitVec.ofNat 32 c.mgen, c.irq, mk⟩] })

/-- The generation after g: modulo 2^32, skipping 0 (21 R433). -/
def nextGen (g : W32) : W32 := if g + 1#32 = 0#32 then 1#32 else g + 1#32

/-- A model is loaded where the description can be taken and its buffers can be created (21 R433; 28 R476). -/
def State.loadModel (s : State) (fn : Fn) (q : HostQ) (mk va : Nat) (l : Launch) : Option State :=
  let like := s.entry 0x00 (vaIndex va)
  (s.createBuffers like (s.fnTenant fn) l.bufs).map fun r =>
    let s := r.1.loadRecords (s.fnIssuer fn) q.ctx r.2 l.tasks
    let named := (l.bufs.zip r.2).reverse.foldl (fun (m : SMap Word) b => if b.1.reloc < 8 then mput m b.1.reloc (BitVec.ofNat 64 b.2) else m) []
    s.setModel mk { valid := true, gen := nextGen (s.model mk).gen, descr := BitVec.ofNat 64 va, buffers := named }

/-- The front end takes a MODEL_LOAD with the plug-in's decision. -/
def State.takeLoad (s : State) (fn : Fn) (q : BitVec 4) (accept : Bool) : State :=
  let k := hqKey fn q
  let x := s.hostQ k
  let c := s.commandAt fn x x.head.toNat
  if !s.intakes fn x || c.opc ≠ 2 then s
  else
    let mk := s.modelKey x c.mslot
    let va := addrVa (c.addrs.getD 0 0)
    let s := s.afterCommand fn x
    let (s, l) := if c.bad || c.nbuf = 0 || badAddr (c.addrs.getD 0 0) then (s, none) else s.launchAt (s.fnIssuer fn) va
    match l with
    | none => s.upHostQ k fun x => x.finish c 1 (s.model mk).gen.toNat
    | some l =>
      match (if accept then s.loadModel fn x mk va l else none) with
      | none => s.upHostQ k fun x => x.finish c 9 (s.model mk).gen.toNat
      | some s => s.upHostQ k fun x => x.finish c 0 (s.model mk).gen.toNat

/-- MODEL_LOAD: 21 R433. -/
def execModelLoad (fn : Fn) (q : BitVec 4) (accept : Bool) (s : State) : Res := .next (s.takeLoad fn q accept)

/-- PLUGIN_TIMEOUT: 21 R428. The plug-in is stopped, and its decision is taken as refusal. -/
def execPluginTimeout (fn : Fn) (q : BitVec 4) (s : State) : Res := .next (s.takeLoad fn q false)

/-- Whether a command is an unload that waits for the slot's invocations. -/
def HostCmd.unloads (c : HostCmd) : Bool := c.futures.isEmpty

/-- Whether an invocation of a model is in flight. -/
def State.modelBusy (s : State) (mk : Nat) : Bool :=
  s.hq.any fun (e : Nat × HostQ) => e.2.flight.any fun c => decide (c.model = mk) && !c.unloads

/-- An unload whose slot has no invocation in flight is done (21 R433). -/
def State.endUnload (s : State) (k : Nat) : State :=
  match (s.hostQ k).flight.find? fun c => c.unloads && !s.modelBusy c.model with
  | none => s
  | some c =>
    let m := s.model c.model
    (s.setModel c.model { m with valid := false, unloading := false, buffers := [] }).upHostQ k fun x => { x with
      flight := x.flight.filter fun d => decide (d.index ≠ c.index)
      ready := x.ready ++ [⟨c.index, stDone, 0#32, c.gen, c.irq⟩] }

/-- MODEL_UNLOAD: 21 R433. An unload that waited ends first; else the next command is taken. -/
def execModelUnload (fn : Fn) (q : BitVec 4) (s : State) : Res :=
  .next (
    let k := hqKey fn q
    let x := s.hostQ k
    if x.flight.any fun c => c.unloads && !s.modelBusy c.model then s.endUnload k
    else
      let c := s.commandAt fn x x.head.toNat
      if !s.intakes fn x || c.opc ≠ 3 then s
      else
        let mk := s.modelKey x c.mslot
        let m := s.model mk
        let s := s.afterCommand fn x
        if c.bad then s.upHostQ k fun x => x.finish c 1 c.mgen
        else if !m.valid || m.unloading then s.upHostQ k fun x => x.finish c 2 c.mgen
        else if c.mgen ≠ m.gen.toNat then s.upHostQ k fun x => x.finish c 3 c.mgen
        else
          ((s.setModel mk { m with unloading := true }).upHostQ k fun x => { x with
            head := x.head + 1#32
            flight := x.flight ++ [⟨x.head.toNat, [], 0#32, BitVec.ofNat 32 c.mgen, c.irq, mk⟩] }).endUnload k)

/-- The bytes of a completion entry (21 R432). -/
def Completion.bytes (c : Completion) : List Byte :=
  leBytes 4 c.index ++ leBytes 2 c.status ++ leBytes 2 0 ++ leBytes 4 c.handle.toNat ++ leBytes 4 c.gen.toNat

/-- COMPLETION_ENTRY_WRITE: 21 R432. The oldest completion is written while the ring has room. -/
def execCompletionEntryWrite (fn : Fn) (q : BitVec 4) (s : State) : Res :=
  .next (
    let k := hqKey fn q
    let x := s.hostQ k
    match x.ready with
    | [] => s
    | c :: r =>
      if !s.fnUp fn || !x.valid || decide (x.cap ≤ (x.done - x.cqhead).toNat) then s
      else
        let va := ((s.winBuf fn).getD 0) * 2 ^ 40 + x.cqbase + 16 * (c.index % x.cap)
        let s := (s.storeAs (s.fnIssuer fn) va c.bytes).upHostQ k fun x => { x with ready := r, done := x.done + 1#32 }
        if c.irq then { s with irqs := s.irqs ++ [(fnKey fn, x.vector)] } else s)

/-! ### WIN_MEM (21 R424) -/

/-- A refused access of a VF is counted in the VF's valid context with the lowest CONTEXT_ID (21 R424; 18 R389). -/
def State.countRefused (s : State) (fn : Fn) : State :=
  match fn with
  | .pf _ => s
  | .vf id =>
    match minOf ((s.tab.filter fun (e : Nat × Nat) =>
        decide (e.1 / 2 ^ 44 = 0x10) && ctxValid e.2 && decide (natBits e.2 125 117 = id.toNat)).map fun e => e.1 % 2 ^ 44) with
    | some c => s.countCtx c 12
    | none => s

/-- What a host read gives is noted: kind 0x100. -/
def hostRead : Nat := 0x100

/-- HOST_WIN_MEM_ACCESS: 21 R424; 23 R458. -/
def execHostWinMemAccess (fn : Fn) (va : Word) (len : BitVec 4) (write : Bool) (data : Word) (s : State) : Res :=
  .next (
    let n := len.toNat
    let ones := 2 ^ (8 * n) - 1
    if n = 0 || 8 < n then s
    else if !s.fnUp fn then (if write then s else s.answer hostRead ones)
    else
      if write then
        match s.writeVa frontEnd (s.fnIssuer fn) va.toNat rW (leBytes n data.toNat) with
        | (s, .ok _) => s
        | (s, .error _) => s.countRefused fn
      else
        match s.readVa frontEnd (s.fnIssuer fn) va.toNat n rR with
        | (s, .ok bs) => s.answer hostRead (leNat bs)
        | (s, .error f) => if f.code = fPoison then s.answer hostRead ones else (s.answer hostRead ones).countRefused fn)

/-! ### Semaphores (21 R426, R427) -/

/-- Who holds a semaphore: the port. -/
def State.sem (s : State) (n : Nat) : Option Bool := mget none s.sems n

/-- SEMAPHORE_REQUEST: 21 R426. -/
def execSemaphoreRequest (portA portB : Bool) (n : BitVec 6) (s : State) : Res :=
  .next (
    let a := portA && s.fnUp (.pf false)
    let b := portB && s.fnUp (.pf true)
    let give := fun (s : State) (p : Bool) => { s with sems := mput s.sems n.toNat (some p) }
    if (s.sem n.toNat).isSome then s
    else if a && b then give { s with tieLoser := !s.tieLoser } s.tieLoser
    else if a then give s false
    else if b then give s true
    else s)

/-- SEMAPHORE_RELEASE: 21 R426. -/
def execSemaphoreRelease (portB : Bool) (n : BitVec 6) (s : State) : Res :=
  .next (if s.fnUp (.pf portB) && s.sem n.toNat == some portB then { s with sems := mput s.sems n.toNat none } else s)

/-! ### Queue reset (20 R420) -/

/-- Tasks in flight that a queue launched, with their descendants. -/
def State.tagged (s : State) (k : Nat) : List Nat :=
  (s.tasks.filter fun (e : Nat × Task) => e.2.tq.tag == some k && e.2.state != .finished).map Prod.fst

/-- Task-queue entries that a queue launched, with their contexts. -/
def State.taggedQueued (s : State) (k : Nat) : List (Nat × TqEntry) :=
  s.taskQ.foldl (fun acc (e : Nat × List TqEntry) => acc ++ (e.2.filter fun t => t.tag == some k).map fun t => (e.1, t)) []

/-- Reclaim a task in flight at once, NORECLAIM included: at its cut where it runs. -/
def State.resetTask (s : State) (t : Nat) : State :=
  match (mfind s.tasks t).bind fun (x : Task) => if x.state == .resident then x.slot else none with
  | none => s.reclaimTask t
  | some n => if s.cutReady n false then (s.takeCut n).reclaimTask t else s

/-- Reclaim what a queue launched, and drop its requests that have not left. -/
def State.reclaimTagged (s : State) (k : Nat) : State :=
  let s := (s.taggedQueued k).foldl (fun s e => s.reclaimQueued e.1 e.2) s
  let s := (s.tagged k).foldl State.resetTask s
  { s with stations := s.stations.map fun (e : Nat × Station) => (e.1, { e.2 with
      reqs := e.2.reqs.filter fun r => r.sent || decide (r.slot.h.qtag ≠ some (BitVec.ofNat 13 k)) }) }

/-- Slots of a queue that have come back are retired (22 R452). -/
def Station.retireTagged (st : Station) (k : Nat) : Station :=
  let tagged := fun (r : RingSlot) => decide (r.h.qtag = some (BitVec.ofNat 13 k))
  (st.returned.filter tagged).foldl (fun st r => st.retire r.h.reqId.toNat) { st with returned := st.returned.filter fun r => !tagged r }

/-- A queue reset begins with a reason (20 R420). -/
def State.beginReset (s : State) (k reason : Nat) : State :=
  let s := (s.upHostQ k fun x => { x.stop reason with resetting := true }).reclaimTagged k
  { s with stations := s.stations.map fun (e : Nat × Station) => (e.1, e.2.retireTagged k) }

/-- Whether nothing of a queue's work is left: no task, no request that is not answered, no near-memory command of a task that is
over. -/
def State.resetDone (s : State) (k : Nat) : Bool :=
  (s.tagged k).isEmpty && (s.taggedQueued k).isEmpty &&
  (s.stations.all fun (e : Nat × Station) => e.2.reqs.all fun r => r.answered || decide (r.slot.h.qtag ≠ some (BitVec.ofNat 13 k))) &&
  s.slots.all fun (e : Nat × Slot) => e.2.job.task.isSome || e.2.journal.isEmpty

/-- QUEUE_RESET: 20 R420. -/
def execQueueReset (fn : Fn) (q : BitVec 4) (s : State) : Res :=
  .next (
    let k := hqKey fn q
    if !(s.hostQ k).valid || (s.hostQ k).resetting then s else s.beginReset k 2)

/-- QUEUE_RESET_COMPLETE: 20 R420. Tasks that could not be cut before are reclaimed; once nothing is left, the reset is complete. -/
def execQueueResetComplete (fn : Fn) (q : BitVec 4) (s : State) : Res :=
  .next (
    let k := hqKey fn q
    if !(s.hostQ k).resetting then s
    else
      let s := s.reclaimTagged k
      if s.resetDone k then s.upHostQ k fun x => { x with resetting := false } else s)

/-! ### ERROR and teardown (20 R421; 21 R436, R437) -/

/-- The queues of a VF that exist. -/
def State.queuesOf (s : State) (vf : Nat) : List Nat := ((below 16).map fun q => vf * 16 + q).filter fun k => (s.hostQ k).valid

/-- The function that a queue number belongs to. -/
def fnOfKey (k : Nat) : Fn := if k / 16 < 512 then .vf (BitVec.ofNat 9 (k / 16)) else .pf (k / 16 == 513)

/-- ABORTED for every command that is not completed, taken or not (21 R435, R437). -/
def State.abortAll (s : State) (k : Nat) : State :=
  let x := s.hostQ k
  let left := (below (x.tail - x.head).toNat).map fun i =>
    let c := s.commandAt (fnOfKey k) x (x.head.toNat + i)
    (⟨(x.head.toNat + i) % 2 ^ 32, 8, 0#32, BitVec.ofNat 32 c.mgen, c.irq⟩ : Completion)
  let out := x.flight.map fun c => (⟨c.index, 8, c.root, c.gen, c.irq⟩ : Completion)
  s.setHostQ k { x with head := x.tail, flight := [], ready := x.ready ++ out ++ left }

/-- A VF enters ERROR: intake stops, commands are aborted, and its queues are reset (21 R437). -/
def State.enterError (s : State) (vf : Nat) : State :=
  let s := s.upVf vf fun v => { v with state := .error }
  (s.queuesOf vf).foldl (fun s k =>
    ((s.upHostQ k fun x => { x with stopped := true, reason := 3 }).abortAll k).beginReset k 3) s

/-- Only a locked or running interface goes to ERROR (21 R436). -/
def State.errorEvent (s : State) (vf : Nat) : State :=
  let v := s.vf vf
  if v.enabled && (v.state == .locked || v.state == .run) then s.enterError vf else s

/-- The nodes that have sent requests to a station. -/
def Station.senders (st : Station) : List Nat := (mkeys st.relSeq).foldl (fun acc k => addNew acc (k % 4096)) []

/-- A gone notice for a VF at a generation to a node (22 R451). -/
def State.goneTo (s : State) (vf gen node : Nat) : RingSlot :=
  { op := .gone, data := 0#512, h := {
      pass2 := false, ret := false, srcNode := BitVec.ofNat 12 s.ownNode, dstNode := BitVec.ofNat 12 node, srcDie := 0#3, seq := 0#16,
      dvf := BitVec.ofNat 9 vf, dgen := BitVec.ofNat 12 gen, remWin := 0#12, offset := 0#40, tenant := 0#8, qtag := none,
      reqId := 0#16, mask := 0#64 } }

/-- A change of tables that the teardown makes: it is no slot's, so that no slot's fence waits for it. -/
def State.noSlots (s : State) (f : State → State) : State := { f { s with cur := noSlot + 1 } with cur := s.cur }

/-- Steps 1 to 3 of R421. -/
def State.beginTeardown (s : State) (vf : Nat) : State :=
  let seg := s.entry 0x03 vf
  let gen := natBits seg 61 50
  let s := s.noSlots fun s => s.putEntry 0x03 vf (natSetBits (natSetBits seg 62 62 1) 61 50 (if gen = 4095 then 4095 else gen + 1))
  let s := s.upVf vf fun v => { v with teardown := true, retired := v.retired || decide (gen = 4095) }
  let s := (s.queuesOf vf).foldl (fun s k => if (s.hostQ k).resetting then s else s.beginReset k 2) s
  (below 4).foldl (fun s k => s.upStation k fun st => { st with
    sent := st.sent ++ st.senders.map (s.goneTo vf gen)
    credits := mput st.credits vf 0 }) s

/-- VF_TEARDOWN: 20 R421. -/
def execVfTeardown (vf : BitVec 9) (s : State) : Res :=
  .next (
    let v := s.vf vf.toNat
    if !v.enabled || v.teardown then s else s.beginTeardown vf.toNat)

/-- The reservations and allowances of a VF at a station are gone (20 R421 steps 3 and 4). -/
def Station.forget (st : Station) (vf : Nat) : Station :=
  let mine := st.reqs.filter fun r => decide (r.vf = vf)
  { st with
    reqs := st.reqs.filter fun r => decide (r.vf ≠ vf)
    reserved := st.reserved - (mine.filter fun r => r.sent && !r.answered).length
    owed := st.owed.filter fun (p : Nat × Nat) => decide (p.2 ≠ vf)
    credits := mdel st.credits vf }

/-- TEARDOWN_CIRCUITS_COMPLETE: 20 R421 steps 4 and 5; 21 R437. The segment's regions are made fresh and go to winter, TLBI.VF is made,
VALID is cleared, and the VF is disabled, or enabled again after STOP_INTERFACE_REQUEST. -/
def execTeardownCircuitsComplete (vf : BitVec 9) (s : State) : Res :=
  .next (
    let k := vf.toNat
    let v := s.vf k
    if !v.enabled || !v.teardown || (s.queuesOf k).any fun q => (s.hostQ q).resetting then s
    else
      let s := { s with stations := s.stations.map fun (e : Nat × Station) => (e.1, e.2.forget k) }
      let seg := s.entry 0x03 k
      let s := s.noSlots fun s =>
        ((s.sendSpans 4 ([segSpan seg].filter fun p => decide (p.1 < p.2))).putSegment k (natSetBits seg 63 63 0)).beginTlbi .vf k
      let s := { s with hq := mclear s.hq (k * 16) (k * 16 + 16), models := mclear s.models (k * 64) (k * 64 + 64) }
      s.setVf k (if v.reenable && !v.retired then { enabled := true, portB := v.portB } else { retired := v.retired }))

/-- STOP_INTERFACE_REQUEST's part of R437: teardown, and enabling again, CONFIG_UNLOCKED, at its end. -/
def State.stopInterface (s : State) (vf : Nat) : State :=
  let s := if (s.vf vf).teardown then s else s.beginTeardown vf
  s.upVf vf fun v => { v with reenable := true }

/-! ### Ports and VFs (21 R423, R425) -/

/-- PORT_LINK_UP: 21 R423; 23 R458. Firmware gives the PF its tenant. -/
def execPortLinkUp (portB : Bool) (tenant : BitVec 8) (s : State) : Res :=
  .next (if s.mgmt.ready && !(s.port portB).up then s.setPort portB { up := true, tenant := tenant } else s)

/-- PORT_LINK_DOWN: 21 R425, R436. -/
def execPortLinkDown (portB : Bool) (s : State) : Res :=
  .next (
    let s := s.setPort portB { (s.port portB) with up := false, spdm := {} }
    let s := { s with sems := s.sems.map fun (e : Nat × Option Bool) => (e.1, if e.2 = some portB then none else e.2) }
    ((s.vfs.filter fun (e : Nat × Vf) => e.2.portB == portB).map Prod.fst).foldl State.errorEvent s)

/-- VF_ENABLE: 21 R423; 01 R24. The lowest id that no enabled VF holds and whose segment is not retired. -/
def execVfEnable (portB : Bool) (s : State) : Res :=
  .next (
    let onPort := (s.vfs.filter fun (e : Nat × Vf) => e.2.enabled && e.2.portB == portB).length
    if !s.fnUp (.pf portB) || 255 ≤ onPort then s
    else
      match firstBelow 512 fun i => !(s.vf i).enabled && !(s.vf i).retired with
      | none => s
      | some i => s.setVf i { enabled := true, portB := portB })

/-! ### TDISP (21 R436 to R438) -/

/-- Kinds of noted answers: TDISP report, TDISP acknowledgement, TDISP error. -/
def tdispReport : Nat := 0x180
def tdispAck : Nat := 0x181
def tdispError : Nat := 0x182

/-- A TDISP message reaches the monitor over the SPDM session of the VF's port; one that is invalid is answered with an error. -/
def State.tdisp (s : State) (vf : BitVec 9) (f : State → Vf → Option State) : State :=
  let v := s.vf vf.toNat
  if !s.fnUp (.vf vf) || !(s.port v.portB).spdm.session then s
  else match f s v with
    | some s => s
    | none => s.answer tdispError vf.toNat

/-- LOCK_INTERFACE_REQUEST: 21 R436. -/
def execLockInterfaceRequest (vf : BitVec 9) (s : State) : Res :=
  .next (s.tdisp vf fun s v =>
    if v.state == .unlocked && !v.teardown && natBit (s.entry 0x03 vf.toNat) 63 then
      some ((s.setVf vf.toNat { v with state := .locked, nonce := none }).answer tdispAck vf.toNat)
    else none)

/-- START_INTERFACE_REQUEST: 21 R436. -/
def execStartInterfaceRequest (vf : BitVec 9) (nonce : BitVec 256) (s : State) : Res :=
  .next (s.tdisp vf fun s v =>
    if v.state == .locked && v.nonce == some nonce then
      some ((s.setVf vf.toNat { v with state := .run }).answer tdispAck vf.toNat)
    else none)

/-- STOP_INTERFACE_REQUEST: 21 R436, R437. -/
def execStopInterfaceRequest (vf : BitVec 9) (s : State) : Res :=
  .next (s.tdisp vf fun s _ => some ((s.stopInterface vf.toNat).answer tdispAck vf.toNat))

/-- Names of secrets (log 7). -/
def secFirmware : Nat := 1
def secPlugin : Nat := 2
def secMsix : Nat := 3
def secSignature : Nat := 4
def secVectors : Nat := 5
def secWindow : Nat := 6

/-- The key id of a VF's buffers: that of its lowest valid buffer. -/
def State.vfKey (s : State) (vf : Nat) : Nat :=
  match minOf ((s.tab.filter fun (e : Nat × Nat) =>
    decide (e.1 / 2 ^ 44 = 0) && natBit e.2 255 && decide (bufVf e.2 = vf)).map fun e => e.1 % 2 ^ 44) with
  | some i => bufKey (s.entry 0x00 i)
  | none => 0

/-- Bytes 0x000 to 0x107 of the report of R438. -/
def State.reportBody (s : State) (vf : Nat) (nonce : BitVec 256) : List Byte :=
  leBytes 4 1 ++ leBytes 2 vf ++ leBytes 2 (natBits (s.entry 0x03 vf) 61 50) ++ leBytes 2 (s.vfKey vf) ++
  leBytes 2 (1 + Config.secret secVectors 6 vf % 64) ++ leBytes 4 0 ++
  leBytes 8 65536 ++ leBytes 8 4096 ++ leBytes 8 (2 ^ (24 + Config.secret secWindow 4 vf % 13)) ++
  leBytes 64 (Config.secret secFirmware 512 s.mgmt.image) ++ leBytes 64 (Config.secret secPlugin 512 (s.fnTenant (.vf (BitVec.ofNat 9 vf)))) ++
  leBytes 32 nonce.toNat ++ leBytes 64 (Config.secret secMsix 512 vf)

/-- GET_DEVICE_INTERFACE_REPORT: 21 R438. -/
def execGetDeviceInterfaceReport (vf : BitVec 9) (nonce : BitVec 256) (s : State) : Res :=
  .next (s.tdisp vf fun s v =>
    if v.state == .locked || v.state == .run then
      some ((s.setVf vf.toNat { v with nonce := some nonce }).answer tdispReport
        (leNat (s.reportBody vf.toNat nonce ++ leBytes 64 (Config.secret secSignature 512 s.freeCtr))))
    else none)

/-- Whether the fabric behind a VF's whole segment has failed (12 R274, R294). -/
def State.fabricFailed (s : State) : Bool := (below 16).all fun k => (s.stack k).out || decide ((s.stack k).failedPcs = 2 ^ 64 - 1)

/-- TDISP_ERROR_EVENT: 21 R436, R437. -/
def execTdispErrorEvent (vf : BitVec 9) (cause : TdispCause) (s : State) : Res :=
  .next (
    let b := (s.vf vf.toNat).portB
    match cause with
    | .configWrite => s.errorEvent vf.toNat
    | .sessionLoss => (s.setPort b { (s.port b) with spdm := {} }).errorEvent vf.toNat
    | .linkDown => if (s.port b).up then s else s.errorEvent vf.toNat
    | .fabricFailed => if s.fabricFailed then s.errorEvent vf.toNat else s)

/-! ### SPDM (21 R440). The order of requests is that of SPDM 1.2 (log 23) -/

/-- Kind of a noted SPDM response: the code of the response in SPDM 1.2, above 0x200. -/
def spdmKind (code : Nat) : Nat := 0x200 + code
def spdmErr : Nat := spdmKind 0x7F

/-- A request reaches the responder of a port: `ok` says whether it comes in its place, `next` is the session state after it. -/
def State.spdm (s : State) (portB : Bool) (ok : Spdm → Bool) (code value : Nat) (next : Spdm → Spdm) : State :=
  let p := s.port portB
  if !s.fnUp (.pf portB) then s
  else if ok p.spdm then (s.setPort portB { p with spdm := next p.spdm }).answer (spdmKind code) value
  else s.answer spdmErr 0

/-- What the responder sends for a request: bytes that only the device makes (log 7). -/
def State.spdmBytes (s : State) (code : Nat) : Nat := Config.secret (spdmKind code) 4096 s.freeCtr

/-- GET_VERSION: 21 R440. It begins a connection anew. -/
def execGetVersion (portB : Bool) (s : State) : Res := .next (s.spdm portB (fun _ => true) 0x04 0x12 fun _ => { stage := 1 })

/-- GET_CAPABILITIES: 21 R440. -/
def execGetCapabilities (portB : Bool) (s : State) : Res :=
  .next (s.spdm portB (fun x => decide (x.stage = 1)) 0x61 (s.spdmBytes 0x61) fun x => { x with stage := 2 })

/-- NEGOTIATE_ALGORITHMS: 21 R440. -/
def execNegotiateAlgorithms (portB : Bool) (s : State) : Res :=
  .next (s.spdm portB (fun x => decide (x.stage = 2)) 0x63 (s.spdmBytes 0x63) fun x => { x with stage := 3 })

/-- GET_DIGESTS: 21 R440. -/
def execGetDigests (portB : Bool) (s : State) : Res :=
  .next (s.spdm portB (fun x => decide (3 ≤ x.stage)) 0x01 (s.spdmBytes 0x01) id)

/-- GET_CERTIFICATE: 21 R440. -/
def execGetCertificate (portB : Bool) (s : State) : Res :=
  .next (s.spdm portB (fun x => decide (3 ≤ x.stage)) 0x02 (s.spdmBytes 0x02) id)

/-- CHALLENGE: 21 R440. -/
def execChallenge (portB : Bool) (s : State) : Res :=
  .next (s.spdm portB (fun x => decide (3 ≤ x.stage)) 0x03 (s.spdmBytes 0x03) id)

/-- GET_MEASUREMENTS: 21 R440. Indices 1 to 5. -/
def execGetMeasurements (portB : Bool) (index : BitVec 8) (s : State) : Res :=
  .next (s.spdm portB (fun x => decide (3 ≤ x.stage) && decide (1 ≤ index.toNat) && decide (index.toNat ≤ 5)) 0x60
    (Config.secret (spdmKind 0x60) 512 (index.toNat + 256 * s.mgmt.image)) id)

/-- KEY_EXCHANGE: 21 R440. -/
def execKeyExchange (portB : Bool) (s : State) : Res :=
  .next (s.spdm portB (fun x => decide (3 ≤ x.stage)) 0x64 (s.spdmBytes 0x64) fun x => { x with handshake := true })

/-- FINISH: 21 R440. A session stands once the requester's finish verifies. -/
def execFinish (portB : Bool) (verifies : Bool) (s : State) : Res :=
  .next (s.spdm portB (fun x => x.handshake && verifies) 0x65 (s.spdmBytes 0x65) fun x => { x with handshake := false, session := true })

/-! ### Registers that the host reads -/

/-- The identity page of a function (21 R424): VF id, generation, TDISP state code. -/
def Tdisp.code : Tdisp → Nat
  | .unlocked => 0 | .locked => 1 | .run => 2 | .error => 3

/-- A semaphore register as a port reads it (21 R426). -/
def State.semWord (s : State) (n : Nat) : Nat :=
  match s.sem n with
  | some b => 2 ^ 31 + b2n b * 2 ^ 30
  | none => 0

/-- The registers of a queue block at offsets 4, 8 and 0xC (21 R430). -/
def HostQ.block (q : HostQ) (off : Nat) : Nat :=
  match off with
  | 0x4 => q.head.toNat
  | 0x8 => q.reason * 2 + b2n q.stopped
  | 0xC => q.done.toNat
  | _ => 0

end Sys2Proof.Machine
end

