-- ==== Sys2Proof/Machine/Patch.lean ====
section
/-! DEFINITION. Dispatch of patch words (03 R74 to R77, R90, R91) and the landing of covered results (03 R80, R81). -/
namespace Sys2Proof.Machine

/-! ### Amendment (03 R75) -/

/-- The value bits that a field select uses. -/
def selBits (sel : Nat) : Nat :=
  match sel with
  | 0 => 0
  | 1 | 2 | 3 | 4 => 8
  | 5 => 12
  | 6 => 4
  | 7 | 8 | 9 => 5
  | 10 => 3
  | _ => 16

/-- A word with its bits hi down to lo replaced by the low bits of v. -/
def amendField (w : BitVec 80) (hi lo v : Nat) : BitVec 80 := BitVec.ofNat 80 (natSetBits w.toNat hi lo v)

/-- The template with the selected field replaced. -/
def amend (w : BitVec 80) (sel v : Nat) : BitVec 80 :=
  match sel with
  | 1 => amendField w 43 36 v
  | 2 => amendField w 35 28 v
  | 3 => amendField w 27 20 v
  | 4 => amendField w 19 12 v
  | 5 => amendField w 11 0 v
  | 6 => amendField w 69 66 v
  | 7 => amendField w 65 61 v
  | 8 => amendField w 60 56 v
  | 9 => amendField w 55 51 v
  | 10 => amendField w 46 44 v
  | 11 => amendField w 43 28 v
  | 12 => amendField w 35 20 v
  | 13 => amendField w 27 12 v
  | _ => w

/-! ### What a command captures at dispatch (03 R70, R93) -/

def formRegs : AddrForm → List (BitVec 5)
  | .off _ => []
  | .postInc _ => []
  | .reg b => [b]

/-- S[f] to S[l]. -/
def regRange (f l : BitVec 5) : List (BitVec 5) := (below (l.toNat + 1 - f.toNat)).map fun j => BitVec.ofNat 5 (f.toNat + j)

/-- The S registers that an amended word captures (09 R214, R222; 10 R233, R250; 11 R251). -/
def capturesOf (i : Instr) : List (BitVec 5) :=
  match i with
  | .ldb _ _ _ _ _ _ _ am => formRegs am
  | .ldf _ _ _ _ _ _ _ am => formRegs am
  | .stb _ _ _ _ _ am => formRegs am
  | .stf _ _ _ _ _ am => formRegs am
  | .lds _ _ _ _ _ _ _ b rank => regRange b (b + rank.setWidth 5)
  | .mma _ _ _ _ _ _ c _ => [c]
  | .mmaz _ _ _ _ _ _ c _ => [c]
  | .mmap _ _ _ _ _ _ c _ => [c]
  | .mret _ c => [c]
  | .mdrain _ _ _ _ _ _ _ c _ => [c]
  | .mzero _ _ c => [c]
  | .mldcb _ _ _ _ c => [c]
  | .mstat _ _ _ _ _ c => [c]
  | .mpark _ _ f l c => c :: regRange f l
  | .munpark _ _ _ _ c => [c]
  | .cpy _ _ _ _ _ _ n _ _ => [n]
  | .cpy2 _ _ _ _ _ _ n m _ _ => [n, m]
  | .cpys _ _ _ _ n f _ _ => [n, f]
  | .cpyf _ _ _ _ _ _ n _ _ => [n]
  | .fill _ _ _ n v _ _ => [n, v]
  | .fillDiscard _ m _ _ => [m]
  | .nmaxpy _ _ _ a n _ _ => [a, n]
  | .nmscale _ _ a n _ _ => [a, n]
  | .nmfade _ _ _ p n _ _ => [p, n]
  | .nmsum _ _ _ n _ _ => [n]
  | .nmfill _ _ v n _ _ => [v, n]
  | .nmchk _ _ n _ _ => [n]
  | _ => []

/-- The S registers f to l that MUNPARK will write: they are set owed, and the word waits for none of them (03 R70; 10 R250). -/
def writesOf (i : Instr) : Option (BitVec 5 × BitVec 5) :=
  match i with
  | .munpark _ _ f l _ => some (f, l)
  | _ => none

/-! ### The checks of R90 -/

/-- The amended word, its engine and what it decodes to, or the fault code of the first check that fails. -/
def patchCheck (x : Slot) (cls : BitVec 3) (index : BitVec 6) (sel : BitVec 4) (pop push : Bool) (value : BitVec 16) :
    Except Nat (BitVec 80 × Engine × Instr) :=
  let t := mget 0#80 x.tmpl (tmplKey cls index)
  match classEngine cls with
  | none => .error fIllegal
  | some e => do
    match decodeEngine cls t with
    | .error .reserved => .error fIllegal
    | _ => .ok ()
    if 14 ≤ sel.toNat then .error fIllegal else .ok ()
    if 2 ^ selBits sel.toNat ≤ value.toNat then .error fIllegal else .ok ()
    let w := amend t sel.toNat value.toNat
    match decodeEngine cls w with
    | .error _ => .error fIllegal
    | .ok i => do
      if (pop && x.routeIn e = 0#3) || (push && x.routeOut e = 0#3) then .error fIllegal else .ok ()
      if lbCycles ((EWord.split w).lb) < minBound cls w then .error fLatency else .ok ()
      .ok (w, e, i)

/-- The entry that a patch word places (13 R295): what is bound at dispatch. -/
def patchEntry (x : Slot) (w : BitVec 80) (e : Engine) (i : Instr) (pop push last : Bool) : Entry :=
  let regs := capturesOf i
  let caps := regs.foldl (fun m r => mput m r.toNat (x.getS r)) []
  let caps := match writesOf i with
    | some (f, l) => mput (mput caps capDestLo (f.setWidth 64)) capDestHi (l.setWidth 64)
    | none => caps
  { cmd := .eng w, pop := pop, push := push, last := last, popF := x.routeIn e, pushF := x.routeOut e, tag := x.pc,
    caps := caps, scoreboard := x.y.scoreboard, seed := x.y.seed, stampBase := x.y.stampBase }

/-- The first flagged word of a stream since the last ENDJ marks the iteration's boundary (01 R20). -/
def Slot.markLast (x : Slot) (e : Engine) (last : Bool) : Slot :=
  match last, mfind x.job.marks (classOf e) with
  | true, none => { x with job := { x.job with marks := mput x.job.marks (classOf e) (x.eng e).seqNo } }
  | _, _ => x

/-- PATCH_WORD_DISPATCH: 03 R74 to R77, R90, R91. -/
def execPatchWordDispatch (cls : BitVec 3) (index : BitVec 6) (sel : BitVec 4) (pop push last : Bool) (value : BitVec 16)
    (s : State) : Res :=
  .next (match patchCheck s.me cls index sel pop push value with
    | .error c => s.raiseWord ⟨c, 0⟩ cls.toNat
    | .ok (w, e, i) =>
      if s.me.waits (capturesOf i) [] || !s.me.room e then s
      else s.upMe fun x => ((x.enqueue e (patchEntry x w e i pop push last)).markLast e last).advance 4)

/-- COVERED_RESULT_LANDING: 03 R80, R81. -/
def execCoveredResultLanding (n : Nat) (lanes : Word) (s : State) : Res :=
  .next (s.upMe fun x => x.land n lanes)

end Sys2Proof.Machine
end

