-- ==== Sys2Proof/Machine/Service.lean ====
section
/-! DEFINITION. Package reset and bring-up (23 R458), the management page (23 R459, R460; 21 R427, R439), power (23 R457), scrubbing
(23 R454), lockstep and spare tiles (23 R455, R456). -/
namespace Sys2Proof.Machine

/-! ### Reset and bring-up -/

/-- The package after package reset: every item at its reset value, the verified firmware image kept, a staged one taken (21 R439).
The model's own fields go on. -/
def State.afterReset (s : State) : State :=
  { State.reset with
    cur := s.cur, phase := s.phase, agenda := s.agenda, freeCtr := s.freeCtr
    mgmt := { image := s.mgmt.image + b2n s.mgmt.staged } }

/-- Bring-up stops at a step. -/
def State.bootFails (s : State) (n : Nat) : State := { s with mgmt := { s.mgmt with bootFail := true, bootStep := n } }

/-- The link of a stack comes up: a session key is set, microcode is loaded, and the stack's report is checked (12 R286, R289, R293,
R294). -/
def Stack.bringLink (st : Stack) (k : Nat) : Stack :=
  let st := { st with linkUp := true, keys := st.keys + 1, nmSlots := 0x007F#16 ||| (Config.microcode k &&& 0xFF00#16) }
  st.take (st.selfReport k)

/-- The channels of an accepted stack are trained, at the temperature that it reports (12 R276). -/
def Stack.bringChannels (st : Stack) (k : Nat) : Stack :=
  if st.accepted then upTo 32 (fun c (x : Stack) => x.train c (st.selfReport k).temp.toNat (Config.trains k c)) st else st

/-- Step n of R458, as far as the state shows it. Stacks of two heights are not brought up (12 R294). -/
def State.bringStep (s : State) (n : Nat) : State :=
  match n with
  | 4 =>
    let s := upTo 16 (fun k (s : State) => s.upStack k fun x => x.bringLink k) s
    if s.oneHeight then s else s.bootFails 4
  | 5 => upTo 16 (fun k (s : State) => s.upStack k fun x => x.bringChannels k) s
  | 7 => upTo 4 (fun k (s : State) => s.upStation k fun x => { x with members := Config.rackMembers k ||| 1#64 }) s
  | 8 => { s with
      portA := { up := true, tenant := Config.pfTenant false }, portB := { up := true, tenant := Config.pfTenant true }
      mgmt := { s.mgmt with ready := true, bootStep := 8 } }
  | _ => s

/-- Bring-up: the steps in order up to one that fails, by itself or as `failStep` says. -/
def State.bringUp (s : State) (failStep : Nat) : State :=
  ([1, 2, 3, 4, 5, 6, 7, 8]).foldl (fun s n =>
    if s.mgmt.bootFail then s else if n = failStep then s.bootFails n else s.bringStep n) s

/-- PACKAGE_RESET: 23 R458; 21 R439. -/
def execPackageReset (failStep : BitVec 4) (s : State) : Res := .next (s.afterReset.bringUp failStep.toNat)

/-! ### Controls under semaphore 0 (21 R427; 23 R459) -/

/-- A write of a control of the management page by a port: it takes effect while the port holds semaphore 0, and is refused
otherwise. -/
def State.control (s : State) (portB : Bool) (f : State → State) : State :=
  if !(s.port portB).up then s
  else if s.sem 0 == some portB then f s
  else { s with mgmt := { s.mgmt with refused := true } }

/-- RESET: 23 R459, R460. -/
def execReset (portB : Bool) (s : State) : Res := .next (s.control portB State.afterReset)

/-- FWUPD: 21 R439. An image that verifies is committed, and takes effect at the next package reset. -/
def execFwupd (portB : Bool) (verifies : Bool) (s : State) : Res :=
  .next (s.control portB fun s => if verifies then { s with mgmt := { s.mgmt with staged := true } } else s)

/-- POWER_LIMIT_WRITE: 23 R459. -/
def execPowerLimitWrite (portB : Bool) (v : BitVec 16) (s : State) : Res :=
  .next (s.control portB fun s => { s with mgmt := { s.mgmt with powerLimit := min 4800 v.toNat } })

/-! ### Other registers (23 R459) -/

/-- EVT_DATA_WRITE: 23 R459, R460; 18 R390. A write of 0 clears the counter that 0x030 selects. -/
def execEvtDataWrite (v : BitVec 48) (s : State) : Res :=
  .next (if v = 0#48 then { s with devEvents := mput s.devEvents (s.mgmt.evtDie * 4096 + s.mgmt.evtIndex) 0 } else s)

/-- REGISTER_WRITE: 00 R5; 23 R459. -/
def execRegisterWrite (reg : MgmtReg) (v : W32) (s : State) : Res :=
  .next (match reg with
    | .refused => if v.getLsbD 16 then { s with mgmt := { s.mgmt with refused := false } } else s
    | .evtDie => { s with mgmt := { s.mgmt with evtDie := fld v 14 12 } }
    | .evtIndex => { s with mgmt := { s.mgmt with evtIndex := fld v 11 0 } }
    | .readOnly => s)

/-! ### Power (23 R457) -/

/-- POWER_WINDOW: 23 R457. -/
def execPowerWindow (watts : BitVec 16) (s : State) : Res :=
  .next (
    let m := { s.mgmt with powerNow := watts.toNat }
    let w := watts.toNat
    { s with mgmt :=
        if m.powerLimit < w then { m with clock := max 8 (m.clock - 1) }
        else if w * 100 < m.powerLimit * 95 then { m with clock := min 16 (m.clock + 1) }
        else m })

/-! ### Scrubbing (23 R454; 12 R277 to R279) -/

/-- Whether a unit is scrubbed: allocated, and in summer. -/
def State.scrubbed (s : State) (k : Nat) : Bool :=
  if isHbm k then decide (stackOf k < 16) && s.regionAlloc (regionIdx k) && decide (s.regionSeason (regionIdx k) = 0)
  else decide (k < 2 ^ 31) && decide (k / 2 ^ 22 % 64 < 48) && (s.tile (tileOfSa k)).bankAllocated (bankOf k) && decide (s.seasonOf k = 0)

/-- A scrub corrects a sector of a row; the third pass that does so makes it a failing row (12 R279). -/
def Stack.scrubHit (st : Stack) (k pass : Nat) : Stack :=
  let (n, last) := mget (0, 0) st.scrubHits (rowNo k)
  let st := { st with corrections := st.corrections + 1 }
  if last = pass + 1 then st
  else if 2 ≤ n && (mfind st.rowMap (rowNo k)).isNone then st.remap k
  else { st with scrubHits := mput st.scrubHits (rowNo k) (n + 1, pass + 1) }

/-- The number of the pass over the stacks (23 R454; log 82). -/
def State.scrubPass (s : State) : Nat := s.dcc.toNat / 2 ^ 45

/-- The errors of a word or sector that a scrub meets: what its cells carry, or what the environment lets it find (log 62); more than
one where it is poisoned. -/
def State.scrubErrors (s : State) (key : Nat) (found : ScrubFind) : Nat :=
  if s.poisoned key then 2 else max (s.upset key) (match found with
    | .clean => 0
    | .correctable => 1
    | .uncorrectable => 2)

/-- A scrub reads a word or sector: one error is corrected in place; more are marked poisoned and reported, or, undetected, written back
as the code gives them. -/
def State.scrubUnit (s : State) (key : Nat) (found : ScrubFind) : State :=
  let fixed := fun (s : State) => { s with upsets := mput s.upsets (poisonUnit key) 0 }
  match s.scrubErrors key found with
  | 0 => s
  | 1 => if isHbm key then fixed (s.upStack (stackOf key) fun st => st.scrubHit key s.scrubPass) else fixed (s.countDev (tileOfSa key / 48) 3)
  | _ =>
    if found != .uncorrectable && isHbm key && !s.poisoned key && Config.undetected s.freeCtr (poisonUnit key) then s.mergeUnit key
    else
      let s := s.markPoison key
      if isHbm key then (s.reportTo 0 key).upStack (stackOf key) fun st => st.failRow key else s

/-- SCRUB: 23 R453, R454; 12 R277 to R279. -/
def execScrub (key : Nat) (found : ScrubFind) (s : State) : Res :=
  .next (if !s.scrubbed key || s.isFresh key then s else s.scrubUnit key found)

/-! ### Lockstep and spares (23 R455, R456) -/

/-- LOCKSTEP_MISMATCH: 23 R456. Pair 1 takes over; if it disagrees too, the die's firmware stops. -/
def execLockstepMismatch (die : BitVec 3) (s : State) : Res :=
  .next (
    let x := s.die die.toNat
    s.setDie die.toNat (if x.pair1 then { x with failed := true } else { x with pair1 := true }))

/-- Whether a resident team stands on a tile. -/
def State.teamOn (s : State) (tile : Nat) : Bool := (below 8).any fun i => (s.slot (tile * 8 + i)).job.task.isSome

/-- SPARE_TILE_TAKEOVER: 23 R455; 01 R13. A free spare position takes the place of the tile's, which holds no resident team. -/
def execSpareTileTakeover (die : BitVec 3) (tile : BitVec 6) (spare : Bool) (s : State) : Res :=
  .next (
    let k := die.toNat * 48 + tile.toNat
    let taken := (below 48).any fun j => (s.tile (die.toNat * 48 + j)).spareUsed == some spare
    if 48 ≤ tile.toNat || s.teamOn k || taken then s else s.setTile k { s.tile k with spareUsed := some spare })

/-! ### The management page as it reads (23 R459) -/

/-- The number of banks of the package in a season. -/
def State.banksIn (s : State) (c : Nat) : Nat :=
  sumOf ((below 384).map fun t => ((below 16).filter fun b => (mget 2#2 (s.tile t).season b).toNat = c).length)

/-- The number of regions in a season, at most 0xFFFF. -/
def State.regionsIn (s : State) (c : Nat) : Nat :=
  min 0xFFFF (sumOf ((below 16).map fun k => ((below (s.stack k).regions).filter fun r => s.regionSeason (k * 2 ^ 15 + r) = c).length))

/-- A register of the page by its offset. -/
def State.mgmtRead (s : State) (off : Nat) : Nat :=
  let m := s.mgmt
  match off with
  | 0x000 =>
    b2n m.ready * 2 ^ 31 + b2n m.bootFail * 2 ^ 30 + m.bootStep % 16 * 2 ^ 26 +
      sumOf ((below 8).map fun d => b2n (s.die d).failed * 2 ^ (18 + d)) + b2n (decide (m.clock < 16)) * 2 ^ 17 + b2n m.refused * 2 ^ 16
  | 0x010 => m.powerLimit
  | 0x018 => m.powerNow
  | 0x020 => m.clock
  | 0x028 =>
    sumOf ((below 384).map fun t => match (s.tile t).spareUsed with | some b => 2 ^ (48 + 2 * (t / 48) + b2n b) | none => 0) +
      sumOf ((below 4).map fun k => b2n (s.station k).spareFor.isSome * 2 ^ (32 + k)) +
      sumOf ((below 16).map fun k => popCount 64 (s.stack k).failedPcs) % 2 ^ 16 * 2 ^ 16 +
      sumOf ((below 16).map fun k => b2n (s.stack k).out * 2 ^ k)
  | 0x030 => m.evtDie * 2 ^ 12 + m.evtIndex
  | 0x038 => if 135 ≤ m.evtIndex then 0 else mget 0 s.devEvents (m.evtDie * 4096 + m.evtIndex)
  | 0x040 => sumOf ((below 4).map fun c => s.banksIn c * 2 ^ (16 * c))
  | 0x048 => sumOf ((below 4).map fun c => s.regionsIn c * 2 ^ (16 * c))
  | 0x050 => (below 16).foldl (fun a k => max a (((s.stack k).trainTemp.map Prod.snd).foldl max 0)) 0
  | _ => 0

end Sys2Proof.Machine
end

