-- ==== Sys2Proof/Machine/Vector.lean ====
section
/-! DEFINITION. The meanings of the VX instructions (06 R139 to R163). -/
namespace Sys2Proof.Machine

/-! ### Elements (06 R141) -/

def vtyFmt : VTy → FpFmt
  | .f32 => f32Fmt | .f16 => f16Fmt | .bf16 => bf16Fmt | .i32 => f32Fmt | .n32 => f32Fmt

/-- The element of a lane, decoded by its type. -/
def velem (t : VTy) (x : W32) : Num :=
  match t with
  | .i32 => .ofInt x.toInt
  | .n32 => .ofInt x.toNat
  | t => (vtyFmt t).decode (x.toNat % 2 ^ (vtyFmt t).width)

/-- The lane that holds a pattern: higher bits zero. -/
def ofPat (n : Nat) : W32 := BitVec.ofNat 32 n

/-- round_m(·, type) as a lane. -/
def vround (t : VTy) (rm : Rm) (x : Num) : W32 := ofPat ((vtyFmt t).round rm x)

def isRdn (rm : Rm) : Bool := rm == .rdn

/-- The integer reading of a lane (06 R145). -/
def vint (t : VTy) (x : W32) : Int := if t == .n32 then (x.toNat : Int) else x.toInt

/-- An integer result: wrapped, or clamped under SAT (02 R41). -/
def vintRes (t : VTy) (sat : Bool) (i : Int) : W32 :=
  if sat then
    BitVec.ofInt 32 (if t == .n32 then clampInt 0 (2 ^ 32 - 1) i else clampInt (-2 ^ 31) (2 ^ 31 - 1) i)
  else BitVec.ofInt 32 i

/-! ### Shapes of commands -/

/-- A command that writes the active lanes of Vd with a function of the slot as it is at issue. -/
def vxLanes (k : Ctl) (d : BitVec 5) (m : BitVec 3) (f : Slot → Entry → BitVec 2048) (s : State) : Res :=
  s.runCmd .vx k fun s en => .ok { s := s, results := [⟨.v d, f s.me en, s.me.getK m⟩] }

/-- A lane-by-lane function of one, two or three sources. -/
def vx1 (k : Ctl) (d : BitVec 5) (m : BitVec 3) (a : BitVec 5) (f : W32 → W32) (s : State) : Res :=
  vxLanes k d m (fun x _ => let va := x.getV a; ofLanes fun i => f (lane va i)) s

def vx2 (k : Ctl) (d : BitVec 5) (m : BitVec 3) (a b : BitVec 5) (f : W32 → W32 → W32) (s : State) : Res :=
  vxLanes k d m (fun x _ => let va := x.getV a; let vb := x.getV b; ofLanes fun i => f (lane va i) (lane vb i)) s

def vx3 (k : Ctl) (d : BitVec 5) (m : BitVec 3) (a b c : BitVec 5) (f : W32 → W32 → W32 → W32) (s : State) : Res :=
  vxLanes k d m (fun x _ =>
    let va := x.getV a; let vb := x.getV b; let vc := x.getV c
    ofLanes fun i => f (lane va i) (lane vb i) (lane vc i)) s

/-- A command that writes a K register whole. -/
def vxK (k : Ctl) (d : BitVec 3) (f : Slot → Word) (s : State) : Res :=
  s.runCmd .vx k fun s _ => .ok { s := s, results := [⟨.k d, (f s.me).setWidth 2048, BitVec.allOnes 64⟩] }

/-- A command that writes every lane of Vd, whatever the mask holds (06 R154). -/
def vxAll (k : Ctl) (d : BitVec 5) (f : Slot → BitVec 2048) (s : State) : Res :=
  s.runCmd .vx k fun s _ => .ok { s := s, results := [⟨.v d, f s.me, BitVec.allOnes 64⟩] }

/-! ### Arithmetic (06 R143 to R145) -/

def vaddOp (t : VTy) (rm : Rm) (sat : Bool) (a b : W32) : W32 :=
  if t.isFp then vround t rm ((velem t a).add (isRdn rm) (velem t b)) else vintRes t sat (vint t a + vint t b)
def vsubOp (t : VTy) (rm : Rm) (sat : Bool) (a b : W32) : W32 :=
  if t.isFp then vround t rm ((velem t a).add (isRdn rm) (velem t b).neg) else vintRes t sat (vint t a - vint t b)
def vmulOp (t : VTy) (rm : Rm) (sat : Bool) (a b : W32) : W32 :=
  if t.isFp then vround t rm ((velem t a).mul (velem t b)) else vintRes t sat (vint t a * vint t b)
/-- a × b + c with each product and addend negated as asked. -/
def vfmaOp (t : VTy) (rm : Rm) (negP negC : Bool) (a b c : W32) : W32 :=
  let p := (velem t a).mul (velem t b)
  let c := velem t c
  vround t rm ((if negP then p.neg else p).add (isRdn rm) (if negC then c.neg else c))
def vmulhOp (t : VTy) (a b : W32) : W32 := BitVec.ofInt 32 (vint t a * vint t b / 2 ^ 32)
def vminOp (t : VTy) (a b : W32) : W32 :=
  if t.isFp then vround t .rne ((velem t a).min (velem t b)) else if vint t a ≤ vint t b then a else b
def vmaxOp (t : VTy) (a b : W32) : W32 :=
  if t.isFp then vround t .rne ((velem t a).max (velem t b)) else if vint t b ≤ vint t a then a else b
/-- The sign bit of an element of a type; an F16 or BF16 result writes bits 31:16 as zero (06 R141). -/
def vsign (t : VTy) : W32 := match t with | .f16 | .bf16 => 0x8000#32 | _ => 0x80000000#32
def velemBits (t : VTy) (a : W32) : W32 := match t with | .f16 | .bf16 => a &&& 0xFFFF#32 | _ => a
def vabsOp (t : VTy) (sat : Bool) (a : W32) : W32 :=
  if t.isFp then velemBits t a &&& ~~~vsign t else vintRes t sat a.toInt.natAbs
def vnegOp (t : VTy) (sat : Bool) (a : W32) : W32 :=
  if t.isFp then velemBits t a ^^^ vsign t else vintRes t sat (-a.toInt)

/-- VADD: 06 R143, R145. -/
def execVadd (k : Ctl) (t : VTy) (rm : Rm) (sat : Bool) (d : BitVec 5) (m : BitVec 3) (a b : BitVec 5) (s : State) : Res :=
  vx2 k d m a b (vaddOp t rm sat) s

/-- VSUB: 06 R143, R145. -/
def execVsub (k : Ctl) (t : VTy) (rm : Rm) (sat : Bool) (d : BitVec 5) (m : BitVec 3) (a b : BitVec 5) (s : State) : Res :=
  vx2 k d m a b (vsubOp t rm sat) s

/-- VMUL: 06 R143, R145. -/
def execVmul (k : Ctl) (t : VTy) (rm : Rm) (sat : Bool) (d : BitVec 5) (m : BitVec 3) (a b : BitVec 5) (s : State) : Res :=
  vx2 k d m a b (vmulOp t rm sat) s

/-- VFMA: 06 R143. -/
def execVfma (k : Ctl) (t : VTy) (rm : Rm) (d : BitVec 5) (m : BitVec 3) (a b c : BitVec 5) (s : State) : Res :=
  vx3 k d m a b c (vfmaOp t rm false false) s

/-- VFMS: 06 R143. -/
def execVfms (k : Ctl) (t : VTy) (rm : Rm) (d : BitVec 5) (m : BitVec 3) (a b c : BitVec 5) (s : State) : Res :=
  vx3 k d m a b c (vfmaOp t rm false true) s

/-- VFNMA: 06 R143. -/
def execVfnma (k : Ctl) (t : VTy) (rm : Rm) (d : BitVec 5) (m : BitVec 3) (a b c : BitVec 5) (s : State) : Res :=
  vx3 k d m a b c (vfmaOp t rm true false) s

/-- VDIV: 06 R143. -/
def execVdiv (k : Ctl) (t : VTy) (rm : Rm) (d : BitVec 5) (m : BitVec 3) (a b : BitVec 5) (s : State) : Res :=
  vx2 k d m a b (fun x y => vround t rm ((velem t x).div (velem t y))) s

/-- VSQRT: 06 R143. -/
def execVsqrt (k : Ctl) (t : VTy) (rm : Rm) (d : BitVec 5) (m : BitVec 3) (a : BitVec 5) (s : State) : Res :=
  vx1 k d m a (fun x => vround t rm (velem t x).sqrt) s

/-- VEXP2: 06 R143. -/
def execVexp2 (k : Ctl) (rm : Rm) (d : BitVec 5) (m : BitVec 3) (a : BitVec 5) (s : State) : Res :=
  vx1 k d m a (fun x => vround .f32 rm (velem .f32 x).exp2) s

/-- VLOG2: 06 R143. -/
def execVlog2 (k : Ctl) (rm : Rm) (d : BitVec 5) (m : BitVec 3) (a : BitVec 5) (s : State) : Res :=
  vx1 k d m a (fun x => vround .f32 rm (velem .f32 x).log2) s

/-- VMIN: 06 R144, R145. -/
def execVmin (k : Ctl) (t : VTy) (d : BitVec 5) (m : BitVec 3) (a b : BitVec 5) (s : State) : Res :=
  vx2 k d m a b (vminOp t) s

/-- VMAX: 06 R144, R145. -/
def execVmax (k : Ctl) (t : VTy) (d : BitVec 5) (m : BitVec 3) (a b : BitVec 5) (s : State) : Res :=
  vx2 k d m a b (vmaxOp t) s

/-- VABS: 06 R144, R145; 02 R44. -/
def execVabs (k : Ctl) (t : VTy) (sat : Bool) (d : BitVec 5) (m : BitVec 3) (a : BitVec 5) (s : State) : Res :=
  vx1 k d m a (vabsOp t sat) s

/-- VNEG: 06 R144, R145; 02 R44. -/
def execVneg (k : Ctl) (t : VTy) (sat : Bool) (d : BitVec 5) (m : BitVec 3) (a : BitVec 5) (s : State) : Res :=
  vx1 k d m a (vnegOp t sat) s

/-! ### Bitwise and shifts (06 R146) -/

/-- VAND: 06 R146. -/
def execVand (k : Ctl) (d : BitVec 5) (m : BitVec 3) (a b : BitVec 5) (s : State) : Res :=
  vx2 k d m a b (fun x y => x &&& y) s

/-- VOR: 06 R146. -/
def execVor (k : Ctl) (d : BitVec 5) (m : BitVec 3) (a b : BitVec 5) (s : State) : Res :=
  vx2 k d m a b (fun x y => x ||| y) s

/-- VXOR: 06 R146. -/
def execVxor (k : Ctl) (d : BitVec 5) (m : BitVec 3) (a b : BitVec 5) (s : State) : Res :=
  vx2 k d m a b (fun x y => x ^^^ y) s

/-- A shift by a register's lanes or by an immediate; amounts of 32 and above shift every bit out. -/
def vxShift (k : Ctl) (d : BitVec 5) (m : BitVec 3) (a : BitVec 5) (n : VShift) (f : W32 → Nat → W32) (s : State) : Res :=
  match n with
  | .reg b => vx2 k d m a b (fun x y => f x y.toNat) s
  | .imm n => vx1 k d m a (fun x => f x n.toNat) s

def shlOp (x : W32) (n : Nat) : W32 := if 32 ≤ n then 0#32 else x <<< n
def shrOp (x : W32) (n : Nat) : W32 := if 32 ≤ n then 0#32 else x >>> n
def shaOp (x : W32) (n : Nat) : W32 := if 32 ≤ n then (if x.getLsbD 31 then BitVec.allOnes 32 else 0#32) else x.sshiftRight n

/-- VSHL: 06 R146. -/
def execVshl (k : Ctl) (d : BitVec 5) (m : BitVec 3) (a : BitVec 5) (n : VShift) (s : State) : Res :=
  vxShift k d m a n shlOp s

/-- VSHR: 06 R146. -/
def execVshr (k : Ctl) (d : BitVec 5) (m : BitVec 3) (a : BitVec 5) (n : VShift) (s : State) : Res :=
  vxShift k d m a n shrOp s

/-- VSHA: 06 R146. -/
def execVsha (k : Ctl) (d : BitVec 5) (m : BitVec 3) (a : BitVec 5) (n : VShift) (s : State) : Res :=
  vxShift k d m a n shaOp s

/-- VMULH: 06 R145. -/
def execVmulh (k : Ctl) (t : VTy) (d : BitVec 5) (m : BitVec 3) (a b : BitVec 5) (s : State) : Res :=
  vx2 k d m a b (vmulhOp t) s

/-! ### Compares and masks (06 R147, R148) -/

/-- The bits of lanes that a predicate selects. -/
def laneBits (p : Nat → Bool) : Word := upTo 64 (fun i (w : Word) => if p i then w ||| (1#64 <<< i) else w) 0#64

/-- VCMP: 06 R147; 0 for an inactive lane (R142). -/
def execVcmp (k : Ctl) (t : VTy) (cc : VCc) (d m : BitVec 3) (a b : BitVec 5) (s : State) : Res :=
  vxK k d (fun x =>
    let va := x.getV a; let vb := x.getV b; let act := x.getK m
    laneBits fun i => act.getLsbD i && vccHolds cc (velem t (lane va i)) (velem t (lane vb i))) s

/-- VSEL: 06 R148. -/
def execVsel (k : Ctl) (d : BitVec 5) (m : BitVec 3) (a b : BitVec 5) (c : BitVec 3) (s : State) : Res :=
  vxLanes k d m (fun x _ => mixLanes (x.getK c) (x.getV a) (x.getV b)) s

/-- KAND: 06 R148. -/
def execKand (k : Ctl) (d a b : BitVec 3) (s : State) : Res :=
  vxK k d (fun x => x.getK a &&& x.getK b) s

/-- KOR: 06 R148. -/
def execKor (k : Ctl) (d a b : BitVec 3) (s : State) : Res :=
  vxK k d (fun x => x.getK a ||| x.getK b) s

/-- KXOR: 06 R148. -/
def execKxor (k : Ctl) (d a b : BitVec 3) (s : State) : Res :=
  vxK k d (fun x => x.getK a ^^^ x.getK b) s

/-- KNOT: 06 R148. -/
def execKnot (k : Ctl) (d a : BitVec 3) (s : State) : Res :=
  vxK k d (fun x => ~~~x.getK a) s

/-- KPOPC: 06 R148. -/
def execKpopc (k : Ctl) (d : BitVec 5) (m a : BitVec 3) (s : State) : Res :=
  vxLanes k d m (fun x _ => let n := popCount 64 (x.getK a).toNat; ofLanes fun _ => ofPat n) s

/-- KFIRST: 06 R148. -/
def execKfirst (k : Ctl) (d a : BitVec 3) (s : State) : Res :=
  vxK k d (fun x => x.getK a &&& (0#64 - x.getK a)) s

/-! ### Conversions (06 R149 to R153) -/

/-- sr_round(x, dst, u) as a pattern (02 R52). -/
def srRound (f : Fmt) (u : W32) (x : Num) : Nat :=
  match fpOf f with
  | some g => g.roundSr u.toNat x
  | none => convert f .rne x

/-- One lane of VCVT; `idx` is the lane of Vb. -/
def vcvtOp (src dst : Fmt) (rm : Rm) (seed : Word) (x idx : W32) : W32 :=
  let v := decodeFmt src (x.toNat % 2 ^ fmtBits src)
  ofPat (match rm with
    | .sr => srRound dst (praline seed (idx.setWidth 64)) v
    | rm => convert dst rm v)

/-- VCVT: 06 R149; 02 R51, R52. PRALINE_SEED is as bound at dispatch (04 R107). -/
def execVcvt (k : Ctl) (src dst : Fmt) (rm : Rm) (d : BitVec 5) (m : BitVec 3) (a b : BitVec 5) (s : State) : Res :=
  vxLanes k d m (fun x en =>
    let va := x.getV a; let vb := x.getV b
    ofLanes fun i => vcvtOp src dst rm en.seed (lane va i) (lane vb i)) s

def packBits : PWidth → Nat
  | .w16 => 16 | .w8 => 8 | .w4 => 4

/-- VPACK: 06 R150. -/
def execVpack (k : Ctl) (w : PWidth) (d : BitVec 5) (m : BitVec 3) (a b : BitVec 5) (s : State) : Res :=
  vxLanes k d m (fun x _ =>
    let va := x.getV a; let vb := x.getV b; let n := packBits w
    upTo 128 (fun j (acc : BitVec 2048) =>
      let e := (if j < 64 then lane va j else lane vb (j - 64)).toNat % 2 ^ n
      acc ||| (BitVec.ofNat 2048 e <<< (n * j))) 0#2048) s

/-- VUNPACK: 06 R151. -/
def execVunpack (k : Ctl) (w : PWidth) (part : BitVec 3) (sx : Bool) (d : BitVec 5) (m : BitVec 3) (a : BitVec 5) (s : State) : Res :=
  vxLanes k d m (fun x _ =>
    let va := x.getV a; let n := packBits w
    ofLanes fun i =>
      let e := natBits va.toNat (n * (part.toNat * 64 + i) + n - 1) (n * (part.toNat * 64 + i))
      if sx then BitVec.ofInt 32 (asInt n e) else ofPat e) s

/-- VLUT: 06 R152; 16 R360, 27 R472. -/
def execVlut (k : Ctl) (cb part : BitVec 3) (wide : Bool) (d : BitVec 5) (m : BitVec 3) (a : BitVec 5) (s : State) : Res :=
  s.runCmd .vx k fun s _ =>
    let x := s.me
    let book := (s.tile (tileOf s.cur)).codebookFor x.job.team cb.toNat
    let va := x.getV a
    let v := ofLanes fun i =>
      let code := natBits va.toNat (4 * (part.toNat * 64 + i) + 3) (4 * (part.toNat * 64 + i))
      let e := cbEntry book code
      ofPat (if wide then f32Fmt.round .rne (bf16Fmt.decode e) else e)
    .ok { s := s, results := [⟨.v d, v, x.getK m⟩] }

/-- VSCALE: 06 R153. -/
def execVscale (k : Ctl) (fmt : Fmt) (d : BitVec 5) (m : BitVec 3) (a b : BitVec 5) (s : State) : Res :=
  vx2 k d m a b (fun x y =>
    vround .f32 .rne ((decodeFmt fmt (x.toNat % 2 ^ fmtBits fmt)).mul (scaleNum (y.toNat % 1024)))) s

/-! ### Reductions, scans and sorts (02 R59 to R61; 06 R154, R155) -/

/-- add_f of R59. -/
def addF (t : VTy) (a b : W32) : W32 := vaddOp t .rne false a b

/-- The identity of R59: −0, or 0. -/
def addId (t : VTy) : W32 := if t.isFp then vsign t else 0#32

/-- The lanes of a source with inactive ones replaced. -/
def activeElems (t : VTy) (act : Word) (v : BitVec 2048) (e : W32) : List W32 :=
  (below 64).map fun i => if act.getLsbD i then velemBits t (lane v i) else e

/-- Combine adjacent pairs. -/
def pairUp (f : W32 → W32 → W32) : List W32 → List W32
  | a :: b :: r => f a b :: pairUp f r
  | r => r

/-- The balanced tree of R59, with one level per unit of fuel. -/
def treeFold (f : W32 → W32 → W32) : Nat → List W32 → List W32
  | 0, l => l
  | n + 1, l => treeFold f n (pairUp f l)

/-- One doubling step of R60. -/
def scanStep (t : VTy) (d : Nat) (l : List W32) : List W32 :=
  (below l.length).map fun j =>
    if 2 ^ d ≤ j then addF t (l.getD (j - 2 ^ d) 0#32) (l.getD j 0#32) else l.getD j 0#32

def scan (t : VTy) (l : List W32) : List W32 :=
  scanStep t 5 (scanStep t 4 (scanStep t 3 (scanStep t 2 (scanStep t 1 (scanStep t 0 l)))))

/-- The result of no active lane (02 R61). -/
def extremeId (t : VTy) (max : Bool) : W32 :=
  if t.isFp then ofPat ((vtyFmt t).infinity max)
  else match t, max with
    | .n32, true => 0#32
    | .n32, false => BitVec.allOnes 32
    | _, true => 0x80000000#32
    | _, false => 0x7FFFFFFF#32

def ofList (l : List W32) : BitVec 2048 := ofLanes fun i => l.getD i 0#32
def spread (x : W32) : BitVec 2048 := ofLanes fun _ => x

/-- VREDSUM: 02 R59, 06 R154. -/
def execVredsum (k : Ctl) (t : VTy) (d : BitVec 5) (m : BitVec 3) (a : BitVec 5) (s : State) : Res :=
  vxAll k d (fun x =>
    spread ((treeFold (addF t) 6 (activeElems t (x.getK m) (x.getV a) (addId t))).getD 0 0#32)) s

/-- VREDMAX: 02 R61, 06 R154. -/
def execVredmax (k : Ctl) (t : VTy) (d : BitVec 5) (m : BitVec 3) (a : BitVec 5) (s : State) : Res :=
  vxAll k d (fun x =>
    spread ((treeFold (vmaxOp t) 6 (activeElems t (x.getK m) (x.getV a) (extremeId t true))).getD 0 0#32)) s

/-- VREDMIN: 02 R61, 06 R154. -/
def execVredmin (k : Ctl) (t : VTy) (d : BitVec 5) (m : BitVec 3) (a : BitVec 5) (s : State) : Res :=
  vxAll k d (fun x =>
    spread ((treeFold (vminOp t) 6 (activeElems t (x.getK m) (x.getV a) (extremeId t false))).getD 0 0#32)) s

/-- A NaN lane as the canonical NaN of its type (02 R44). -/
def canonLane (t : VTy) (x : W32) : W32 := if t.isFp && (velem t x).isNan then ofPat (vtyFmt t).canon else x

/-- VSCAN: 02 R60, 06 R154. The steps of R60 copy lane 0, and R44 excepts no lane of a reduction: a NaN of an active lane 0 leaves as
the canonical NaN (log 73). -/
def execVscan (k : Ctl) (t : VTy) (d : BitVec 5) (m : BitVec 3) (a : BitVec 5) (s : State) : Res :=
  vxAll k d (fun x => ofList ((scan t (activeElems t (x.getK m) (x.getV a) (addId t))).map (canonLane t))) s

/-- Whether key a goes strictly before key b (06 R155). -/
def keyBefore (t : VTy) (desc : Bool) (a b : W32) : Bool :=
  let x := velem t a; let y := velem t b
  if x.isNan then false else if y.isNan then true else if desc then y.lt x else x.lt y

/-- Insert a pair after every pair that does not go strictly after it: the sort is stable. -/
def insertKey (t : VTy) (desc : Bool) (p : W32 × W32) : List (W32 × W32) → List (W32 × W32)
  | [] => [p]
  | q :: r => if keyBefore t desc p.1 q.1 then p :: q :: r else q :: insertKey t desc p r

/-- Sorted active lanes, then the inactive ones in lane order. -/
def sortLanes (t : VTy) (desc : Bool) (act : Word) (a b : BitVec 2048) : List (W32 × W32) :=
  let pairs := (below 64).map fun i => (i, lane a i, lane b i)
  let on := (pairs.filter fun p => act.getLsbD p.1).map Prod.snd
  let off := (pairs.filter fun p => !act.getLsbD p.1).map Prod.snd
  on.foldl (fun l p => insertKey t desc p l) [] ++ off

/-- VSORT: 06 R155. -/
def execVsort (k : Ctl) (t : VTy) (desc : Bool) (d : BitVec 5) (m : BitVec 3) (a b c : BitVec 5) (s : State) : Res :=
  s.runCmd .vx k fun s _ =>
    let x := s.me
    let l := sortLanes t desc (x.getK m) (x.getV a) (x.getV b)
    .ok { s := s, results := [⟨.v d, ofList (l.map Prod.fst), BitVec.allOnes 64⟩,
                              ⟨.v c, ofList (l.map Prod.snd), BitVec.allOnes 64⟩] }

/-! ### Moves (06 R156) and random bits (06 R158) -/

/-- VPERM: 06 R156. -/
def execVperm (k : Ctl) (d : BitVec 5) (m : BitVec 3) (a b : BitVec 5) (s : State) : Res :=
  vxLanes k d m (fun x _ =>
    let va := x.getV a; let vb := x.getV b
    ofLanes fun i => let j := (lane vb i).toNat; if 64 ≤ j then 0#32 else lane va j) s

/-- VBCAST: 06 R156. -/
def execVbcast (k : Ctl) (d : BitVec 5) (m : BitVec 3) (a : BitVec 5) (ln : BitVec 6) (s : State) : Res :=
  vxLanes k d m (fun x _ => spread (lane (x.getV a) ln.toNat)) s

/-- VGET: 06 R156. -/
def execVget (k : Ctl) (d : BitVec 5) (m : BitVec 3) (a : BitVec 5) (ln : BitVec 6) (s : State) : Res :=
  vxLanes k d m (fun x _ => (lane (x.getV a) ln.toNat).setWidth 2048) s

/-- VPUT: 06 R156: it writes only lane `ln`, and only when that lane is active. -/
def execVput (k : Ctl) (d : BitVec 5) (m : BitVec 3) (a : BitVec 5) (ln : BitVec 6) (s : State) : Res :=
  s.runCmd .vx k fun s _ =>
    .ok { s := s, results := [⟨.v d, spread (lane (s.me.getV a) 0), s.me.getK m &&& (1#64 <<< ln.toNat)⟩] }

/-- VIOTA: 06 R156. -/
def execViota (k : Ctl) (d : BitVec 5) (m : BitVec 3) (base : BitVec 12) (s : State) : Res :=
  vxLanes k d m (fun _ _ => ofLanes fun i => base.signExtend 32 + ofPat i) s

/-- VRAND: 06 R158; the counter advances by 64 at issue. -/
def execVrand (k : Ctl) (d : BitVec 5) (m : BitVec 3) (s : State) : Res :=
  s.runCmd .vx k fun s en =>
    let ctr := s.me.vrand
    let v := ofLanes fun i => praline en.seed (ctr + BitVec.ofNat 64 i)
    .ok { s := s.upMe fun x => { x with vrand := ctr + 64#64 }, results := [⟨.v d, v, s.me.getK m⟩] }

/-- VMOV: 06 R156. -/
def execVmov (k : Ctl) (d : BitVec 5) (m : BitVec 3) (a : BitVec 5) (s : State) : Res :=
  vxLanes k d m (fun x _ => x.getV a) s

/-- VMOVI: 06 R156. -/
def execVmovi (k : Ctl) (d : BitVec 5) (m : BitVec 3) (imm : W32) (s : State) : Res :=
  vxLanes k d m (fun _ _ => spread imm) s

/-! ### Spills (06 R159, R160) -/

/-- VSPILL: 06 R159; it has no covered result. -/
def execVspill (k : Ctl) (a id : BitVec 5) (s : State) : Res :=
  s.runCmd .vx k fun s _ => do
    let s ← s.spillTo s.cur id.toNat (s.me.getV a)
    .ok { s := s }

/-- VFILL: 06 R160. -/
def execVfill (k : Ctl) (d id : BitVec 5) (s : State) : Res :=
  s.runCmd .vx k fun s _ =>
    let all := BitVec.allOnes 64
    match spillLocOf (s.me.spillMap id.toNat) with
    | none => .ok { s := s, results := [⟨.v d, 0#2048, all⟩] }
    | some l => do
      let (s, v, p) ← s.spillRead s.cur l
      if p then .error (.after s ⟨fPoison, (Config.openWord s.freeCtr).toNat⟩)
      else .ok { s := s.spillFree s.cur id.toNat l, results := [⟨.v d, v, all⟩] }

end Sys2Proof.Machine
end

