-- ==== Sys2Proof/Machine/Dispatch.lean ====
section
/-! DEFINITION. The dispatch of every step of the device to its meaning. -/
namespace Sys2Proof.Machine

/-- The meaning of a step. -/
def exec (i : Instr) (s : State) : Host.Outcome State Fault Refusal :=
  match i with
  | .add d a b => Sys2Proof.Machine.execAdd d a b s
  | .sub d a b => Sys2Proof.Machine.execSub d a b s
  | .mul d a b => Sys2Proof.Machine.execMul d a b s
  | .mulh d a b => Sys2Proof.Machine.execMulh d a b s
  | .mulhn d a b => Sys2Proof.Machine.execMulhn d a b s
  | .div d a b => Sys2Proof.Machine.execDiv d a b s
  | .divn d a b => Sys2Proof.Machine.execDivn d a b s
  | .rem d a b => Sys2Proof.Machine.execRem d a b s
  | .remn d a b => Sys2Proof.Machine.execRemn d a b s
  | .and d a b => Sys2Proof.Machine.execAnd d a b s
  | .or d a b => Sys2Proof.Machine.execOr d a b s
  | .xor d a b => Sys2Proof.Machine.execXor d a b s
  | .shl d a b => Sys2Proof.Machine.execShl d a b s
  | .shr d a b => Sys2Proof.Machine.execShr d a b s
  | .sha d a b => Sys2Proof.Machine.execSha d a b s
  | .min d a b => Sys2Proof.Machine.execMin d a b s
  | .max d a b => Sys2Proof.Machine.execMax d a b s
  | .minn d a b => Sys2Proof.Machine.execMinn d a b s
  | .maxn d a b => Sys2Proof.Machine.execMaxn d a b s
  | .clz d a => Sys2Proof.Machine.execClz d a s
  | .ctz d a => Sys2Proof.Machine.execCtz d a s
  | .popc d a => Sys2Proof.Machine.execPopc d a s
  | .bswap d a => Sys2Proof.Machine.execBswap d a s
  | .sel n d a b => Sys2Proof.Machine.execSel n d a b s
  | .cmp cc d a b => Sys2Proof.Machine.execCmp cc d a b s
  | .pand d a b => Sys2Proof.Machine.execPand d a b s
  | .por d a b => Sys2Proof.Machine.execPor d a b s
  | .pxor d a b => Sys2Proof.Machine.execPxor d a b s
  | .pnot d a => Sys2Proof.Machine.execPnot d a s
  | .bufa d a b => Sys2Proof.Machine.execBufa d a b s
  | .bufx d a => Sys2Proof.Machine.execBufx d a s
  | .bufo d a => Sys2Proof.Machine.execBufo d a s
  | .addi d a imm => Sys2Proof.Machine.execAddi d a imm s
  | .andi d a imm => Sys2Proof.Machine.execAndi d a imm s
  | .ori d a imm => Sys2Proof.Machine.execOri d a imm s
  | .xori d a imm => Sys2Proof.Machine.execXori d a imm s
  | .shli d a n => Sys2Proof.Machine.execShli d a n s
  | .shri d a n => Sys2Proof.Machine.execShri d a n s
  | .shai d a n => Sys2Proof.Machine.execShai d a n s
  | .cmpi cc d a imm => Sys2Proof.Machine.execCmpi cc d a imm s
  | .lui d imm => Sys2Proof.Machine.execLui d imm s
  | .jal d off => Sys2Proof.Machine.execJal d off s
  | .j off => Sys2Proof.Machine.execJ off s
  | .br p off => Sys2Proof.Machine.execBr p off s
  | .jalr d a imm => Sys2Proof.Machine.execJalr d a imm s
  | .movx d a imm => Sys2Proof.Machine.execMovx d a imm s
  | .movxs d a => Sys2Proof.Machine.execMovxs d a s
  | .ldc sz d a imm => Sys2Proof.Machine.execLdc sz d a imm s
  | .ldcLong sz d a disp => Sys2Proof.Machine.execLdcLong sz d a disp s
  | .stc sz d a imm => Sys2Proof.Machine.execStc sz d a imm s
  | .stcLong sz d a disp => Sys2Proof.Machine.execStcLong sz d a disp s
  | .amo op dword scope d a b => Sys2Proof.Machine.execAmo op dword scope d a b s
  | .fence kind scope => Sys2Proof.Machine.execFence kind scope s
  | .region scoreboard => Sys2Proof.Machine.execRegion scoreboard s
  | .regionResume => Sys2Proof.Machine.execRegionResume s
  | .sysr d name idx => Sys2Proof.Machine.execSysr d name idx s
  | .sysw a name idx => Sys2Proof.Machine.execSysw a name idx s
  | .arbModeTakeEffect => Sys2Proof.Machine.execArbModeTakeEffect s
  | .trap n => Sys2Proof.Machine.execTrap n s
  | .eret => Sys2Proof.Machine.execEret s
  | .yieldQ => Sys2Proof.Machine.execYieldQ s
  | .endj => Sys2Proof.Machine.execEndj s
  | .nop => Sys2Proof.Machine.execNop s
  | .liw d imm => Sys2Proof.Machine.execLiw d imm s
  | .tdef cls index word => Sys2Proof.Machine.execTdef cls index word s
  | .tbw d a b code => Sys2Proof.Machine.execTbw d a b code s
  | .tbr d a b code => Sys2Proof.Machine.execTbr d a b code s
  | .tlbi scope a => Sys2Proof.Machine.execTlbi scope a s
  | .shardw d a b owner => Sys2Proof.Machine.execShardw d a b owner s
  | .shardr d a b => Sys2Proof.Machine.execShardr d a b s
  | .curw d a b => Sys2Proof.Machine.execCurw d a b s
  | .ctxw d a b queue => Sys2Proof.Machine.execCtxw d a b queue s
  | .fmmuw d a b mmu => Sys2Proof.Machine.execFmmuw d a b mmu s
  | .keyw d a b => Sys2Proof.Machine.execKeyw d a b s
  | .protw d a b => Sys2Proof.Machine.execProtw d a b s
  | .tableWriteInForce n => Sys2Proof.Machine.execTableWriteInForce n s
  | .enq d a b ind => Sys2Proof.Machine.execEnq d a b ind s
  | .deq d a b ind p => Sys2Proof.Machine.execDeq d a b ind p s
  | .peek d a b ind p => Sys2Proof.Machine.execPeek d a b ind p s
  | .enqr d a b c => Sys2Proof.Machine.execEnqr d a b c s
  | .enqrOutcome => Sys2Proof.Machine.execEnqrOutcome s
  | .qstat d a => Sys2Proof.Machine.execQstat d a s
  | .tokp eng fifo out => Sys2Proof.Machine.execTokp eng fifo out s
  | .rndv => Sys2Proof.Machine.execRndv s
  | .rndvRetire => Sys2Proof.Machine.execRndvRetire s
  | .sync a => Sys2Proof.Machine.execSync a s
  | .syncW => Sys2Proof.Machine.execSyncW s
  | .arrive a => Sys2Proof.Machine.execArrive a s
  | .phaseClose team => Sys2Proof.Machine.execPhaseClose team s
  | .waitc d a id => Sys2Proof.Machine.execWaitc d a id s
  | .waitcSatisfied => Sys2Proof.Machine.execWaitcSatisfied s
  | .spawn d a => Sys2Proof.Machine.execSpawn d a s
  | .refF d a => Sys2Proof.Machine.execRefF d a s
  | .dropF d a => Sys2Proof.Machine.execDropF d a s
  | .await d a => Sys2Proof.Machine.execAwait d a s
  | .awaitl d a => Sys2Proof.Machine.execAwaitl d a s
  | .awaitlEnd => Sys2Proof.Machine.execAwaitlEnd s
  | .rpoint => Sys2Proof.Machine.execRpoint s
  | .yieldl kind a b => Sys2Proof.Machine.execYieldl kind a b s
  | .yieldlReady => Sys2Proof.Machine.execYieldlReady s
  | .tktset d a b => Sys2Proof.Machine.execTktset d a b s
  | .tktget d a sel => Sys2Proof.Machine.execTktget d a sel s
  | .draw d a => Sys2Proof.Machine.execDraw d a s
  | .ctrset a b => Sys2Proof.Machine.execCtrset a b s
  | .ctrget d a => Sys2Proof.Machine.execCtrget d a s
  | .ctradd a b => Sys2Proof.Machine.execCtradd a b s
  | .patchWordDispatch cls index sel pop push last value => Sys2Proof.Machine.execPatchWordDispatch cls index sel pop push last value s
  | .coveredResultLanding n lanes => Sys2Proof.Machine.execCoveredResultLanding n lanes s
  | .vadd k t rm sat d m a b => Sys2Proof.Machine.execVadd k t rm sat d m a b s
  | .vsub k t rm sat d m a b => Sys2Proof.Machine.execVsub k t rm sat d m a b s
  | .vmul k t rm sat d m a b => Sys2Proof.Machine.execVmul k t rm sat d m a b s
  | .vfma k t rm d m a b c => Sys2Proof.Machine.execVfma k t rm d m a b c s
  | .vfms k t rm d m a b c => Sys2Proof.Machine.execVfms k t rm d m a b c s
  | .vfnma k t rm d m a b c => Sys2Proof.Machine.execVfnma k t rm d m a b c s
  | .vdiv k t rm d m a b => Sys2Proof.Machine.execVdiv k t rm d m a b s
  | .vsqrt k t rm d m a => Sys2Proof.Machine.execVsqrt k t rm d m a s
  | .vexp2 k rm d m a => Sys2Proof.Machine.execVexp2 k rm d m a s
  | .vlog2 k rm d m a => Sys2Proof.Machine.execVlog2 k rm d m a s
  | .vmin k t d m a b => Sys2Proof.Machine.execVmin k t d m a b s
  | .vmax k t d m a b => Sys2Proof.Machine.execVmax k t d m a b s
  | .vabs k t sat d m a => Sys2Proof.Machine.execVabs k t sat d m a s
  | .vneg k t sat d m a => Sys2Proof.Machine.execVneg k t sat d m a s
  | .vand k d m a b => Sys2Proof.Machine.execVand k d m a b s
  | .vor k d m a b => Sys2Proof.Machine.execVor k d m a b s
  | .vxor k d m a b => Sys2Proof.Machine.execVxor k d m a b s
  | .vshl k d m a n => Sys2Proof.Machine.execVshl k d m a n s
  | .vshr k d m a n => Sys2Proof.Machine.execVshr k d m a n s
  | .vsha k d m a n => Sys2Proof.Machine.execVsha k d m a n s
  | .vmulh k t d m a b => Sys2Proof.Machine.execVmulh k t d m a b s
  | .vcmp k t cc d m a b => Sys2Proof.Machine.execVcmp k t cc d m a b s
  | .vsel k d m a b c => Sys2Proof.Machine.execVsel k d m a b c s
  | .kand k d a b => Sys2Proof.Machine.execKand k d a b s
  | .kor k d a b => Sys2Proof.Machine.execKor k d a b s
  | .kxor k d a b => Sys2Proof.Machine.execKxor k d a b s
  | .knot k d a => Sys2Proof.Machine.execKnot k d a s
  | .kpopc k d m a => Sys2Proof.Machine.execKpopc k d m a s
  | .kfirst k d a => Sys2Proof.Machine.execKfirst k d a s
  | .vcvt k src dst rm d m a b => Sys2Proof.Machine.execVcvt k src dst rm d m a b s
  | .vpack k w d m a b => Sys2Proof.Machine.execVpack k w d m a b s
  | .vunpack k w part sx d m a => Sys2Proof.Machine.execVunpack k w part sx d m a s
  | .vlut k cb part wide d m a => Sys2Proof.Machine.execVlut k cb part wide d m a s
  | .vscale k fmt d m a b => Sys2Proof.Machine.execVscale k fmt d m a b s
  | .vredsum k t d m a => Sys2Proof.Machine.execVredsum k t d m a s
  | .vredmax k t d m a => Sys2Proof.Machine.execVredmax k t d m a s
  | .vredmin k t d m a => Sys2Proof.Machine.execVredmin k t d m a s
  | .vscan k t d m a => Sys2Proof.Machine.execVscan k t d m a s
  | .vsort k t desc d m a b c => Sys2Proof.Machine.execVsort k t desc d m a b c s
  | .vperm k d m a b => Sys2Proof.Machine.execVperm k d m a b s
  | .vbcast k d m a lane => Sys2Proof.Machine.execVbcast k d m a lane s
  | .vget k d m a lane => Sys2Proof.Machine.execVget k d m a lane s
  | .vput k d m a lane => Sys2Proof.Machine.execVput k d m a lane s
  | .viota k d m base => Sys2Proof.Machine.execViota k d m base s
  | .vrand k d m => Sys2Proof.Machine.execVrand k d m s
  | .vmov k d m a => Sys2Proof.Machine.execVmov k d m a s
  | .vmovi k d m imm => Sys2Proof.Machine.execVmovi k d m imm s
  | .vspill k a id => Sys2Proof.Machine.execVspill k a id s
  | .vfill k d id => Sys2Proof.Machine.execVfill k d id s
  | .mma k pt z q a b c kk => Sys2Proof.Machine.execMma k pt z q a b c kk s
  | .mmaz k pt z q a b c kk => Sys2Proof.Machine.execMmaz k pt z q a b c kk s
  | .mmap k pt z q a b c kk => Sys2Proof.Machine.execMmap k pt z q a b c kk s
  | .mret k c => Sys2Proof.Machine.execMret k c s
  | .mdrain k res drop free d z r c rate => Sys2Proof.Machine.execMdrain k res drop free d z r c rate s
  | .mzero k z c => Sys2Proof.Machine.execMzero k z c s
  | .mldcb k pt cba cbb c => Sys2Proof.Machine.execMldcb k pt cba cbb c s
  | .mstat k nz g z mask c => Sys2Proof.Machine.execMstat k nz g z mask c s
  | .mpark k id f l c => Sys2Proof.Machine.execMpark k id f l c s
  | .munpark k id f l c => Sys2Proof.Machine.execMunpark k id f l c s
  | .stampReached => Sys2Proof.Machine.execStampReached s
  | .arbiterDraw e => Sys2Proof.Machine.execArbiterDraw e s
  | .quantumEnd e => Sys2Proof.Machine.execQuantumEnd e s
  | .ld k sz sx q d m a am => Sys2Proof.Machine.execLd k sz sx q d m a am s
  | .ldb k sz sx q d m a am => Sys2Proof.Machine.execLdb k sz sx q d m a am s
  | .ldg k sz sx q d m a buf b am => Sys2Proof.Machine.execLdg k sz sx q d m a buf b am s
  | .ldf k sz sx q d m a am => Sys2Proof.Machine.execLdf k sz sx q d m a am s
  | .lds k sz sx q d m a b rank => Sys2Proof.Machine.execLds k sz sx q d m a b rank s
  | .mark onSt lb => Sys2Proof.Machine.execMark onSt lb s
  | .markRetire => Sys2Proof.Machine.execMarkRetire s
  | .st k sz d m a am => Sys2Proof.Machine.execSt k sz d m a am s
  | .stb k sz d m a am => Sys2Proof.Machine.execStb k sz d m a am s
  | .stg k sz d m a buf b am => Sys2Proof.Machine.execStg k sz d m a buf b am s
  | .stf k sz d m a am => Sys2Proof.Machine.execStf k sz d m a am s
  | .stn4 k d m a buf am => Sys2Proof.Machine.execStn4 k d m a buf am s
  | .vamo k op t d m a b c buf am => Sys2Proof.Machine.execVamo k op t d m a b c buf am s
  | .loadDataHead => Sys2Proof.Machine.execLoadDataHead s
  | .storePerformed n lanes => Sys2Proof.Machine.execStorePerformed n lanes s
  | .loadPerformed n lanes => Sys2Proof.Machine.execLoadPerformed n lanes s
  | .storeReplay => Sys2Proof.Machine.execStoreReplay s
  | .cpy k dv cv sv d a n id inc => Sys2Proof.Machine.execCpy k dv cv sv d a n id inc s
  | .cpy2 k dv cv sv d a n m id inc => Sys2Proof.Machine.execCpy2 k dv cv sv d a n m id inc s
  | .cpys k sz d a n f id inc => Sys2Proof.Machine.execCpys k sz d a n f id inc s
  | .cpyf k fs dv sv d a n id inc => Sys2Proof.Machine.execCpyf k fs dv sv d a n id inc s
  | .fill k dv d n v id inc => Sys2Proof.Machine.execFill k dv d n v id inc s
  | .fillDiscard k m id inc => Sys2Proof.Machine.execFillDiscard k m id inc s
  | .copyUnit n => Sys2Proof.Machine.execCopyUnit n s
  | .cpCompletion n => Sys2Proof.Machine.execCpCompletion n s
  | .nmaxpy k y x a n id inc => Sys2Proof.Machine.execNmaxpy k y x a n id inc s
  | .nmscale k y a n id inc => Sys2Proof.Machine.execNmscale k y a n id inc s
  | .nmfade k w g p n id inc => Sys2Proof.Machine.execNmfade k w g p n id inc s
  | .nmsum k r x n id inc => Sys2Proof.Machine.execNmsum k r x n id inc s
  | .nmfill k y v n id inc => Sys2Proof.Machine.execNmfill k y v n id inc s
  | .nmchk k y n id inc => Sys2Proof.Machine.execNmchk k y n id inc s
  | .nmfence k id inc => Sys2Proof.Machine.execNmfence k id inc s
  | .nmCommand n => Sys2Proof.Machine.execNmCommand n s
  | .nmsumPartialCombine n => Sys2Proof.Machine.execNmsumPartialCombine n s
  | .nmStatus n => Sys2Proof.Machine.execNmStatus n s
  | .taskEntry die => Sys2Proof.Machine.execTaskEntry die s
  | .predecessorFinish die n => Sys2Proof.Machine.execPredecessorFinish die n s
  | .teamPlacement die => Sys2Proof.Machine.execTeamPlacement die s
  | .starvationExpiry die => Sys2Proof.Machine.execStarvationExpiry die s
  | .preemptRequest team => Sys2Proof.Machine.execPreemptRequest team s
  | .preemptionCut => Sys2Proof.Machine.execPreemptionCut s
  | .iterOverrun => Sys2Proof.Machine.execIterOverrun s
  | .teamSwapOut team => Sys2Proof.Machine.execTeamSwapOut team s
  | .teamSwapIn team => Sys2Proof.Machine.execTeamSwapIn team s
  | .jobEnd => Sys2Proof.Machine.execJobEnd s
  | .taskReclaim => Sys2Proof.Machine.execTaskReclaim s
  | .trapEntry => Sys2Proof.Machine.execTrapEntry s
  | .contextSwitch incoming => Sys2Proof.Machine.execContextSwitch incoming s
  | .queueSwapOut die tenant => Sys2Proof.Machine.execQueueSwapOut die tenant s
  | .queueSwapIn die => Sys2Proof.Machine.execQueueSwapIn die s
  | .seasonIdleExpiry u => Sys2Proof.Machine.execSeasonIdleExpiry u s
  | .wakeComplete u => Sys2Proof.Machine.execWakeComplete u s
  | .holdExpiry => Sys2Proof.Machine.execHoldExpiry s
  | .hostKick fn q tail => Sys2Proof.Machine.execHostKick fn q tail s
  | .cqheadWrite fn q head => Sys2Proof.Machine.execCqheadWrite fn q head s
  | .stoppedClear fn q => Sys2Proof.Machine.execStoppedClear fn q s
  | .invoke fn q => Sys2Proof.Machine.execInvoke fn q s
  | .modelLoad fn q accept => Sys2Proof.Machine.execModelLoad fn q accept s
  | .modelUnload fn q => Sys2Proof.Machine.execModelUnload fn q s
  | .completionEntryWrite fn q => Sys2Proof.Machine.execCompletionEntryWrite fn q s
  | .hostWinMemAccess fn va len write data => Sys2Proof.Machine.execHostWinMemAccess fn va len write data s
  | .semaphoreRequest portA portB n => Sys2Proof.Machine.execSemaphoreRequest portA portB n s
  | .semaphoreRelease portB n => Sys2Proof.Machine.execSemaphoreRelease portB n s
  | .reset portB => Sys2Proof.Machine.execReset portB s
  | .fwupd portB verifies => Sys2Proof.Machine.execFwupd portB verifies s
  | .powerLimitWrite portB v => Sys2Proof.Machine.execPowerLimitWrite portB v s
  | .evtDataWrite v => Sys2Proof.Machine.execEvtDataWrite v s
  | .registerWrite reg v => Sys2Proof.Machine.execRegisterWrite reg v s
  | .portLinkDown portB => Sys2Proof.Machine.execPortLinkDown portB s
  | .lockInterfaceRequest vf => Sys2Proof.Machine.execLockInterfaceRequest vf s
  | .startInterfaceRequest vf nonce => Sys2Proof.Machine.execStartInterfaceRequest vf nonce s
  | .stopInterfaceRequest vf => Sys2Proof.Machine.execStopInterfaceRequest vf s
  | .getDeviceInterfaceReport vf nonce => Sys2Proof.Machine.execGetDeviceInterfaceReport vf nonce s
  | .tdispErrorEvent vf cause => Sys2Proof.Machine.execTdispErrorEvent vf cause s
  | .getVersion portB => Sys2Proof.Machine.execGetVersion portB s
  | .getCapabilities portB => Sys2Proof.Machine.execGetCapabilities portB s
  | .negotiateAlgorithms portB => Sys2Proof.Machine.execNegotiateAlgorithms portB s
  | .getDigests portB => Sys2Proof.Machine.execGetDigests portB s
  | .getCertificate portB => Sys2Proof.Machine.execGetCertificate portB s
  | .challenge portB => Sys2Proof.Machine.execChallenge portB s
  | .getMeasurements portB index => Sys2Proof.Machine.execGetMeasurements portB index s
  | .keyExchange portB => Sys2Proof.Machine.execKeyExchange portB s
  | .finish portB verifies => Sys2Proof.Machine.execFinish portB verifies s
  | .packageReset failStep => Sys2Proof.Machine.execPackageReset failStep s
  | .queueReset fn q => Sys2Proof.Machine.execQueueReset fn q s
  | .queueResetComplete fn q => Sys2Proof.Machine.execQueueResetComplete fn q s
  | .vfTeardown vf => Sys2Proof.Machine.execVfTeardown vf s
  | .teardownCircuitsComplete vf => Sys2Proof.Machine.execTeardownCircuitsComplete vf s
  | .powerWindow watts => Sys2Proof.Machine.execPowerWindow watts s
  | .scrub key found => Sys2Proof.Machine.execScrub key found s
  | .channelRetrain stack chan temp trains => Sys2Proof.Machine.execChannelRetrain stack chan temp trains s
  | .lockstepMismatch die => Sys2Proof.Machine.execLockstepMismatch die s
  | .pluginTimeout fn q => Sys2Proof.Machine.execPluginTimeout fn q s
  | .read64 h => Sys2Proof.Machine.execRead64 h s
  | .write64 h mask data => Sys2Proof.Machine.execWrite64 h mask data s
  | .data64 stack => Sys2Proof.Machine.execData64 stack s
  | .wack stack => Sys2Proof.Machine.execWack stack s
  | .seasonMapUpdate stack => Sys2Proof.Machine.execSeasonMapUpdate stack s
  | .poisonReport stack => Sys2Proof.Machine.execPoisonReport stack s
  | .capacityRequest stack => Sys2Proof.Machine.execCapacityRequest stack s
  | .capacityReport stack r => Sys2Proof.Machine.execCapacityReport stack r s
  | .alert stack pc oldest parityAgain => Sys2Proof.Machine.execAlert stack pc oldest parityAgain s
  | .flitCrcFail stack => Sys2Proof.Machine.execFlitCrcFail stack s
  | .integrityTagFailure stack => Sys2Proof.Machine.execIntegrityTagFailure stack s
  | .stackRingLinkDown stack => Sys2Proof.Machine.execStackRingLinkDown stack s
  | .packageRingLinkDown die ccw => Sys2Proof.Machine.execPackageRingLinkDown die ccw s
  | .zozanPortFailure station port => Sys2Proof.Machine.execZozanPortFailure station port s
  | .slotWrite station h data => Sys2Proof.Machine.execSlotWrite station h data s
  | .slotRead station h => Sys2Proof.Machine.execSlotRead station h s
  | .slotEnqr station h handle data => Sys2Proof.Machine.execSlotEnqr station h handle data s
  | .slotData station h data poison => Sys2Proof.Machine.execSlotData station h data poison s
  | .slotWack station h => Sys2Proof.Machine.execSlotWack station h s
  | .slotOutcome station h o => Sys2Proof.Machine.execSlotOutcome station h o s
  | .slotFault station h code => Sys2Proof.Machine.execSlotFault station h code s
  | .slotGone station h => Sys2Proof.Machine.execSlotGone station h s
  | .slotDrain station h => Sys2Proof.Machine.execSlotDrain station h s
  | .slotAllow station h => Sys2Proof.Machine.execSlotAllow station h s
  | .slotReinject station => Sys2Proof.Machine.execSlotReinject station s
  | .slotCrcReplay station port seq => Sys2Proof.Machine.execSlotCrcReplay station port seq s
  | .reservedEncoding word => Sys2Proof.Machine.execReservedEncoding word s
  | .fetchFault code addr => Sys2Proof.Machine.execFetchFault code addr s
  | .vfEnable portB => Sys2Proof.Machine.execVfEnable portB s
  | .portLinkUp portB tenant => Sys2Proof.Machine.execPortLinkUp portB tenant s
  | .hostQueueCreate fn q byPf rec => Sys2Proof.Machine.execHostQueueCreate fn q byPf rec s
  | .rackRingLinkDown station ccw => Sys2Proof.Machine.execRackRingLinkDown station ccw s
  | .stackLinkProtocolError stack => Sys2Proof.Machine.execStackLinkProtocolError stack s
  | .slotProtocolError station port => Sys2Proof.Machine.execSlotProtocolError station port s
  | .spareTileTakeover die tile spare => Sys2Proof.Machine.execSpareTileTakeover die tile spare s

end Sys2Proof.Machine
end

