-- ==== Sys2Proof/Machine/Moves.lean ====
section
/-! DEFINITION. What moves in a step: the fetch and dispatch of a word (01 R16; 03 R66, R67; 05 R127), the issue of a queue
entry (01 R26, R32; 05 R128; 20 R409, R412), what falls due by the cycle counter (01 R30; 03 R80; 10 R234), and the order in
which the model's own policy tries moves (log 3). -/
namespace Sys2Proof.Machine

/-! ### What falls due (01 R27, R30; 03 R80; 08 R201; 10 R234, R245; 20 R414) -/

/-- Loads whose data is whole enter their data queues, and results whose bound has run out land. -/
def State.landDueAt (s : State) (n : Nat) : State :=
  let x := s.slot n
  let s := if x.loads.any fun a => a.lanes.isEmpty then s.upSlot n fun x => x.placeLoads false x.loads.length else s
  if (s.slot n).landings.any fun l => decide (l.due ≤ s.dcc.toNat) then
    s.upSlot n fun x => x.landDue x.landings.length s.dcc.toNat
  else s

/-- Everything that falls due at this value of the cycle counter: fences that are met, a write of ARB_MODE that takes effect, teams that
have stopped, landings, MX commands that end, start or miss, quanta that were given up, commands of the PCs, and slots on the package
rings. -/
def State.settle (s : State) : State :=
  let s := (mkeys s.slots).foldl State.dropFences s
  let s := (mkeys s.slots).foldl State.arbTakes s
  let s := (mkeys s.teams).foldl State.teamStops s
  let s := (mkeys s.slots).foldl State.landDueAt s
  let s := (mkeys s.tiles).foldl State.completeDueAt s
  let s := (mkeys s.tiles).foldl State.stampDueAt s
  let s := (mkeys s.slots).foldl State.pairDueAt s
  let s := (mkeys s.tiles).foldl State.yieldsEnd s
  let s := (mkeys s.hbm).foldl State.stackClock s
  s.ringsMove

/-! ### Turns (01 R16, R26; log 83) -/

/-- Whether a move changes the state; the phase is the model's own. -/
def State.moves (s : State) (f : State → Res) : Bool :=
  match f s with
  | .next t => decide ({ t with phase := s.phase } ≠ s)
  | .fault _ => true
  | .refused _ => true

/-- The moving slot takes its turn at an arbiter that serves `slots` in turn, at most `limit` words a turn: its move is made where it is
served next, and nothing moves where it is not. -/
def State.inTurn (s : State) (arb limit : Nat) (slots : List Nat) (f : State → Res) : Res :=
  let k := tileOf s.cur
  let ready := fun (m : Nat) => { s with cur := m }.moves f
  if (s.tile k).turnOf arb limit slots s.cur ready then
    match f s with
    | .next t =>
      if { t with phase := s.phase } = s then .next t else .next (t.setTile k ((t.tile k).served arb limit s.cur))
    | .fault g => .fault g
    | .refused r => .refused r
  else .next s

/-! ### Fetch and dispatch -/

/-- Whether the dispatcher of a slot takes a word now: a job runs or a trap is handled, and nothing holds it (03 R83; 05 R136; 14
R322; 20 R406, R409, R412). -/
def Slot.dispatches (x : Slot) : Bool :=
  x.runs && x.hold == .free && !(x.job.preemptReq && x.atBoundary) &&
  (match x.job.part with
    | .prologue => true
    | .kernel => true
    | .epilogue => true
    | .ended => x.y.inTrap
    | .idle => false)

/-- What a fetch gives: an instruction, a word that does not decode, or a fault with its address (05 R127). -/
inductive Fetched where
  | instr (i : Instr)
  | reserved (word : W32)
  | fault (code : BitVec 16) (addr : Word)
deriving DecidableEq, Repr

/-- Fetch one word under the X right of the slot: the state after its request, and the word (05 R127; 15 R333, R335). -/
def State.fetchWord (s : State) (a : Word) : State × Except Flt W32 :=
  match s.readVa s.origin (s.issuer s.cur) a.toNat 4 rX with
  | (s, .ok bs) => (s.fillCore s.cur a.toNat, .ok (BitVec.ofNat 32 (leNat bs)))
  | (s, .error f) => (s, .error f)

/-- The instruction that fetched words hold. -/
def wholeInstr (w0 x1 x2 : W32) : Fetched :=
  match decodeWords w0 x1 x2 with
  | .ok i => .instr i
  | .error _ => .reserved w0

/-- What the dispatcher makes of the word at the program counter, and the state after its fetches. The words of a long form are
fetched one by one (03 R66, R72, R73; 05 R127). -/
def State.fetchInstr (s : State) : Fetched × State :=
  let pc := s.me.pc
  let bad := fun (f : Flt) (a : Word) => Fetched.fault (BitVec.ofNat 16 f.code) a
  match s.fetchWord pc with
  | (s, .error f) => (bad f pc, s)
  | (s, .ok w0) =>
    match wordsOf w0 with
    | .error _ => (.reserved w0, s)
    | .ok n =>
      if n < 2 then (wholeInstr w0 0#32 0#32, s)
      else
        match s.fetchWord (pc + 4#64) with
        | (s, .error f) => (bad f (pc + 4#64), s)
        | (s, .ok w1) =>
          if n < 3 then (wholeInstr w0 w1 0#32, s)
          else
            match s.fetchWord (pc + 8#64) with
            | (s, .error f) => (bad f (pc + 8#64), s)
            | (s, .ok w2) => (wholeInstr w0 w1 w2, s)

/-- Carry out what a fetch gave. -/
def runFetched : Fetched → State → Res
  | .instr i, s => exec i s
  | .reserved w, s => execReservedEncoding w s
  | .fault c a, s => execFetchFault c a s

/-- What a word answers, from the state s through the state u after its fetches: a word that waits is not taken, and its fetches count
when it is (01 R16; 03 R70). -/
def taken (s u : State) : Res → Res
  | .next t => if t = u then .next s else .next t
  | .fault f => .fault f
  | .refused r => .refused r

/-- The dispatcher takes the next word of the moving slot, out of turn. -/
def State.takeWord (s : State) : Res :=
  if s.me.dispatches then taken s s.fetchInstr.2 (runFetched s.fetchInstr.1 s.fetchInstr.2) else .next s

/-- The slots of the control core of slot n (01 R15). -/
def coreSlots (n : Nat) : List Nat := (below 4).map fun j => n / 4 * 4 + j

/-- The dispatcher of the moving slot's control core takes a word from that slot in its turn of at most two words (01 R16). -/
def State.dispatchWord (s : State) : Res := s.inTurn (coreTurn s.cur) 2 (coreSlots s.cur) State.takeWord

/-! ### Issue -/

/-- What an arbiter answers a slot that asks for its engine: it has it, it waits, or a draw is made in this cycle, whose winner may issue
in the next one (01 R32, R33, R35). -/
inductive Grant where
  | yes
  | no
  | drawn (s : State)

/-- Ask for an engine: LD, ST and SY serve slots in turn, MX starts at stamps in STAMPED mode, and the holder of a quantum has the
engine otherwise (01 R26, R30, R35). -/
def State.askEngine (s : State) (e : Engine) : Grant :=
  let tile := tileOf s.cur
  let t := s.tile tile
  if (engTurn e).isSome || (e == .mx && t.stamped) then .yes
  else if e == .mx && t.busy.isSome then .no
  else match t.holdOf e with
    | some q => if q.slot = s.cur then .yes else .no
    | none => .drawn (s.drawEngine tile e)

/-- SY performs an entry that it executes (13 R297, 14 R316). -/
def State.runSy (s : State) (en : Entry) : Res :=
  match en.cmd with
  | .sy i => exec i { s with phase := .issue en }
  | .eng _ => .next s
  | .movx _ _ => .next s

/-- An engine of the moving slot issues the head of its queue, out of turn. -/
def State.issueFirst (s : State) (e : Engine) : Res :=
  match s.me.mayIssue e, (s.me.eng e).active, (s.me.eng e).entries with
  | true, none, en :: _ =>
    match en.cmd with
    | .movx d v => .next (if s.me.xLanding (viewOf e) && (e == .ld || e == .st) then s else s.upMe fun x => x.applyMovx e en d v)
    | .sy _ => if e == .sy then (s.upMe fun x => x.activate .sy en).runSy en else .next s
    | .eng w =>
      match decodeEngine (BitVec.ofNat 3 (classOf e)) w with
      | .error _ => .next s
      | .ok i =>
        match s.askEngine e with
        | .yes => exec i { s with phase := .issue en }
        | .no => .next s
        | .drawn t => .next t
  | _, _, _ => .next s

/-- An engine of the moving slot takes the head of its queue: SY goes on with the entry that it executes, and LD, ST and SY serve slots
in turn (01 R26). -/
def State.issueHead (s : State) (e : Engine) : Res :=
  match e, s.me.e.sy.active with
  | .sy, some en => if s.me.mayIssue .sy then s.runSy en else .next s
  | _, _ =>
    match engTurn e with
    | some arb => s.inTurn arb 1 (slotsOf (tileOf s.cur)) fun u => u.issueFirst e
    | none => s.issueFirst e

/-! ### Moves -/

/-- A move of the machine. -/
def State.move (s : State) (m : Move) : Res :=
  match m with
  | .dispatch n => { s with cur := n }.dispatchWord
  | .issue n e => { s with cur := n }.issueHead e
  | .event n i => exec i { s with cur := n }
  | .upset u k => .next { s with upsets := mput s.upsets u k }

/-- The slot of a move; an error in memory is at none. -/
def Move.slot : Move → Nat
  | .dispatch n => n
  | .issue n _ => n
  | .event n _ => n
  | .upset _ _ => 0

/-! ### The model's own policy (log 3) -/

/-- The events of slot n that end what its dispatcher or an engine waits for. -/
def firstEvents : List Instr :=
  [.trapEntry, .preemptionCut, .iterOverrun, .taskReclaim, .regionResume, .arbModeTakeEffect,
    .coveredResultLanding 0 (BitVec.allOnes 64), .loadDataHead]

/-- The other events of slot n that its own state can enable, in the order in which they are tried. -/
def State.slotEvents (s : State) (n : Nat) : List Instr :=
  let x := s.slot n
  let all := BitVec.allOnes 64
  (below x.loads.length).map (fun i => .loadPerformed i all) ++
  (below x.storeQ.length).map (fun i => .storePerformed i all) ++
  [.storeReplay] ++
  (below x.journal.length).map (fun i => .copyUnit i) ++
  (below s.pieces.length).map (fun i => .nmCommand i) ++
  (below s.partials.length).map (fun i => .nmsumPartialCombine i) ++
  (below s.pieces.length).map (fun i => .nmStatus i) ++
  (below x.journal.length).map (fun i => .cpCompletion i) ++
  [.markRetire, .waitcSatisfied, .awaitlEnd, .yieldlReady, .phaseClose x.job.team, .rndvRetire, .enqrOutcome,
    .quantumEnd .mx, .quantumEnd .vx, .quantumEnd .cp, .arbiterDraw .mx, .arbiterDraw .vx, .arbiterDraw .cp] ++
  (below s.pend.length).map (fun i => .tableWriteInForce i) ++
  [.holdExpiry, .jobEnd]

/-- The events of the die schedulers that the state can enable. -/
def State.schedEvents (s : State) : List Instr :=
  ((s.tasks.filter fun (e : Nat × Task) => e.2.state == .finished).map fun (e : Nat × Task) =>
    .predecessorFinish (BitVec.ofNat 3 (e.1 / 2048)) (BitVec.ofNat 11 e.1)) ++
  (if s.taskQ.isEmpty && s.teams.isEmpty then []
    else (below 8).map (fun d => .taskEntry (BitVec.ofNat 3 d)) ++ (below 8).map (fun d => .teamPlacement (BitVec.ofNat 3 d)))

/-- What the oldest messages of the stack links do when they arrive. -/
def State.linkActs (s : State) : List (State → Res) :=
  s.hbm.flatMap fun (e : Nat × Stack) =>
    let k := BitVec.ofNat 4 e.1
    (match e.2.fromStack.head? with
      | some (.data _ _) => [execData64 k]
      | some (.wack _) => [execWack k]
      | some (.poison _) => [execPoisonReport k]
      | some (.capRep r) => [execCapacityReport k r]
      | some (.season _ _ _) => []
      | none => []) ++
    (match e.2.toStack.head? with
      | some (.season _ _ _) => [execSeasonMapUpdate k]
      | some (.data _ _) => []
      | some (.wack _) => []
      | some (.poison _) => []
      | some (.capRep _) => []
      | none => [])

/-- What the front end does for each host queue: the plug-in of the policy accepts every model. -/
def State.frontActs (s : State) : List (State → Res) :=
  s.hq.flatMap fun (e : Nat × HostQ) =>
    let fn := fnOfKey e.1
    let q := BitVec.ofNat 4 e.1
    [execInvoke fn q, execModelLoad fn q true, execModelUnload fn q, execCompletionEntryWrite fn q, execQueueResetComplete fn q]

/-- Events of the season machines: wakes, and units of the moving slot's tile and of regions in use that have been idle. -/
def State.seasonEvents (s : State) : List Instr :=
  let tile := tileOf s.cur
  let banks := (s.tile tile).season
  ((banks.filter fun (e : Nat × BitVec 2) => e.2 == 3#2).map fun (e : Nat × BitVec 2) => .wakeComplete (.bank tile e.1)) ++
  ((banks.filter fun (e : Nat × BitVec 2) => e.2 == 0#2).map fun (e : Nat × BitVec 2) => .seasonIdleExpiry (.bank tile e.1)) ++
  ((s.regionUse.filter fun (e : Nat × Nat) => s.regionSeason e.1 = 3).map fun (e : Nat × Nat) =>
    .wakeComplete (.region (e.1 / 2 ^ 15) (e.1 % 2 ^ 15))) ++
  (s.regionUse.map fun (e : Nat × Nat) => .seasonIdleExpiry (.region (e.1 / 2 ^ 15) (e.1 % 2 ^ 15)))

/-- Events of residency: starvation, swaps of teams and queues, shares. A team that was pre-empted is written out while another
one has precedence. -/
def State.swapEvents (s : State) : List Instr :=
  let wanted := s.dies.filterMap fun (e : Nat × Die) => e.2.precede
  (if s.teams.isEmpty then [] else (below 8).map fun d => .starvationExpiry (BitVec.ofNat 3 d)) ++
  ((s.teams.filter fun (e : Nat × Team) => e.2.state == .preempted && wanted.any fun t => t ≠ e.1).map fun (e : Nat × Team) =>
    .teamSwapOut e.1) ++
  ((s.teams.filter fun (e : Nat × Team) => e.2.state == .swapped).map fun (e : Nat × Team) => .teamSwapIn e.1) ++
  (if s.qSwaps.isEmpty then [] else (below 8).map fun d => .queueSwapIn (BitVec.ofNat 3 d))

/-- The moves that the policy tries for the moving slot: its events, its engines, its dispatcher. -/
def State.tries (s : State) : List Move :=
  firstEvents.map (.event s.cur) ++ [.issue s.cur .ld] ++ (s.slotEvents s.cur).map (.event s.cur) ++ allEngines.map (.issue s.cur) ++
    [.dispatch s.cur]

/-- What the policy tries, in order: the slot first in one step, the other parts first in the next. -/
def State.acts (s : State) : List (State → Res) :=
  let mine := s.tries.map fun m (s : State) => s.move m
  let rest := (s.schedEvents ++ s.seasonEvents ++ s.swapEvents).map (fun i (s : State) => exec i s) ++ s.linkActs ++ s.frontActs
  if s.freeCtr % 2 = 0 then mine ++ rest else rest ++ mine

/-- The first of these that changes the state; none where nothing does. -/
def State.firstAct (s : State) : List (State → Res) → Option State
  | [] => none
  | m :: r =>
    match m s with
    | .next t => if { t with phase := s.phase } = s then s.firstAct r else some t
    | .fault _ => s.firstAct r
    | .refused _ => s.firstAct r

/-- The next slot with a job, in ascending order beginning after n (01 R16); n where no slot has one. -/
def State.nextSlot (s : State) (n : Nat) : Nat :=
  let busy := (s.slots.filter fun (e : Nat × Slot) => decide (e.1 < 3072) && e.2.job.part != .idle).map Prod.fst
  match minOf (busy.filter fun k => decide (n < k)) with
  | some k => k
  | none => (minOf busy).getD n

/-- The step that the policy chooses: a move of slot `cur`, or a cycle in which nothing moves; the next slot with a job is served
next. -/
def State.auto (s : State) : State :=
  let s := (s.setMe s.me).setTile (tileOf s.cur) (s.tile (tileOf s.cur))
  let t := (s.firstAct s.acts).getD s
  { t with cur := t.nextSlot t.cur }

/-- The end of a step: quanta end with the cycle (01 R35), the cycle counter of R386 rises, saturating, and the next free value is
another one (log 2, log 5). -/
def State.tick (s : State) : State :=
  let s := (mkeys s.tiles).foldl State.quantaEnd s
  { s with phase := .dispatch, dcc := if s.dcc = BitVec.allOnes 64 then s.dcc else s.dcc + 1#64, freeCtr := s.freeCtr + 1 }

/-- Apply `tick` to what a move answers. -/
def ticked : Res → Res
  | .next s => .next s.tick
  | .fault f => .fault f
  | .refused r => .refused r

/-! ### Placing an instruction for the next step (log 28) -/

/-- The address at which `placeWord` puts an instruction: offset 0 of buffer 1. -/
def codeBase : Nat := 2 ^ 40

/-- Buffer entry 1: valid, X right, one stripe of 2 MiB, page map in region 1 of stack 0, VF segment 0, stack 0, granules of 256 bytes,
owner 0 (15 R331). -/
def codeBuffer : Nat := 2 ^ 255 + 2 ^ 252 + 2 ^ 200 + 2 ^ 160 + 2 ^ 21

/-- The report of a stack of 12 layers (12 R293). -/
def codeReport : CapReport :=
  { height := 12#8, lgroups := 3#4, channels := 32#6, pcs := 2#2, banks := 16#5, rows := 16384#15, rowBytes := 1024#12, regions := 24576#16,
    rate := 128#8, spares := 16#8, nmSlots := 0x007F#16, keys := 1024#12, temp := 40#8, stepping := 0#8 }

/-- Buffer 1 with one present stripe in segment 0, in region 0 of stack 0, which is in service and in summer, and a key: there the next
instruction is fetched, in the turn of the moving slot. -/
def State.placeWord (s : State) (bytes : List Byte) : State :=
  let st := s.stack 0
  let s := s.setStack 0 { st with report := some codeReport, out := false, failedPcs := 0 }
  let s := s.setEntry 0x0D 0 16
  let s := s.setEntry 0x00 1 (codeBuffer + s.me.y.tenant.toNat * 2 ^ 232)
  let s := s.setEntry 0x01 (2 ^ 18) (2 ^ 63)
  let s := s.setEntry 0x03 0 (2 ^ 63 + 2 ^ 32)
  let s := s.setEntry 0x08 0 keyCount
  let vf : Vf := mget {} s.vfs 0
  let s := { s with vfs := mput s.vfs 0 { vf with enabled := true } }
  let s := (below bytes.length).foldl (fun s j => s.putByte (hbmKey 0 j) (bytes.getD j 0#8)) s
  let s := s.upMe fun x => { x with
    pc := BitVec.ofNat 64 codeBase
    hold := .free
    drain := none
    job := { x.job with part := .kernel, trip := 1, kernelPc := BitVec.ofNat 64 codeBase, stopped := false, preempted := false } }
  let t := s.tile (tileOf s.cur)
  let s := s.setTile (tileOf s.cur) { t with turns := mput t.turns (coreTurn s.cur) (s.cur, 0) }
  { s with agenda := .dispatch s.cur :: s.agenda }

end Sys2Proof.Machine
end

