-- ==== Sys2Proof/Machine/Step.lean ====
section
/-! DEFINITION. One step of the machine: one move, chosen by the head of the agenda or, where it is empty, by the model's policy
(log 3), after everything that falls due at this value of the cycle counter. -/
namespace Sys2Proof.Machine

/-- One step. -/
def step (s : State) : Host.Outcome State Fault Refusal :=
  match s.agenda with
  | m :: r => if m.slot < 3072 then ticked ({ s with agenda := r }.settle.move m) else .fault .noSlot
  | [] => if s.cur < 3072 then .next s.settle.auto.tick else .fault .noSlot

/-- The state with an instruction where the next step fetches it (log 28). -/
def State.withFetchWord (s : State) (nbits w : Nat) : State := s.placeWord (leBytes 12 (w % 2 ^ nbits))

end Sys2Proof.Machine
end

