-- ==== Sys2Proof/Safety.lean ====
section
/-! DEFINITION. What a safe run is, in the terms that claims use: a run that no fault of the model ends, over states whose memory
list is in canonical form. -/
namespace Sys2Proof.Machine

/-- The moving slot, and the slot of every move of the agenda, is a slot of the package (01 R15). -/
def State.placed (s : State) : Prop := s.cur < 3072 ∧ ∀ m ∈ s.agenda, m.slot < 3072

/-- The memory list is canonical (Machine/Mem.lean, `Memory.wf`). -/
def State.Inv (s : State) : Prop := Memory.wf s.mem = true

/-- A step answers a next state. -/
def State.StepsOn (s : State) : Prop := ∃ t, step s = .next t

/-- Every byte of memory, with its poison, reads in `t` as in `s` at the keys that `p` selects (07 R182, 12 R277). -/
def SameBytes (p : Nat → Prop) (s t : State) : Prop := ∀ k, p k → t.byte k = s.byte k ∧ t.poisoned k = s.poisoned k

end Sys2Proof.Machine
end

