-- ==== Sys2Proof/WellFormed.lean ====
section
/-! DEFINITION. Well-formed instructions: the operand values that an encoding admits (03 R69 to R79, R87, R88, R90 check 4, and
the rules of 06, 09, 10 and 11 that name the reserved values). A step that has no word is well-formed. -/
namespace Sys2Proof

/-- A command that waits for a second tag waits for a first (03 R79). -/
def Ctl.wf (k : Ctl) : Bool := k.tc1.isNone || k.tc0.isSome

/-- Rounding for floating-point types, SAT for integer types (06 R140; 02 R49: VX arithmetic has no SR). -/
def arithWf (t : VTy) (rm : Rm) (sat : Bool) : Bool := if t.isFp then rm != .sr && !sat else rm == .rne

/-- The formats that VCVT admits (06 R149). -/
def Fmt.narrow : Fmt → Bool
  | .i64 | .n64 | .c4 => false
  | .i8 | .i16 | .i32 | .n8 | .n16 | .n32 | .fp32 | .fp16 | .bf16 | .e4m3 | .e5m2 => true

/-- Size, sign extension and destination of a load (09 R213, R218). -/
def loadWf (sz : ESize) (sx q : Bool) (d : BitVec 5) : Bool := !(sx && sz == .w) && (!q || d == 0#5)

/-- Address form AM = 2, which the addresses of a scratchpad do not admit (09 R214). -/
def AddrForm.isReg : AddrForm → Bool
  | .reg _ => true
  | .off _ | .postInc _ => false

/-- Whether an encoding admits the operands. -/
def Instr.wf : Instr → Bool
  | .add _ _ _ => true
  | .sub _ _ _ => true
  | .mul _ _ _ => true
  | .mulh _ _ _ => true
  | .mulhn _ _ _ => true
  | .div _ _ _ => true
  | .divn _ _ _ => true
  | .rem _ _ _ => true
  | .remn _ _ _ => true
  | .and _ _ _ => true
  | .or _ _ _ => true
  | .xor _ _ _ => true
  | .shl _ _ _ => true
  | .shr _ _ _ => true
  | .sha _ _ _ => true
  | .min _ _ _ => true
  | .max _ _ _ => true
  | .minn _ _ _ => true
  | .maxn _ _ _ => true
  | .clz _ _ => true
  | .ctz _ _ => true
  | .popc _ _ => true
  | .bswap _ _ => true
  | .sel _ _ _ _ => true
  | .cmp _ _ _ _ => true
  | .pand _ _ _ => true
  | .por _ _ _ => true
  | .pxor _ _ _ => true
  | .pnot _ _ => true
  | .bufa _ _ _ => true
  | .bufx _ _ => true
  | .bufo _ _ => true
  | .addi _ _ _ => true
  | .andi _ _ _ => true
  | .ori _ _ _ => true
  | .xori _ _ _ => true
  | .shli _ _ _ => true
  | .shri _ _ _ => true
  | .shai _ _ _ => true
  | .cmpi _ _ _ _ => true
  | .lui _ _ => true
  | .jal _ _ => true
  | .j _ => true
  | .br _ _ => true
  | .jalr _ _ _ => true
  | .movx _ _ _ => true
  | .movxs _ _ => true
  | .ldc _ _ _ _ => true
  | .ldcLong _ _ _ _ => true
  | .stc sz _ _ _ => sz.forStore
  | .stcLong sz _ _ _ => sz.forStore
  | .amo _ _ _ _ _ _ => true
  | .fence _ _ => true
  | .region _ => true
  | .regionResume => true
  | .sysr _ _ _ => true
  | .sysw _ _ _ => true
  | .arbModeTakeEffect => true
  | .trap _ => true
  | .eret => true
  | .yieldQ => true
  | .endj => true
  | .nop => true
  | .liw _ _ => true
  | .tdef cls _ _ => decide (1 ≤ cls.toNat ∧ cls.toNat ≤ 5)
  | .tbw _ _ _ code => decide (code.toNat < 0x18)
  | .tbr _ _ _ code => decide (code.toNat < 0x18)
  | .tlbi scope a => scope != .all || a == 0#5
  | .shardw _ _ _ _ => true
  | .shardr _ _ _ => true
  | .curw _ _ _ => true
  | .ctxw _ _ _ _ => true
  | .fmmuw _ _ _ _ => true
  | .keyw _ _ _ => true
  | .protw _ _ _ => true
  | .tableWriteInForce _ => true
  | .enq _ _ _ _ => true
  | .deq _ _ b ind _ => ind || b == 0#5
  | .peek _ _ b ind _ => ind || b == 0#5
  | .enqr _ _ _ _ => true
  | .enqrOutcome => true
  | .qstat _ _ => true
  | .tokp _ _ _ => true
  | .rndv => true
  | .rndvRetire => true
  | .sync _ => true
  | .syncW => true
  | .arrive _ => true
  | .phaseClose _ => true
  | .waitc _ _ _ => true
  | .waitcSatisfied => true
  | .spawn _ _ => true
  | .refF _ _ => true
  | .dropF _ _ => true
  | .await _ _ => true
  | .awaitl _ _ => true
  | .awaitlEnd => true
  | .rpoint => true
  | .yieldl _ _ _ => true
  | .yieldlReady => true
  | .tktset _ _ _ => true
  | .tktget _ _ _ => true
  | .draw _ _ => true
  | .ctrset _ _ => true
  | .ctrget _ _ => true
  | .ctradd _ _ => true
  | .patchWordDispatch cls _ _ _ _ _ _ => decide (1 ≤ cls.toNat ∧ cls.toNat ≤ 5)
  | .coveredResultLanding _ _ => true
  | .vadd k t rm sat _ _ _ _ => k.wf && arithWf t rm sat
  | .vsub k t rm sat _ _ _ _ => k.wf && arithWf t rm sat
  | .vmul k t rm sat _ _ _ _ => k.wf && arithWf t rm sat
  | .vfma k t rm _ _ _ _ _ => k.wf && t.isFp && rm != .sr
  | .vfms k t rm _ _ _ _ _ => k.wf && t.isFp && rm != .sr
  | .vfnma k t rm _ _ _ _ _ => k.wf && t.isFp && rm != .sr
  | .vdiv k t rm _ _ _ _ => k.wf && t.isFp && rm != .sr
  | .vsqrt k t rm _ _ _ => k.wf && t.isFp && rm != .sr
  | .vexp2 k rm _ _ _ => k.wf && rm != .sr
  | .vlog2 k rm _ _ _ => k.wf && rm != .sr
  | .vmin k _ _ _ _ _ => k.wf
  | .vmax k _ _ _ _ _ => k.wf
  | .vabs k t sat _ _ _ => k.wf && t != .n32 && (!t.isFp || !sat)
  | .vneg k t sat _ _ _ => k.wf && t != .n32 && (!t.isFp || !sat)
  | .vand k _ _ _ _ => k.wf
  | .vor k _ _ _ _ => k.wf
  | .vxor k _ _ _ _ => k.wf
  | .vshl k _ _ _ _ => k.wf
  | .vshr k _ _ _ _ => k.wf
  | .vsha k _ _ _ _ => k.wf
  | .vmulh k t _ _ _ _ => k.wf && !t.isFp
  | .vcmp k t cc _ _ _ _ => k.wf && (cc != .un || t.isFp)
  | .vsel k _ _ _ _ _ => k.wf
  | .kand k _ _ _ => k.wf
  | .kor k _ _ _ => k.wf
  | .kxor k _ _ _ => k.wf
  | .knot k _ _ => k.wf
  | .kpopc k _ _ _ => k.wf
  | .kfirst k _ _ => k.wf
  | .vcvt k src dst rm _ _ _ b => k.wf && src.narrow && dst.narrow && (if rm = .sr then decide (8 ≤ dst.code) else b == 0#5)
  | .vpack k _ _ _ _ _ => k.wf
  | .vunpack k w part _ _ _ _ => k.wf && decide (part.toNat < w.parts)
  | .vlut k _ _ _ _ _ _ => k.wf
  | .vscale k fmt _ _ _ _ => k.wf && decide (8 ≤ fmt.code ∧ fmt.code ≤ 12)
  | .vredsum k _ _ _ _ => k.wf
  | .vredmax k _ _ _ _ => k.wf
  | .vredmin k _ _ _ _ => k.wf
  | .vscan k _ _ _ _ => k.wf
  | .vsort k _ _ d _ _ _ c => k.wf && d != c
  | .vperm k _ _ _ _ => k.wf
  | .vbcast k _ _ _ _ => k.wf
  | .vget k _ _ _ _ => k.wf
  | .vput k _ _ _ _ => k.wf
  | .viota k _ _ _ => k.wf
  | .vrand k _ _ => k.wf
  | .vmov k _ _ _ => k.wf
  | .vmovi k _ _ _ => k.wf
  | .vspill k _ _ => k.wf
  | .vfill k _ _ => k.wf
  | .mma k _ _ q a _ _ _ => k.wf && (!q || a == 0#5)
  | .mmaz k _ _ q a _ _ _ => k.wf && (!q || a == 0#5)
  | .mmap k _ _ q a _ _ _ => k.wf && (!q || a == 0#5)
  | .mret k _ => k.wf
  | .mdrain k res drop _ _ _ r _ rate => k.wf && (res || r == 0#5) && (drop || rate == 0#8)
  | .mzero k _ _ => k.wf
  | .mldcb k _ _ _ _ => k.wf
  | .mstat k _ _ _ _ _ => k.wf
  | .mpark k _ f l _ => k.wf && decide (f ≤ l)
  | .munpark k _ f l _ => k.wf && decide (f ≤ l)
  | .stampReached => true
  | .arbiterDraw _ => true
  | .quantumEnd _ => true
  | .ld k sz sx q d _ _ am => k.wf && loadWf sz sx q d && !am.isReg
  | .ldb k sz sx q d _ _ _ => k.wf && loadWf sz sx q d
  | .ldg k sz sx q d _ _ _ _ am => k.wf && loadWf sz sx q d && !am.isReg
  | .ldf k sz sx q d _ _ _ => k.wf && loadWf sz sx q d
  | .lds k sz sx q d _ _ b rank => k.wf && loadWf sz sx q d && decide (b.toNat + rank.toNat ≤ 31)
  | .mark _ _ => true
  | .markRetire => true
  | .st k _ _ _ _ am => k.wf && !am.isReg
  | .stb k _ _ _ _ _ => k.wf
  | .stg k _ _ _ _ _ _ am => k.wf && !am.isReg
  | .stf k _ _ _ _ _ => k.wf
  | .stn4 k _ _ _ _ am => k.wf && !am.isReg
  | .vamo k op t _ _ _ _ c _ am => k.wf && vamoAdmits op t && (op == .cas || c == 0#3) && !am.isReg
  | .loadDataHead => true
  | .storePerformed _ _ => true
  | .loadPerformed _ _ => true
  | .storeReplay => true
  | .cpy k dv cv sv _ _ _ _ _ => k.wf && (!cv || (!dv && !sv))
  | .cpy2 k dv cv sv _ _ _ _ _ _ => k.wf && (!cv || (!dv && !sv))
  | .cpys k _ _ _ _ _ _ _ => k.wf
  | .cpyf k _ _ _ _ _ _ _ _ => k.wf
  | .fill k _ _ _ _ _ _ => k.wf
  | .fillDiscard k _ _ _ => k.wf
  | .copyUnit _ => true
  | .cpCompletion _ => true
  | .nmaxpy k _ _ _ _ _ _ => k.wf
  | .nmscale k _ _ _ _ _ => k.wf
  | .nmfade k _ _ _ _ _ _ => k.wf
  | .nmsum k _ _ _ _ _ => k.wf
  | .nmfill k _ _ _ _ _ => k.wf
  | .nmchk k _ _ _ _ => k.wf
  | .nmfence k _ _ => k.wf
  | .nmCommand _ => true
  | .nmsumPartialCombine _ => true
  | .nmStatus _ => true
  | .taskEntry _ => true
  | .predecessorFinish _ _ => true
  | .teamPlacement _ => true
  | .starvationExpiry _ => true
  | .preemptRequest _ => true
  | .preemptionCut => true
  | .iterOverrun => true
  | .teamSwapOut _ => true
  | .teamSwapIn _ => true
  | .jobEnd => true
  | .taskReclaim => true
  | .trapEntry => true
  | .contextSwitch _ => true
  | .queueSwapOut _ _ => true
  | .queueSwapIn _ => true
  | .seasonIdleExpiry _ => true
  | .wakeComplete _ => true
  | .holdExpiry => true
  | .hostKick _ _ _ => true
  | .cqheadWrite _ _ _ => true
  | .stoppedClear _ _ => true
  | .invoke _ _ => true
  | .modelLoad _ _ _ => true
  | .modelUnload _ _ => true
  | .completionEntryWrite _ _ => true
  | .hostWinMemAccess _ _ _ _ _ => true
  | .semaphoreRequest _ _ _ => true
  | .semaphoreRelease _ _ => true
  | .reset _ => true
  | .fwupd _ _ => true
  | .powerLimitWrite _ _ => true
  | .evtDataWrite _ => true
  | .registerWrite _ _ => true
  | .portLinkDown _ => true
  | .lockInterfaceRequest _ => true
  | .startInterfaceRequest _ _ => true
  | .stopInterfaceRequest _ => true
  | .getDeviceInterfaceReport _ _ => true
  | .tdispErrorEvent _ _ => true
  | .getVersion _ => true
  | .getCapabilities _ => true
  | .negotiateAlgorithms _ => true
  | .getDigests _ => true
  | .getCertificate _ => true
  | .challenge _ => true
  | .getMeasurements _ _ => true
  | .keyExchange _ => true
  | .finish _ _ => true
  | .packageReset _ => true
  | .queueReset _ _ => true
  | .queueResetComplete _ _ => true
  | .vfTeardown _ => true
  | .teardownCircuitsComplete _ => true
  | .powerWindow _ => true
  | .scrub _ _ => true
  | .channelRetrain _ _ _ _ => true
  | .lockstepMismatch _ => true
  | .pluginTimeout _ _ => true
  | .read64 _ => true
  | .write64 _ _ _ => true
  | .data64 _ => true
  | .wack _ => true
  | .seasonMapUpdate _ => true
  | .poisonReport _ => true
  | .capacityRequest _ => true
  | .capacityReport _ _ => true
  | .alert _ _ _ _ => true
  | .flitCrcFail _ => true
  | .integrityTagFailure _ => true
  | .stackRingLinkDown _ => true
  | .packageRingLinkDown _ _ => true
  | .zozanPortFailure _ _ => true
  | .slotWrite _ _ _ => true
  | .slotRead _ _ => true
  | .slotEnqr _ _ _ _ => true
  | .slotData _ _ _ _ => true
  | .slotWack _ _ => true
  | .slotOutcome _ _ _ => true
  | .slotFault _ _ _ => true
  | .slotGone _ _ => true
  | .slotDrain _ _ => true
  | .slotAllow _ _ => true
  | .slotReinject _ => true
  | .slotCrcReplay _ _ _ => true
  | .reservedEncoding _ => true
  | .fetchFault _ _ => true
  | .vfEnable _ => true
  | .portLinkUp _ _ => true
  | .hostQueueCreate _ _ _ _ => true
  | .rackRingLinkDown _ _ => true
  | .stackLinkProtocolError _ => true
  | .slotProtocolError _ _ => true
  | .spareTileTakeover _ _ _ => true

end Sys2Proof
end

