-- ==== Sys2Proof/Certificates/Slice0/Obligations.lean ====
section
/-! DEFINITION. The statements for the provers. First what they say of a state in words of their own: which part of it may differ,
and the value that the spec's tables give for each instruction of a group. -/
namespace Sys2Proof.Machine

/-! ### What may differ -/

/-- Only the moving slot differs: every other slot, every byte, table and register outside it is unchanged. -/
def OnlySlot (s t : State) : Prop := t = { s with slots := t.slots } ∧ ∀ n, n ≠ s.cur → t.slot n = s.slot n

/-- The control-core frame: of the moving slot only S registers and the program counter differ. -/
def OnlyS (s t : State) : Prop :=
  OnlySlot s t ∧ t.me = { s.me with pc := t.me.pc, r := { s.me.r with s := t.me.r.s } }

/-- The control-core frame: of the moving slot only P registers and the program counter differ. -/
def OnlyP (s t : State) : Prop :=
  OnlySlot s t ∧ t.me = { s.me with pc := t.me.pc, r := { s.me.r with p := t.me.r.p } }

/-- S[d] reads v, but S0 reads as it did; every other S register is unchanged (04 R100). -/
def WritesS (s t : State) (d : BitVec 5) (v : Word) : Prop :=
  ∀ r, t.me.getS r = if r = d ∧ d ≠ 0#5 then v else s.me.getS r

/-- P[d] reads b, but P0 reads as it did; every other P register is unchanged (04 R100). -/
def WritesP (s t : State) (d : BitVec 3) (b : Bool) : Prop :=
  ∀ r, t.me.getP r = if r = d ∧ d ≠ 0#3 then b else s.me.getP r

/-! ### Values of the control core (05) -/

/-- What a word that computes an S register gives: its destination, the value by 05 R113 and R115 to R118, R121, R122, the S and
P registers that it names, and its length in bytes. -/
def sResult (x : Slot) : Instr → Option (BitVec 5 × Word × List (BitVec 5) × List (BitVec 3) × Nat)
  | .add d a b => some (d, x.getS a + x.getS b, [d, a, b], [], 4)
  | .sub d a b => some (d, x.getS a - x.getS b, [d, a, b], [], 4)
  | .mul d a b => some (d, BitVec.ofInt 64 ((x.getS a).toInt * (x.getS b).toInt), [d, a, b], [], 4)
  | .mulh d a b => some (d, BitVec.ofInt 64 ((x.getS a).toInt * (x.getS b).toInt / 2 ^ 64), [d, a, b], [], 4)
  | .mulhn d a b => some (d, BitVec.ofNat 64 ((x.getS a).toNat * (x.getS b).toNat / 2 ^ 64), [d, a, b], [], 4)
  | .and d a b => some (d, x.getS a &&& x.getS b, [d, a, b], [], 4)
  | .or d a b => some (d, x.getS a ||| x.getS b, [d, a, b], [], 4)
  | .xor d a b => some (d, x.getS a ^^^ x.getS b, [d, a, b], [], 4)
  | .min d a b => some (d, if (x.getS a).toInt ≤ (x.getS b).toInt then x.getS a else x.getS b, [d, a, b], [], 4)
  | .max d a b => some (d, if (x.getS a).toInt ≤ (x.getS b).toInt then x.getS b else x.getS a, [d, a, b], [], 4)
  | .minn d a b => some (d, if (x.getS a).toNat ≤ (x.getS b).toNat then x.getS a else x.getS b, [d, a, b], [], 4)
  | .maxn d a b => some (d, if (x.getS a).toNat ≤ (x.getS b).toNat then x.getS b else x.getS a, [d, a, b], [], 4)
  | .sel n d a b => some (d, if x.getP n then x.getS a else x.getS b, [d, a, b], [n], 4)
  | .bufa d a b =>
    some (d, if (x.getS a).toNat < 2 ^ 20 ∧ (x.getS b).toNat < 2 ^ 40
      then BitVec.ofNat 64 ((x.getS a).toNat * 2 ^ 40 + (x.getS b).toNat) else 0xF000000000000000#64, [d, a, b], [], 4)
  | .bufx d a => some (d, ((x.getS a).extractLsb' 40 20).setWidth 64, [d, a], [], 4)
  | .bufo d a => some (d, ((x.getS a).extractLsb' 0 40).setWidth 64, [d, a], [], 4)
  | .addi d a imm => some (d, x.getS a + imm.signExtend 64, [d, a], [], 4)
  | .andi d a imm => some (d, x.getS a &&& imm.signExtend 64, [d, a], [], 4)
  | .ori d a imm => some (d, x.getS a ||| imm.signExtend 64, [d, a], [], 4)
  | .xori d a imm => some (d, x.getS a ^^^ imm.signExtend 64, [d, a], [], 4)
  | .shli d a n => some (d, x.getS a <<< n.toNat, [d, a], [], 4)
  | .shri d a n => some (d, x.getS a >>> n.toNat, [d, a], [], 4)
  | .shai d a n => some (d, (x.getS a).sshiftRight n.toNat, [d, a], [], 4)
  | .lui d imm => some (d, imm.signExtend 64 * 4096#64, [d], [], 4)
  | .liw d imm => some (d, imm, [d], [], 12)
  | _ => none

/-- What a word that computes a P register gives (05 R119, R120), with the S and P registers that it names. -/
def pResult (x : Slot) : Instr → Option (BitVec 3 × Bool × List (BitVec 5) × List (BitVec 3))
  | .cmp cc d a b => some (d, relation cc (x.getS a) (x.getS b), [a, b], [d])
  | .cmpi cc d a imm => some (d, relation cc (x.getS a) (imm.signExtend 64), [a], [d])
  | .pand d a b => some (d, x.getP a && x.getP b, [], [d, a, b])
  | .por d a b => some (d, x.getP a || x.getP b, [], [d, a, b])
  | .pxor d a b => some (d, x.getP a ^^ x.getP b, [], [d, a, b])
  | .pnot d a => some (d, !x.getP a, [], [d, a])
  | _ => none
where
  /-- The relations of 05 R119, signed by their two's complement readings and unsigned ones by their magnitudes. -/
  relation (cc : Cc) (a b : Word) : Bool :=
    match cc with
    | .eq => decide (a = b)
    | .ne => !decide (a = b)
    | .lt => decide (a.toInt < b.toInt)
    | .ltn => decide (a.toNat < b.toNat)
    | .le => decide (a.toInt ≤ b.toInt)
    | .len => decide (a.toNat ≤ b.toNat)
    | .gt => decide (b.toInt < a.toInt)
    | .gtn => decide (b.toNat < a.toNat)
    | .ge => decide (b.toInt ≤ a.toInt)
    | .gen => decide (b.toNat ≤ a.toNat)

/-- The number of bits of a set, the position of the first and of the last: what 05 R113 counts. -/
def bitsSet (a : Word) : Nat := ((List.range 64).filter fun i => a.getLsbD i).length
def lowestBit (a : Word) : Nat := ((List.range 64).find? fun i => a.getLsbD i).getD 64
def leadingZeros (a : Word) : Nat := ((List.range 64).find? fun i => a.getLsbD (63 - i)).getD 64

/-- The target of a word offset: the word's own address plus four times the offset (03 R68). -/
def jumpTo (x : Slot) (off : BitVec 19) : Word := x.pc + 4#64 * off.signExtend 64

/-- What SYSR of a system register gives: its read level and its value (04 R105 to R108); none for a name or index that is not
defined. -/
def sysView (s : State) (name : BitVec 12) (idx : BitVec 5) : Option (Nat × Word) :=
  let y := s.me.y
  let t := s.tile (s.cur / 8)
  let one := fun (lvl : Nat) (v : Word) => if idx = 0#5 then some (lvl, v) else none
  match name.toNat with
  | 0x000 => one 0 (BitVec.ofNat 64 ((if y.inTrap then 16 else 0) + 4 * y.prevLevel.toNat + y.level.toNat))
  | 0x001 => one 0 (if y.scoreboard then 1#64 else 0#64)
  | 0x008 => one 0 (if t.stamped then 1#64 else 0#64)
  | 0x009 => one 0 (BitVec.ofNat 64 t.windowLen)
  | 0x00A => one 1 t.seed
  | 0x00B => one 1 (s.die (s.cur / 384)).seed
  | 0x00C => one 0 y.stampBase
  | 0x00D => one 0 y.seed
  | 0x010 => one 0 y.bwphase
  | 0x011 => one 0 (BitVec.ofNat 64 y.slip)
  | 0x012 => some (0, s.me.spillMap idx.toNat)
  | 0x018 => one 0 (y.iterBudget.setWidth 64)
  | 0x019 => one 0 (y.redMax.setWidth 64)
  | 0x020 => one 0 y.domain
  | 0x021 => one 0 (y.tenant.setWidth 64)
  | 0x022 => one 0 (y.ctx.setWidth 64)
  | 0x028 => one 0 ((s.me.r.g ||| 0x80#8).setWidth 64)
  | 0x030 => one 0 (y.cause.setWidth 64)
  | 0x031 => one 0 y.trapPc
  | 0x032 => one 0 y.trapInfo
  | 0x033 => one 1 y.cutBase
  | 0x034 => one 1 y.csaBase
  | 0x040 => if idx.toNat < 8 then some (0, mget 0#64 y.reloc idx.toNat) else none
  | _ => none

/-- What SYSW of a register of the slot leaves in it (04 R106, R108, R109), with the level that it needs; none for a register
that is not one of these. -/
def sysStored (name : BitVec 12) (old v : Word) : Option (Nat × Word) :=
  match name.toNat with
  | 0x00C => some (0, v)
  | 0x00D => some (0, v)
  | 0x011 => some (0, if v.toNat ≤ 64 then v else 64#64)
  | 0x018 => some (1, (v.setWidth 32).setWidth 64)
  | 0x019 => some (1, if v = 0#64 then old else if v.toNat ≤ 2 ^ 24 then v else BitVec.ofNat 64 (2 ^ 24))
  | 0x028 => some (0, (v.setWidth 8 ||| 0x80#8).setWidth 64)
  | 0x030 => some (1, v &&& 0x7FFFF#64)
  | 0x031 => some (1, v)
  | 0x032 => some (1, v)
  | 0x033 => some (1, v)
  | 0x034 => some (1, v)
  | 0x040 => some (1, v)
  | _ => none

/-- The S, P, X, V and K registers and the tags of the moving slot are unchanged. -/
def SameFiles (s t : State) : Prop :=
  t.me.r.s = s.me.r.s ∧ t.me.r.p = s.me.r.p ∧ t.me.r.x = s.me.r.x ∧ t.me.r.v = s.me.r.v ∧ t.me.r.k = s.me.r.k ∧
    t.me.r.tags = s.me.r.tags

/-- The engines that MOVX writes through. -/
def movxEngines : List Engine := [.ld, .st, .cp, .mx]

/-- The level of the moving slot's mode (18 R378). -/
def modeLevel (s : State) : Nat := s.me.y.level.toNat

/-! ### Accesses of the control core (07 R165, R179; 08 R201; 09 R226) -/

/-- The memory keys of n bytes at a register value. -/
def bytesAt (s : State) (t n : Nat) : List (Nat × Nat) := s.keysAt (ccIsVa t) t n

/-- The access of n bytes at t may be made now: R165 or R179 admits it and no bank conflicts, and no earlier fence holds it. -/
def Admitted (s : State) (t n right : Nat) (k : AccKind) : Prop :=
  (∃ q, s.checkAt (s.issuer s.cur) (ccIsVa t) t n right = .ok q) ∧ s.scHolds s.cur (s.me.ord + 1) = false ∧
    s.fenced s.cur (s.me.ord + 1) k ((bytesAt s t n).map fun q => homeOf q.1) = false

/-- The state in which an access of the moving slot meets its bytes: what lies out of summer is awake, season map updates sent before
have reached their stacks, and requests queued for the same units are performed (07 R183, R185; 12 R270, R283). -/
def arrived (s : State) (ks : List (Nat × Nat)) : State := s.touchAll s.me.y.ctx.toNat ks

/-- Nothing of that is due for these bytes: none lies in winter, and nothing is on its way to their stacks or queued for their PCs. -/
def AtRest (s : State) (ks : List (Nat × Nat)) : Prop :=
  ∀ q ∈ ks, s.seasonOf q.1 ≠ 2 ∧
    (isHbm q.1 = true → (s.stack (stackOf q.1)).toStack = [] ∧ (s.stack (stackOf q.1)).queue (pcOf q.1) = [])

/-- No byte of the access meets an uncorrectable error. -/
def Clean (s : State) (t n : Nat) : Prop := ((arrived s (bytesAt s t n)).readKeys (bytesAt s t n)).2 = false

/-- The bytes of the access as a number, the lowest address first. -/
def valueAt (s : State) (t n : Nat) : Nat := leNat ((arrived s (bytesAt s t n)).readKeys (bytesAt s t n)).1

/-- The state after the control core's read of n bytes at t: errors that it met are counted and marked, and a buffer's heat and the
caches follow (12 R277, R278; 15 R333, R335). -/
def afterRead (s : State) (t n : Nat) : State :=
  let u := (arrived s (bytesAt s t n)).noteReads (bytesAt s t n)
  if ccIsVa t then (u.heat t).fillCore s.cur t else u

def sizeBytes : CSize → Nat
  | .b => 1 | .bn => 1 | .h => 2 | .hn => 2 | .w => 4 | .wn => 4 | .d => 8

/-- A loaded value, extended as its size says (09 R227). -/
def loaded (sz : CSize) (v : Nat) : Word :=
  match sz with
  | .b => (BitVec.ofNat 8 v).signExtend 64
  | .h => (BitVec.ofNat 16 v).signExtend 64
  | .w => (BitVec.ofNat 32 v).signExtend 64
  | .bn => BitVec.ofNat 64 v
  | .hn => BitVec.ofNat 64 v
  | .wn => BitVec.ofNat 64 v
  | .d => BitVec.ofNat 64 v

/-- Every byte reads as before. -/
def SameMemory (s t : State) : Prop := ∀ k, t.byte k = s.byte k

/-- The sector of a byte of a stack stays as it reads when a write with key id `kid` merges into it: no other key had written it, and
no more than one of its symbols is in error (12 R271, R277, R281). -/
def SameKey (s : State) (kid k : Nat) : Prop :=
  isHbm k = false ∨ ((mfind s.sealed (k / 32) = none ∨ mfind s.sealed (k / 32) = s.keyOf (stackOf k) kid) ∧ s.upset k ≤ 1)

/-- What a write from origin `o` of the bytes b 0, b 1, … at the keys of a list, each under its own key id, does to the memory that it
meets in s: each byte that its stack serves reads as the write's (a byte that two places of the list name, as the last of them), and
every other byte reads as before; but the rest of a sector that another key had written, or that carries an error past correction, is
not stated (12 R277, R281: nothing fixed is read there). -/
def WrittenAt (o : Origin) (s u : State) (ks : List (Nat × Nat)) (b : Nat → Byte) : Prop :=
  (∀ j q, ks[j]? = some q → (∀ i r, j < i → ks[i]? = some r → r.1 ≠ q.1) → (∀ r ∈ ks, r.1 / 32 = q.1 / 32 → r.2 = q.2) →
    (isHbm q.1 = false ∨ s.unserved o q.2 q.1 = none) → u.byte q.1 = b j) ∧
  (∀ k, (∀ q ∈ ks, q.1 ≠ k ∧ (q.1 / 32 = k / 32 → SameKey s q.2 k)) → u.byte k = s.byte k)

/-- What a store of the moving slot does to memory. -/
def StoredAt (s u : State) (ks : List (Nat × Nat)) (b : Nat → Byte) : Prop := WrittenAt (.die (s.cur / 384)) (arrived s ks) u ks b

/-- What a store of n bytes of `v` at t does to memory. -/
def Stored (s u : State) (t n v : Nat) : Prop := StoredAt s u (bytesAt s t n) fun j => BitVec.ofNat 8 (v / 256 ^ j)

/-- Every byte reads as it does when the access of n bytes at t meets its bytes. -/
def OnlyRead (s u : State) (t n : Nat) : Prop := SameMemory (arrived s (bytesAt s t n)) u

/-- Slots other than the moving one differ at most in their barrier's byte counts (14 R323). -/
def OthersCount (s u : State) : Prop := ∀ n, n ≠ s.cur → u.slot n = { s.slot n with dom := (u.slot n).dom }

/-- The value that AMO leaves in memory (09 R228): s the operand, c the compare value. -/
def amoLeft {w : Nat} (op : AmoOp) (old s c : BitVec w) : BitVec w :=
  match op with
  | .add => old + s
  | .swap => s
  | .cas => if old = c then s else old
  | .min => if s.toInt < old.toInt then s else old
  | .max => if old.toInt < s.toInt then s else old
  | .and => old &&& s
  | .or => old ||| s
  | .xor => old ^^^ s

/-! ### Table instructions (17) -/

/-- The image of n bytes at t may be read: aligned to 8, admitted, and clean; s1 and v are the state after the read and the number
read (17 R368, R370). -/
def ImageRead (s : State) (t n : Nat) (s1 : State) (v : Nat) : Prop :=
  t % 8 = 0 ∧ Admitted s t n rR .load ∧ s.ccRead t (bytesAt s t n) = .ok (s1, v)

/-- The words that write one table by R368 and R372 alone, with their table code, the level they need, and the rules that may
refuse the image v of entry i in a state. -/
def tableWord (d a b : BitVec 5) : Instr → Option (Nat × Nat × (State → Nat → Nat → Nat))
  | .tbw d' a' b' code =>
    if d' = d ∧ a' = a ∧ b' = b then
      match code.toNat with
      | 0x00 => some (0x00, 1, fun s i v => s.refuseBuffer i v)
      | 0x01 => some (0x01, 1, fun s _ v => s.refusePage (vaIndex (s.me.getS a).toNat) v)
      | 0x02 => some (0x02, 1, fun _ _ _ => 0)
      | 0x0A => some (0x0A, 2, fun _ _ _ => 0)
      | 0x17 => some (0x17, 1, fun s _ v => s.refuseTrapSetup v)
      | _ => none
    else none
  | .shardw d' a' b' owner =>
    if d' = d ∧ a' = a ∧ b' = b then
      some (if owner then 0x07 else 0x06, 1, fun s i v => if owner then s.refuseOwner i v else refuseShard v) else none
  | .fmmuw d' a' b' mmu =>
    if d' = d ∧ a' = a ∧ b' = b then
      some (if mmu then 0x05 else 0x04, 1, fun s _ v => if mmu then 0 else s.refuseWindow v) else none
  | .protw d' a' b' => if d' = d ∧ a' = a ∧ b' = b then some (0x09, 2, fun _ _ _ => 0) else none
  | _ => none

/-- A table word has completed with a status: S[d] holds it, the program counter has moved on, and of the slot nothing else has
changed since its image was read. -/
def Answered (s1 u : State) (d : BitVec 5) (st : Word) : Prop :=
  WritesS s1 u d st ∧ u.me = { s1.me with pc := s1.me.pc + 4#64, r := { s1.me.r with s := u.me.r.s } } ∧
    ∀ n, n ≠ s1.cur → u.slot n = s1.slot n

/-- The row-major number of a position in a grid, over its first n sizes (09 R222). -/
def gridIndex (size pos : Nat → Nat) : Nat → Nat
  | 0 => 0
  | n + 1 => gridIndex size pos n * size n + pos n

/-- What the checks of R340 and R222 find for r coordinates of an element of e bytes in the sharded buffer `buf`: the owner entry and the
element's offset in it; none where one of them raises SHARD_RANGE. -/
def shardFound (s : State) (buf e r : Nat) (c : Nat → Nat) : Option (Nat × Nat) :=
  let sh := s.see 0x06 (natBits buf 189 180)
  let extent := fun k => natBits sh (32 * k + 31) (32 * k)
  let shape := fun k => natBits sh (32 * k + 159) (32 * k + 128)
  let o := s.see 0x07 (natBits sh 359 344 + gridIndex (fun k => ceilDiv (extent k) (shape k)) (fun k => c k / shape k) r)
  if natBit buf 190 && natBit sh 383 && decide (natBits sh 380 373 = s.me.y.tenant.toNat) && decide (natBits sh 382 381 + 1 = r) &&
      (List.range r).all (fun k => decide (c k < extent k)) && natBit o 127
  then some (o, natBits o 39 0 + e * gridIndex shape (fun k => c k % shape k) r) else none

/-! ### Queue and synchronisation words (14) -/

/-- What a class 6 word names: the S registers that it captures, and its S and P destinations (03 R70). -/
def syWord : Instr → Option (List (BitVec 5) × List (BitVec 5) × List (BitVec 3))
  | .enq d a b _ => some ([a, b], [], [d])
  | .deq d a b _ p => some ([a, b], [d], [p])
  | .peek d a b _ p => some ([a, b], [d], [p])
  | .enqr d a b _ => some ([a, b], [], [d])
  | .qstat d a => some ([a], [d], [])
  | .arrive a => some ([a], [], [])
  | .waitc d a _ => some ([a], [], [d])
  | .spawn d a => some ([a], [d], [])
  | .refF d a => some ([a], [], [d])
  | .dropF d a => some ([a], [], [d])
  | .await d a => some ([a], [], [d])
  | .awaitl d a => some ([a], [], [d])
  | .rpoint => some ([], [], [])
  | .yieldl _ a b => some ([a, b], [], [])
  | .tktset d a b => some ([a, b], [d], [])
  | .tktget d a _ => some ([a], [d], [])
  | .draw d a => some ([a], [d], [])
  | .ctrset a b => some ([a, b], [], [])
  | .ctrget d a => some ([a], [d], [])
  | .ctradd a b => some ([a, b], [], [])
  | _ => none

/-- SY has performed the entry that it was executing: the entry has retired, and besides S and P registers nothing else of any slot
has changed. -/
def SyDone (s u : State) (en : Entry) : Prop :=
  u.me = { s.me with
    r := { s.me.r with s := u.me.r.s, p := u.me.r.p }
    e := { s.me.e with sy := ({ s.me.e.sy with active := none } : EngQ).retire en.seq } } ∧
  ∀ n, n ≠ s.cur → u.slot n = s.slot n

def SameS (s u : State) : Prop := u.me.r.s = s.me.r.s
def SameP (s u : State) : Prop := u.me.r.p = s.me.r.p

/-- No earlier store of the scope is due and no fence holds an SY entry that touches an object of home `home` (08 R198, R201). -/
def SyClear (s : State) (en : Entry) (sc : Scope) (home : Nat) (k : AccKind) : Prop :=
  s.pushClear s.cur sc en.ord = true ∧ s.fenced s.cur en.ord k [home] = false

/-- The access of an IND form is admitted and nothing holds it (14 R318). -/
def IndClear (s : State) (en : Entry) (t size right : Nat) (k : AccKind) : Prop :=
  s.ccCheck t size right = .ok (bytesAt s t size) ∧
    s.pushClear s.cur (narrowest s.cur (homesOf (bytesAt s t size))) en.ord = true ∧
    s.fenced s.cur en.ord k (homesOf (bytesAt s t size)) = false

/-- A queue that the tenant of the moving slot may use under handle h (13 R306, 14 R317). -/
def OwnQueue (s : State) (h : Nat) : Prop :=
  s.queueStale h = false ∧ qTenant (s.entry 0x16 (queueKey h)) = s.me.y.tenant.toNat

/-! ### Futures, tickets and counters (18, 19) -/

/-- A handle that the tenant of the moving slot may use (19 R395). -/
def OwnFuture (s : State) (h : W32) : Prop :=
  s.futStale h = false ∧ ctxTenant (s.context (s.future (futSlot h)).ctx) = s.me.y.tenant.toNat

/-- The order that an operation on a future record waits for (18 R382). -/
def FutClear (s : State) (en : Entry) (h : W32) (k : AccKind) : Prop :=
  SyClear s en (s.dieScope (futSlot h / 8192 % 8)) (dieHome (futSlot h / 8192 % 8)) k

/-- The handles that the task of the moving slot holds (19 R393). -/
def Holds (s : State) (l : List W32) : Prop := ∃ k x, s.me.job.task = some k ∧ mfind s.tasks k = some x ∧ x.refs = l

/-- The wait of the word that SY executes is over: the slot no longer lends and the word has retired. -/
def WaitOver (s u : State) (en : Entry) : Prop :=
  u.me.lendSince = none ∧ u.me.e.sy = ({ s.me.e.sy with active := none } : EngQ).retire en.seq ∧ u.me.pc = s.me.pc ∧ SameS s u

/-- An event may look at the wait of the entry that SY executes. -/
def Waiting (s : State) (en : Entry) (i : Instr) : Prop :=
  s.me.e.sy.active = some en ∧ en.cmd = .sy i ∧ s.me.job.stopped = false ∧ s.me.job.preempted = false ∧ s.me.drain = none

/-- The same, while the slot lends its tickets. -/
def Lending (s : State) (en : Entry) (i : Instr) : Prop := Waiting s en i ∧ s.me.lendSince.isSome = true

/-! ### Patch words and engine commands (03) -/

/-- The bits of the engine word that a field select names (03 R75). -/
def selField (sel : Nat) : Option (Nat × Nat) :=
  match sel with
  | 1 => some (43, 36) | 2 => some (35, 28) | 3 => some (27, 20) | 4 => some (19, 12) | 5 => some (11, 0)
  | 6 => some (69, 66) | 7 => some (65, 61) | 8 => some (60, 56) | 9 => some (55, 51) | 10 => some (46, 44)
  | 11 => some (43, 28) | 12 => some (35, 20) | 13 => some (27, 12) | _ => none

/-- `w` is the template `t` with the selected field replaced by `v`. -/
def Amended (t w : BitVec 80) (sel : Nat) (v : BitVec 16) : Prop :=
  ∀ j, j < 80 → w.getLsbD j = match selField sel with
    | some (hi, lo) => if lo ≤ j ∧ j ≤ hi then v.getLsbD (j - lo) else t.getLsbD j
    | none => t.getLsbD j

/-- The value fits its field: no value bit outside it is set (03 R90). -/
def ValueFits (sel : Nat) (v : BitVec 16) : Prop :=
  match selField sel with
  | some (hi, lo) => v.toNat < 2 ^ (hi + 1 - lo)
  | none => v = 0#16

/-- A command of engine e under control fields k may issue as entry en: its tokens, tags and producer allow it, the queues behind the
engine have room, its guard is true, and its tag is free (03 R77, R81, R82, R84; 13 R300, R301, R303, R304). -/
def Ready (s : State) (e : Engine) (k : Ctl) (en : Entry) : Prop :=
  s.entryNow e = en ∧ s.me.held s.dcc.toNat e k en = false ∧ s.me.backed e = false ∧ s.me.guardFor en k.guard = true ∧
    (en.scoreboard && s.me.tagPending e k.ta) = false

/-- The bound of a result due from now (03 R80). -/
def dueAt (s : State) (k : Ctl) : Nat := s.dcc.toNat + lbCycles k.lb

/-- The pending results of a slot once a command with results rs and bound k.lb has issued on engine e: those of the engine that name a
register which rs names too are due by then at the latest, since they land first (03 R80, R81). -/
def hastened (s : State) (e : Engine) (k : Ctl) (rs : List Result) : List Landing :=
  s.me.landings.map fun l =>
    if l.eng = e ∧ ∃ r ∈ l.results, ∃ q ∈ rs, q.dest = r.dest then { l with due := min l.due (dueAt s k) } else l

/-! ### Values of VX (06; 02) -/

/-- The element type's rounding of an exact value. -/
def fpLane (t : VTy) (rm : Rm) (x : Num) : W32 := BitVec.ofNat 32 ((vtyFmt t).round rm x)

/-- An integer lane, kept within its type (02 R41). -/
def keptIn (t : VTy) (i : Int) : W32 :=
  match t with
  | .n32 => BitVec.ofInt 32 (max 0 (min (2 ^ 32 - 1) i))
  | _ => BitVec.ofInt 32 (max (-2 ^ 31) (min (2 ^ 31 - 1) i))

def sumLane (t : VTy) (rm : Rm) (sat : Bool) (a b : W32) : W32 :=
  if t.isFp then fpLane t rm ((velem t a).add (rm == .rdn) (velem t b))
  else if sat then keptIn t (vint t a + vint t b) else a + b

def minLane (t : VTy) (a b : W32) : W32 :=
  if t.isFp then fpLane t .rne ((velem t a).min (velem t b)) else if vint t a ≤ vint t b then a else b
def maxLane (t : VTy) (a b : W32) : W32 :=
  if t.isFp then fpLane t .rne ((velem t a).max (velem t b)) else if vint t b ≤ vint t a then a else b

/-- What a lane-by-lane command gives: its control fields, Vd, the mask, and lane i of its result in a slot, as entry en. -/
def laneWord (x : Slot) (en : Entry) : Instr → Option (Ctl × BitVec 5 × BitVec 3 × (Nat → W32))
  | .vadd k t rm sat d m a b => some (k, d, m, fun i => sumLane t rm sat (v a i) (v b i))
  | .vsub k t rm sat d m a b => some (k, d, m, fun i =>
      if t.isFp then fpLane t rm ((velem t (v a i)).add (rm == .rdn) (velem t (v b i)).neg)
      else if sat then keptIn t (vint t (v a i) - vint t (v b i)) else v a i - v b i)
  | .vmul k t rm sat d m a b => some (k, d, m, fun i =>
      if t.isFp then fpLane t rm ((velem t (v a i)).mul (velem t (v b i)))
      else if sat then keptIn t (vint t (v a i) * vint t (v b i)) else v a i * v b i)
  | .vfma k t rm d m a b c => some (k, d, m, fun i =>
      fpLane t rm (((velem t (v a i)).mul (velem t (v b i))).add (rm == .rdn) (velem t (v c i))))
  | .vfms k t rm d m a b c => some (k, d, m, fun i =>
      fpLane t rm (((velem t (v a i)).mul (velem t (v b i))).add (rm == .rdn) (velem t (v c i)).neg))
  | .vfnma k t rm d m a b c => some (k, d, m, fun i =>
      fpLane t rm (((velem t (v a i)).mul (velem t (v b i))).neg.add (rm == .rdn) (velem t (v c i))))
  | .vdiv k t rm d m a b => some (k, d, m, fun i => fpLane t rm ((velem t (v a i)).div (velem t (v b i))))
  | .vsqrt k t rm d m a => some (k, d, m, fun i => fpLane t rm (velem t (v a i)).sqrt)
  | .vexp2 k rm d m a => some (k, d, m, fun i => fpLane .f32 rm (velem .f32 (v a i)).exp2)
  | .vlog2 k rm d m a => some (k, d, m, fun i => fpLane .f32 rm (velem .f32 (v a i)).log2)
  | .vmin k t d m a b => some (k, d, m, fun i => minLane t (v a i) (v b i))
  | .vmax k t d m a b => some (k, d, m, fun i => maxLane t (v a i) (v b i))
  | .vabs k t sat d m a => some (k, d, m, fun i =>
      match t with
      | .f16 | .bf16 => v a i &&& 0x7FFF#32
      | .f32 => v a i &&& 0x7FFFFFFF#32
      | t => if sat then keptIn t (v a i).toInt.natAbs else if (v a i).toInt < 0 then 0#32 - v a i else v a i)
  | .vneg k t sat d m a => some (k, d, m, fun i =>
      match t with
      | .f16 | .bf16 => (v a i &&& 0xFFFF#32) ^^^ 0x8000#32
      | .f32 => v a i ^^^ 0x80000000#32
      | t => if sat then keptIn t (-(v a i).toInt) else 0#32 - v a i)
  | .vand k d m a b => some (k, d, m, fun i => v a i &&& v b i)
  | .vor k d m a b => some (k, d, m, fun i => v a i ||| v b i)
  | .vxor k d m a b => some (k, d, m, fun i => v a i ^^^ v b i)
  | .vshl k d m a n => some (k, d, m, fun i => v a i <<< amount n i)
  | .vshr k d m a n => some (k, d, m, fun i => v a i >>> amount n i)
  | .vsha k d m a n => some (k, d, m, fun i => (v a i).sshiftRight (amount n i))
  | .vmulh k t d m a b => some (k, d, m, fun i => BitVec.ofInt 32 (vint t (v a i) * vint t (v b i) / 2 ^ 32))
  | .vsel k d m a b c => some (k, d, m, fun i => if (x.getK c).getLsbD i then v a i else v b i)
  | .kpopc k d m a => some (k, d, m, fun _ => BitVec.ofNat 32 (bitsSet (x.getK a)))
  | .vcvt k src dst rm d m a b => some (k, d, m, fun i => vcvtOp src dst rm en.seed (v a i) (v b i))
  | .vunpack k w part sx d m a => some (k, d, m, fun i =>
      let n := packBits w
      let e := (x.getV a).extractLsb' (n * (part.toNat * 64 + i)) n
      if sx then e.signExtend 32 else e.setWidth 32)
  | .vscale k fmt d m a b => some (k, d, m, fun i =>
      fpLane .f32 .rne ((decodeFmt fmt ((v a i).toNat % 2 ^ fmtBits fmt)).mul (scaleNum ((v b i).toNat % 1024))))
  | .vperm k d m a b => some (k, d, m, fun i => if (v b i).toNat < 64 then v a (v b i).toNat else 0#32)
  | .vbcast k d m a ln => some (k, d, m, fun _ => v a ln.toNat)
  | .vget k d m a ln => some (k, d, m, fun i => if i = 0 then v a ln.toNat else 0#32)
  | .viota k d m base => some (k, d, m, fun i => base.signExtend 32 + BitVec.ofNat 32 i)
  | .vmov k d m a => some (k, d, m, fun i => v a i)
  | .vmovi k d m imm => some (k, d, m, fun _ => imm)
  | _ => none
where
  /-- Lane i of a V register. -/
  v (a : BitVec 5) (i : Nat) : W32 := (x.getV a).extractLsb' (32 * i) 32
  amount (n : VShift) (i : Nat) : Nat :=
    match n with
    | .reg b => (v b i).toNat
    | .imm n => n.toNat

/-- What a command that writes a K register gives: bit i of its result. -/
def maskWord (x : Slot) : Instr → Option (Ctl × BitVec 3 × (Nat → Bool))
  | .vcmp k t cc d m a b => some (k, d, fun i => (x.getK m).getLsbD i &&
      vccHolds cc (velem t ((x.getV a).extractLsb' (32 * i) 32)) (velem t ((x.getV b).extractLsb' (32 * i) 32)))
  | .kand k d a b => some (k, d, fun i => (x.getK a).getLsbD i && (x.getK b).getLsbD i)
  | .kor k d a b => some (k, d, fun i => (x.getK a).getLsbD i || (x.getK b).getLsbD i)
  | .kxor k d a b => some (k, d, fun i => (x.getK a).getLsbD i ^^ (x.getK b).getLsbD i)
  | .knot k d a => some (k, d, fun i => !(x.getK a).getLsbD i)
  | .kfirst k d a => some (k, d, fun i => decide (lowestBit (x.getK a) = i))
  | _ => none

/-- The balanced tree over 2^n leaves, from leaf 2^n × j on (02 R59). -/
def treeOf (f : W32 → W32 → W32) (leaf : Nat → W32) : Nat → Nat → W32
  | 0, j => leaf j
  | n + 1, j => f (treeOf f leaf n (2 * j)) (treeOf f leaf n (2 * j + 1))

/-- Lane j after n doubling steps (02 R60). -/
def scanOf (f : W32 → W32 → W32) (leaf : Nat → W32) : Nat → Nat → W32
  | 0, j => leaf j
  | n + 1, j => if 2 ^ n ≤ j then f (scanOf f leaf n (j - 2 ^ n)) (scanOf f leaf n j) else scanOf f leaf n j

/-- What a command that writes every lane gives, from the active lanes and a value for the others (02 R59 to R61). -/
def wholeWord (x : Slot) : Instr → Option (Ctl × BitVec 5 × (Nat → W32))
  | .vredsum k t d m a => some (k, d, fun _ => treeOf (sumLane t .rne false) (leaf m a t (idSum t)) 6 0)
  | .vredmax k t d m a => some (k, d, fun _ => treeOf (maxLane t) (leaf m a t (extremeId t true)) 6 0)
  | .vredmin k t d m a => some (k, d, fun _ => treeOf (minLane t) (leaf m a t (extremeId t false)) 6 0)
  | .vscan k t d m a => some (k, d, fun j => canonical t (scanOf (sumLane t .rne false) (leaf m a t (idSum t)) 6 j))
  | _ => none
where
  leaf (m : BitVec 3) (a : BitVec 5) (t : VTy) (other : W32) (i : Nat) : W32 :=
    if (x.getK m).getLsbD i then
      (match t with
        | .f16 | .bf16 => (x.getV a).extractLsb' (32 * i) 32 &&& 0xFFFF#32
        | _ => (x.getV a).extractLsb' (32 * i) 32)
    else other
  /-- A NaN leaves in its canonical pattern (02 R44). -/
  canonical (t : VTy) (v : W32) : W32 :=
    if (velem t v).isNan then match t with | .f32 => 0x7FC00000#32 | .f16 => 0x7E00#32 | .bf16 => 0x7FC0#32 | _ => v else v
  idSum (t : VTy) : W32 := match t with | .f32 => 0x80000000#32 | .f16 | .bf16 => 0x8000#32 | _ => 0#32

/-! ### MX (10; 01 R29 to R35) -/

/-- The tile of the moving slot. -/
def mine (s : State) : Tile := s.tile (s.cur / 8)

/-- The MX command at the head of the moving slot's queue, entry en, starts now: nothing holds it, its guard is true, the array is free,
the queue entries and banks that it needs are there, and in STAMPED mode this is the cycle of its stamp, in a window of its control core
that its occupancy does not leave (01 R30; 10 R234, R236, R238). -/
def MxStarts (s : State) (k : Ctl) (c : BitVec 5) (en : Entry) (occ : Nat) (need : MxNeed) : Prop :=
  s.phase = .issue en ∧ Ready s .mx k en ∧ (mine s).busy = none ∧ s.mxHas s.cur en need = true ∧
  ((mine s).stamped = true →
    let st := stampOf en c
    let win := (mine s).windowLen
    s.dcc = st ∧ ownsWindow s.cur win st.toNat = true ∧ st.toNat + occ ≤ (st.toNat / win + 1) * win)

/-- The command has started and occupies the array. -/
def MxRuns (s u : State) (en : Entry) (occ banks : Nat) (feed : Option MmaFeed) : Prop :=
  (mine u).busy = some ⟨s.cur, en, s.dcc.toNat + occ, banks, false, feed⟩ ∧ u.cur = s.cur ∧
    u.me.e.mx.entries = s.me.e.mx.entries.drop 1 ∧ u.me.e.mx.retired = s.me.e.mx.retired ∧ u.me.pc = s.me.pc

/-- A command of one cycle has retired at its start, and occupies the array until the next cycle (01 R31; 10 R234). -/
def mxOnce (s : State) (en : Entry) : Option MxBusy := some ⟨s.cur, en, s.dcc.toNat + 1, 0, true, none⟩

/-- The state in which an accumulating command of slot n meets its operands: their banks are awake (07 R185; 23 R453). -/
def operandsMet (s : State) (n : Nat) (p : MmaPlan) (rows : Nat) : State :=
  s.readBanks n p.banks (srcSpans (n / 8) rows p.a ++ srcSpans (n / 8) 64 p.b)

/-- An accumulator tile may be used by the moving slot and holds no spill. -/
def OwnZ (s : State) (z : Nat) : Prop :=
  ((mine s).allocOf z = none ∨ (mine s).allocOf z = some (s.cur % 8)) ∧ ∀ c, c < 64 → mget none (mine s).spillCol (z * 64 + c) = none

/-- An accumulator element after n groups, each added and rounded in turn (10 R239). -/
def accSteps (gv : Nat → Num) (acc : Nat) : Nat → Nat
  | 0 => acc
  | n + 1 => accAdd (accSteps gv acc n) (gv n)

/-- The state in which MDRAIN meets its residual: its banks are awake (07 R185). -/
def residualMet (s : State) (p : DrainPlan) : State :=
  s.readBanks s.cur p.banks (match p.res with
    | some (x, f) => srcSpans (s.cur / 8) 1 (.bank x (drainLen f) f)
    | none => [])

/-- The value that MDRAIN converts for element (m, i), its residual as it stands in w: with it added and rounded, then with dropout (10
R248). -/
def drained (s w : State) (en : Entry) (p : DrainPlan) (z c : Nat) (drop : Bool) (rate : Nat) (m i : Nat) : Num :=
  let t := mine s
  let v := f32Fmt.decode (lane (t.col z i) m).toNat
  let v := match p.res with
    | some (xr, fr) => f32Fmt.decode (f32Fmt.round .rne
        (v.add false (resNum w.byte (s.cur / 8) fr (mget 0#256 t.codebook (cbSlotOf fr)) xr m i)))
    | none => v
  if drop then dropNum en.seed (c / 2 ^ 32 % 2 ^ 16) (c / 2 ^ 48 % 2 ^ 16) m i rate v else v

/-! ### LD and ST (09 R213 to R225; 08) -/

/-- The active lanes of a mask, ascending. -/
def lanesOf (m : Word) : List Nat := (List.range 64).filter fun i => m.getLsbD i

def elemBytes : ESize → Nat
  | .w => 4 | .h => 2 | .b => 1

/-- The effective address of a form, with X[a] and the captured register (09 R214). -/
def effective (am : AddrForm) (xa : Word) (e : Nat) (en : Entry) : Word :=
  match am with
  | .off n => xa + n.signExtend 64 * BitVec.ofNat 64 e
  | .postInc _ => xa
  | .reg b => xa + en.cap b

/-- The covered result of a post-increment: the view's X[a] plus the scaled amount (09 R213, R214). -/
def postInc (am : AddrForm) (view : BitVec 2) (a : BitVec 5) (xa : Word) (e : Nat) : List Result :=
  match am with
  | .postInc n => [⟨.x view a, (xa + n.signExtend 64 * BitVec.ofNat 64 e).setWidth 2048, BitVec.allOnes 64⟩]
  | .off _ => []
  | .reg _ => []

/-- No slip and no FENCE.SC holds an LD command (08 R195, R201). -/
def LdRoom (s : State) (en : Entry) : Prop := s.me.loadSlips en = true ∧ s.scHolds s.cur en.ord = false

/-- No slip and no FENCE.SC holds an ST command (08 R195, R201). -/
def StRoom (s : State) (en : Entry) : Prop := s.me.storeSlips en = true ∧ s.scHolds s.cur en.ord = false

/-- The command has issued and left u but for its queue entry: its load stands last among those issued, with these lanes; memory is as it
is in v. -/
def LoadIssued (s v u : State) (en : Entry) (q sx : Bool) (d : BitVec 5) (m : Word) (ls : List LaneAcc) : Prop :=
  ∃ a : LoadAcc, u.me = { s.me with loads := s.me.loads ++ [a] } ∧ a.entry = en ∧ a.q = q ∧ a.sx = sx ∧ a.d = d ∧ a.mask = m ∧
    a.lanes = ls ∧ a.poison = 0#64 ∧ a.flt = none ∧ u.mem = v.mem ∧ ∀ n, n ≠ s.cur → u.slot n = s.slot n

/-- The command has issued and left u but for its queue entry: its store stands last among those issued, with these lanes, and keeps the
value of the X register that its post-increment changes (09 R217). -/
def StoreIssued (s u : State) (en : Entry) (inc : List Result) (ls : List StoreLane) : Prop :=
  ∃ a : StoreAcc, u.me = { s.me with storeQ := s.me.storeQ ++ [a] } ∧ a.entry = en.keepX s.me inc ∧ a.lanes = ls ∧ a.bad = none ∧
    u.mem = s.mem ∧ ∀ n, n ≠ s.cur → u.slot n = s.slot n

/-- The state in which the moving slot reads bytes: they are awake, and errors are counted and marked (07 R185; 12 R277, R278). -/
def met (s : State) (ks : List (Nat × Nat)) : State := (arrived s ks).noteReads ks

/-- The state after LDG has read its index vector: a buffer's heat and the stream's cache follow (09 R220; 15 R333, R335). -/
def afterIndex (s : State) (buf : Bool) (t : Nat) : State :=
  let vas := if buf then (List.range 256).map (t + ·) else []
  ((met s (s.keysAt buf t 256)).heatAll vas).fillStream s.cur 0 vas

/-- The state after a unit of a copy has read its source. -/
def afterSource (s : State) (e : CopyEnd) (a len : Nat) : State :=
  match e with
  | .va =>
    let vas := (List.range len).map (a + ·)
    ((met s (s.keysAt true a len)).heatAll vas).fillStream s.cur 2 vas
  | .sa => met s (s.keysAt false a len)
  | .far => s
  | .pattern _ => s

/-! ### CP: copies and near-memory commands (11) -/

/-- A CP command may issue. -/
def CpReady (s : State) (k : Ctl) (en : Entry) : Prop := Ready s .cp k en

/-- The command stands last in the journal, unperformed, with the addresses that its view held; but for its queue entry the rest
of the slot, and memory, are as before (13 R298, R304). -/
def Journalled (s u : State) (i : Instr) (en : Entry) (xd xs : Word) (pieces : Nat) : Prop :=
  ∃ j : CopyJob, u.me = { s.me with journal := s.me.journal ++ [j] } ∧ j.instr = i ∧ j.entry = { en with issued := true } ∧ j.xd = xd ∧
    j.xs = xs ∧ j.unit = 0 ∧ j.stopped = false ∧ j.err = false ∧ j.pieces = pieces ∧ u.mem = s.mem ∧ ∀ n, n ≠ s.cur → u.slot n = s.slot n

/-- A near-memory command may start (11 R258, R263, R265). -/
def NmReady (s : State) (k : Ctl) (en : Entry) (ranges : List (Word × Nat)) (count : Word) : Prop :=
  CpReady s k en ∧ (∀ j ∈ s.me.journal, j.isFence = false) ∧ s.nmCheck ranges count = .ok () ∧
    s.clearFor s.cur en.ord .nm (ranges.flatMap fun r => s.rangeHomes true r.1.toNat r.2) = true

/-- The near-memory command stands in the journal and its pieces are on their way. -/
def NmStarted (s u : State) (i : Instr) (en : Entry) (xd xs : Word) (ps : List NmPiece) : Prop :=
  Journalled s u i en xd xs ps.length ∧ u.pieces = s.pieces ++ ps

/-- The FP32 value that a piece leaves in an element, read at the piece's base die (11 R260, R264; 12 R286). -/
def pieceValue (s : State) (p : NmPiece) (i : Nat) : Nat :=
  if p.op = 4 then p.a.toNat
  else f32Fmt.round .rne (nmValue p.op p.a p.lam (s.nmRead (.base p.stack) (p.key i) p.kid).1
    (s.nmRead (.base p.stack) (p.srcKey i) p.skid).1)

/-! ### The die scheduler, launches and seasons (16, 20) -/

/-- Slots, memory and tables are as they were. -/
def Kept (s u : State) : Prop := u.slots = s.slots ∧ u.mem = s.mem ∧ u.tab = s.tab

/-- Two ranges of task records overlap: both SAs or both VAs of one buffer, and some byte may lie in both (16 R353). -/
def Overlap (p q : Word × Nat) : Prop :=
  (2 ^ 40 ≤ p.1.toNat ↔ 2 ^ 40 ≤ q.1.toNat) ∧ (2 ^ 40 ≤ p.1.toNat → p.1.toNat / 2 ^ 40 % 2 ^ 20 = q.1.toNat / 2 ^ 40 % 2 ^ 20) ∧
    p.1.toNat < q.1.toNat + q.2 ∧ q.1.toNat < p.1.toNat + p.2

/-- A task ranks before a new one with record r (16 R353). -/
def RanksBefore (y : Task) (r : TaskRec) : Prop :=
  y.state ≠ .finished ∧ y.rc.flags / 2 % 2 = 0 ∧ r.flags / 2 % 2 = 0 ∧
    ((∃ p ∈ y.rc.writes, ∃ q ∈ r.reads ++ r.writes, Overlap p q) ∨ ∃ p ∈ y.rc.reads, ∃ q ∈ r.writes, Overlap p q)

/-- The moving slot can be cut now. -/
def CanCut (s : State) : Prop := s.me.calm = true ∧ s.cutReady s.cur false = true

/-- The moving slot stands at a cut: its queues are set aside and its tags are clear (20 R409). -/
def StandsCut (u : State) : Prop := (∀ e, (u.me.eng e).entries = []) ∧ u.me.r.tags = 0#80 ∧ u.me.job.preempted = true ∧
  u.me.job.preemptReq = false

/-- A slot runs no task and holds no part of a job. -/
def Left (x : Slot) : Prop := x.job.task = none ∧ x.job.part = .idle ∧ x.job.stopped = false

/-! ### The host (21, 23) -/

/-- The keys of n bytes at a VA, and the state in which the front end, at CD-0 and for no context, meets them. -/
def hostBytes (s : State) (va n : Nat) : List (Nat × Nat) := s.keysAt true va n
def hostArrived (s : State) (va n : Nat) : State := s.touchAllFrom (.die 0) 4096 (hostBytes s va n)

/-- The state after a read of the front end: errors that it met are counted and marked, and the buffer's heat follows. -/
def hostMet (s : State) (va n : Nat) : State :=
  ((hostArrived s va n).noteReadsFrom (.die 0) (hostBytes s va n)).heatAll ((List.range n).map (va + ·))

/-- The bytes that the front end reads, each with its poison. -/
def hostValue (s : State) (va n : Nat) : List (Byte × Bool) :=
  (hostBytes s va n).map fun k => (hostMet s va n).readKeyFrom (.die 0) k.2 k.1

/-- Only host queue k differs, and it is x now. -/
def OnlyQueue (s u : State) (k : Nat) (x : HostQ) : Prop :=
  u = { s with hq := u.hq } ∧ u.hostQ k = x ∧ ∀ j, j ≠ k → u.hostQ j = s.hostQ j

/-- What the front end has read of a queue's command leaves w; of that state only host queues differ, of which k is y now and every other
one as it was in s. -/
def QueueAfter (s w u : State) (k : Nat) (y : HostQ) : Prop :=
  u = { w with hq := u.hq } ∧ u.hostQ k = y ∧ (∀ j, j ≠ k → u.hostQ j = s.hostQ j) ∧ u.slots = s.slots

/-- The next command of a queue has left its ring with a completion status. -/
def Finished (x : HostQ) (c : HostWord) (status gen : Nat) : HostQ :=
  { x with head := x.head + 1#32, ready := x.ready ++ [⟨x.head.toNat, status, 0#32, BitVec.ofNat 32 gen, c.irq⟩] }

/-- A management control that a port writes. -/
def isControl (portB : Bool) : Instr → Bool
  | .reset b => b == portB
  | .fwupd b _ => b == portB
  | .powerLimitWrite b _ => b == portB
  | _ => false

/-- The SPDM responder of a port has answered once, with a response of this kind, and its session is `x` now. -/
def Spoken (s u : State) (b : Bool) (kind : Nat) (x : Spdm) : Prop :=
  u.port b = { s.port b with spdm := x } ∧ u.port (!b) = s.port (!b) ∧ (∃ v, u.answers = s.answers ++ [⟨kind, v⟩]) ∧
    u = { s with portA := u.portA, portB := u.portB, answers := u.answers }

/-- Only what the table of VFs and the noted answers hold differs. -/
def OnlyVf (s u : State) (k : Nat) (v : Vf) : Prop :=
  u = { s with vfs := u.vfs, answers := u.answers } ∧ u.vf k = v ∧ ∀ j, j ≠ k → u.vf j = s.vf j

/-! ### Base dies, service and the fabric (12, 22, 23) -/

/-- Only stack k differs, and it is x now. -/
def OnlyStack (s u : State) (k : Nat) (x : Stack) : Prop :=
  u = { s with hbm := u.hbm } ∧ u.stack k = x ∧ ∀ j, j ≠ k → u.stack j = s.stack j

/-- Only station k differs, and it is x now. -/
def OnlyStation (s u : State) (k : Nat) (x : Station) : Prop :=
  u = { s with stations := u.stations } ∧ u.station k = x ∧ ∀ j, j ≠ k → u.station j = s.station j

/-- Only die k differs, and it is x now. -/
def OnlyDie (s u : State) (k : Nat) (x : Die) : Prop :=
  u = { s with dies := u.dies } ∧ u.die k = x ∧ ∀ j, j ≠ k → u.die j = s.die j

/-- The keys of the unit that a request names, each with its key id (12 R290). -/
def unitOfHdr (h : LinkHdr) : List (Nat × Nat) :=
  (List.range 64).map fun i => (2 ^ 40 + h.stk.toNat * 2 ^ 36 + (h.uaddr.toNat * 64 + i) % 2 ^ 36, h.key.toNat)

/-- A request slot as it arrives. -/
def slotOf : Instr → Option (BitVec 2 × RingSlot)
  | .slotWrite k h d => some (k, { op := .write, h := h, data := d.bytes, poison := d.poison })
  | .slotRead k h => some (k, { op := .read, h := h, data := 0#512 })
  | .slotEnqr k h w d => some (k, { op := .enqr, h := h, data := d.setWidth 512, handle := w })
  | _ => none

/-- A response slot as it arrives. -/
def respOf : Instr → Option (BitVec 2 × RingSlot)
  | .slotData k h d p => some (k, { op := .data, h := h, data := d, poison := p })
  | .slotWack k h => some (k, { op := .wack, h := h, data := 0#512 })
  | .slotOutcome k h o => some (k, { op := .outcome o, h := h, data := 0#512 })
  | .slotFault k h c => some (k, { op := .fault c.toNat, h := h, data := 0#512 })
  | _ => none

/-- What a station has sent since: what it sends for a request of header h is a response, then the return of its credit. -/
def Responds (s u : State) (k : Nat) (h : SlotHdr) (op : SlotOp) (data : BitVec 512) (poison : BitVec 2) : Prop :=
  ∃ a b, (u.station k).sent = (s.station k).sent ++ [a, b] ∧ a.op = op ∧ b.op = .allow ∧ a.data = data ∧ a.poison = poison ∧
    a.h.dstNode = h.srcNode ∧ a.h.reqId = h.reqId ∧ b.h.dstNode = h.srcNode ∧ b.h.reqId = h.reqId

/-- A request reaches this package at station k, which takes it at once: it is the next of its stream, and nothing else waits. -/
def Reaches (s : State) (k : Nat) (r : RingSlot) : Prop :=
  r.h.ret = false ∧ r.h.dstNode.toNat = s.ownNode ∧ (s.station k).accepts r.h.tenant.toNat = true ∧ (s.station k).arrived = [] ∧
    mget 0#16 (s.station k).relSeq r.stream = r.h.seq ∧ s.dvfGone r.h = false

/-! ### The whole machine -/

/-- A word fetch of the moving slot at address a gives w, and leaves u (03 R66; 05 R127; 15 R335). -/
def Fetches (s : State) (a : Word) (w : W32) (u : State) : Prop :=
  ∃ t bs, s.readVa (.die (s.cur / 384)) (s.issuer s.cur) a.toNat 4 rX = (t, .ok bs) ∧ w = BitVec.ofNat 32 (leNat bs) ∧
    u = t.fillCore s.cur a.toNat

/-- It is the moving slot's turn at an arbiter of its tile that serves `slots`, at most `limit` words a turn: it goes on with its turn, or
none of the slots that come before it in ascending order, beginning after the one served last, would move (01 R16, R26). -/
def Turn (u : State) (arb limit : Nat) (slots : List Nat) (f : State → Res) : Prop :=
  let rank := fun (last m : Nat) => if last < m then m else m + 3072
  let first := fun (last : Nat) => ∀ m ∈ slots, ({ u with cur := m } : State).moves f = true → rank last u.cur ≤ rank last m
  match mfind (u.tile (u.cur / 8)).turns arb with
  | some (k, c) => k = u.cur ∧ c < limit ∨ first k
  | none => ∀ m ∈ slots, ({ u with cur := m } : State).moves f = true → u.cur ≤ m

/-- A move that was made is counted in its slot's turn. -/
def served (u : State) (arb limit : Nat) : Res → Res
  | .next t => if { t with phase := u.phase } = u then .next t else .next (t.setTile (u.cur / 8) ((t.tile (u.cur / 8)).served arb limit u.cur))
  | .fault f => .fault f
  | .refused r => .refused r

/-- The system registers whose reset value 04 R106 gives, with that value. -/
def resetValues : List (BitVec 12 × Word) :=
  [(0x001#12, 0#64), (0x008#12, 0#64), (0x009#12, 256#64), (0x00A#12, 0#64), (0x00B#12, 0#64), (0x00C#12, 0#64), (0x00D#12, 0#64),
   (0x010#12, 0#64), (0x011#12, 16#64), (0x012#12, 0#64), (0x018#12, 0#64), (0x019#12, 65536#64), (0x020#12, 0#64), (0x021#12, 0#64),
   (0x022#12, 0#64), (0x028#12, 0x80#64), (0x030#12, 0#64), (0x031#12, 0#64), (0x032#12, 0#64), (0x033#12, 0#64), (0x034#12, 0#64),
   (0x040#12, 0#64)]

/-- Words written out in the spec, each with the instruction that the spec gives for it: 03 (VFMA), 05 (REGION), 06 (VMOVI), 09 (LD), 10 (MMA),
11 (CPY), 14 R315, 24 R461, 25 (VSORT), 26 (NMFADE), 27, 28 (LDS). -/
def specWords : List (Code × Instr) :=
  let bare : Ctl := ⟨0#4, none, none, none, 0#4, 7#3⟩
  [(.words [0xC090A100#32], .enq 1#3 4#5 5#5 false), (.words [0xC1100602#32], .deq 6#5 4#5 0#5 false 2#3),
   (.words [0xC51C0303#32], .waitc 3#3 7#5 3#8), (.words [0xC4200000#32], .sync 8#5), (.words [0x16480140#32], .sysw 4#5 0x00A#12 0#5),
   (.words [0x14000001#32], .region true), (.words [0xCD3C1100#32], .draw 17#5 15#5),
   (.words [0xE440080A#32, 0x10204000#32, 0x7102A040#32], .tdef 1#3 0#6 0x080A7102A04010204000#80),
   (.words [0x20C70000#32], .patchWordDispatch 1#3 1#6 8#4 true true true 0#16),
   (.engine 1#3 0x080A7102A04010204000#80, .vfma ⟨2#4, some 3#4, some 1#4, none, 5#4, 2#3⟩ .f32 .rne 4#5 0#3 1#5 2#5 4#5),
   (.engine 1#3 0x720000007043FC000000#80, .vmovi bare 4#5 0#3 0x3FC00000#32),
   (.engine 2#3 0x0040000070304080901F#80, .mma bare 0#2 3#4 false 4#5 8#5 9#5 0x01F#12),
   (.engine 3#3 0x00400000706030000500#80, .ld bare .w false false 6#5 0#3 3#5 (.postInc 64#8)),
   (.engine 3#3 0x01400000701010600400#80, .lds bare .w false false 1#5 0#3 1#5 6#5 1#2),
   (.engine 4#3 0x00800000706020000500#80, .stb bare .w 6#5 0#3 2#5 (.postInc 64#8)),
   (.engine 5#3 0x04800000703040506031#80, .nmfade bare 3#5 4#5 5#5 6#5 3#8 1#4)]


end Sys2Proof.Machine

open Sys2Proof Sys2Proof.Machine

/-- 05 R113, R116 to R118, R121, R122: each of ADD, SUB, MUL, MULH, MULHN, AND, OR, XOR, MIN, MAX, MINN, MAXN, SEL, BUFA, BUFX, BUFO, their immediate
forms, LUI and LIW completes when no register that it names is owed a write, writes its result to S[d] (nothing for S0), moves past its words, and
changes nothing else. 05 R113: CLZ, CTZ and POPC count bits, and BSWAP reverses bytes. 05 R119, R120: CMP, CMPI, PAND, POR, PXOR and PNOT write P[d]
(nothing for P0), move past their word, and change nothing else. -/
def Obligations.ControlResults : Prop :=
  (∀ (s : State) (i : Instr) (d : BitVec 5) (v : Word) (ss : List (BitVec 5)) (ps : List (BitVec 3)) (len : Nat),
    sResult s.me i = some (d, v, ss, ps, len) → s.me.waits ss ps = false →
    ∃ t, exec i s = .next t ∧ WritesS s t d v ∧ t.me.pc = s.me.pc + BitVec.ofNat 64 len ∧ OnlyS s t) ∧
  (∀ (s : State) (d a : BitVec 5), s.me.waits [d, a] [] = false →
    let x := s.me.getS a
    let done := fun (i : Instr) (v : Word) =>
      ∃ t, exec i s = .next t ∧ WritesS s t d v ∧ t.me.pc = s.me.pc + 4#64 ∧ OnlyS s t
    done (.clz d a) (BitVec.ofNat 64 (leadingZeros x)) ∧
    done (.ctz d a) (BitVec.ofNat 64 (lowestBit x)) ∧
    done (.popc d a) (BitVec.ofNat 64 (bitsSet x)) ∧
    ∃ v : Word, done (.bswap d a) v ∧ ∀ i, i < 8 → v.extractLsb' (8 * i) 8 = x.extractLsb' (8 * (7 - i)) 8) ∧
  (∀ (s : State) (i : Instr) (d : BitVec 3) (b : Bool) (ss : List (BitVec 5)) (ps : List (BitVec 3)),
    pResult s.me i = some (d, b, ss, ps) → s.me.waits ss ps = false →
    ∃ t, exec i s = .next t ∧ WritesP s t d b ∧ t.me.pc = s.me.pc + 4#64 ∧ OnlyP s t)

/-- 05 R114: division truncates toward zero, a division by zero and the signed overflow give fixed values; nothing else changes. -/
def Obligations.Division : Prop :=
  ∀ (s : State) (d a b : BitVec 5), s.me.waits [d, a, b] [] = false →
    let x := s.me.getS a
    let y := s.me.getS b
    let done := fun (i : Instr) (v : Word) =>
      ∃ t, exec i s = .next t ∧ WritesS s t d v ∧ t.me.pc = s.me.pc + 4#64 ∧ OnlyS s t
    if y = 0#64 then
      done (.div d a b) 0xFFFFFFFFFFFFFFFF#64 ∧ done (.divn d a b) 0xFFFFFFFFFFFFFFFF#64 ∧
      done (.rem d a b) x ∧ done (.remn d a b) x
    else
      (if x.toInt = -2 ^ 63 ∧ y.toInt = -1 then done (.div d a b) x ∧ done (.rem d a b) 0#64
       else
        done (.div d a b) (BitVec.ofInt 64 (x.toInt.tdiv y.toInt)) ∧
        done (.rem d a b) (BitVec.ofInt 64 (x.toInt - y.toInt * x.toInt.tdiv y.toInt))) ∧
      done (.divn d a b) (BitVec.ofNat 64 (x.toNat / y.toNat)) ∧
      done (.remn d a b) (BitVec.ofNat 64 (x.toNat - y.toNat * (x.toNat / y.toNat)))

/-- 05 R115: the shift amount is taken over all 64 bits of Sb; bit i of the result is the bit of Sa that lands there, or the fill. -/
def Obligations.Shifts : Prop :=
  ∀ (s : State) (d a b : BitVec 5), s.me.waits [d, a, b] [] = false →
    let x := s.me.getS a
    let n := (s.me.getS b).toNat
    let done := fun (i : Instr) (bits : Nat → Bool) =>
      ∃ t v, exec i s = .next t ∧ (∀ j, j < 64 → v.getLsbD j = bits j) ∧ WritesS s t d v ∧
        t.me.pc = s.me.pc + 4#64 ∧ OnlyS s t
    done (.shl d a b) (fun j => decide (n ≤ j) && x.getLsbD (j - n)) ∧
    done (.shr d a b) (fun j => decide (j + n < 64) && x.getLsbD (j + n)) ∧
    done (.sha d a b) (fun j => if j + n < 64 then x.getLsbD (j + n) else x.getLsbD 63)

/-- 05 R124 to R126: J, BR, JAL and an aligned JALR set the next fetch address, JAL and JALR with the link in S[d]; JALR reads S[a] before it writes S[d].
05 R126: JALR to an address that is not a multiple of 4 takes the ALIGN trap with TRAP_INFO t, before anything changes. -/
def Obligations.Jumps : Prop :=
  (∀ (s : State) (d a : BitVec 5) (p : BitVec 3) (off : BitVec 19) (imm : BitVec 12),
    (∃ t, exec (.j off) s = .next t ∧ OnlySlot s t ∧ t.me = { s.me with pc := jumpTo s.me off }) ∧
    (s.me.waits [] [p] = false →
      ∃ t, exec (.br p off) s = .next t ∧ OnlySlot s t ∧
        t.me = { s.me with pc := if s.me.getP p then jumpTo s.me off else s.me.pc + 4#64 }) ∧
    (s.me.waits [d] [] = false →
      ∃ t, exec (.jal d off) s = .next t ∧ WritesS s t d (s.me.pc + 4#64) ∧ t.me.pc = jumpTo s.me off ∧ OnlyS s t) ∧
    (s.me.waits [d, a] [] = false → (s.me.getS a + imm.signExtend 64).toNat % 4 = 0 →
      ∃ t, exec (.jalr d a imm) s = .next t ∧ WritesS s t d (s.me.pc + 4#64) ∧
        t.me.pc = s.me.getS a + imm.signExtend 64 ∧ OnlyS s t)) ∧
  (∀ (s : State) (d a : BitVec 5) (imm : BitVec 12),
    s.me.waits [d, a] [] = false → (s.me.getS a + imm.signExtend 64).toNat % 4 ≠ 0 →
    exec (.jalr d a imm) s =
      .next (s.raise s.cur ⟨0x05, (s.me.getS a + imm.signExtend 64).toNat⟩ s.me.pc 0 0))

/-- 04 R102, 05 R128: MOVX completes when S[a] is owed no write and the four queues have room: an entry that holds S[a] + imm stands at the end of each of
LD, ST, CP and MX; no register changes yet. 05 R128, 13 R296: each engine writes its own X view when it reaches the entry, and no other view changes.
05 R129: MOVXS completes when LD has issued every earlier command and its post-increments have landed: S[d] takes X[a] of the LD view. Rests on the
model's choice or reading: that a MOVX waits for a post-increment that has not landed (log 54). -/
def Obligations.EngineMoves : Prop :=
  (∀ (s : State) (d a : BitVec 5) (imm : BitVec 12),
    s.me.waits [a] [] = false → (∀ e ∈ movxEngines, s.me.room e = true) →
    ∃ t, exec (.movx d a imm) s = .next t ∧ OnlySlot s t ∧ t.me.pc = s.me.pc + 4#64 ∧ t.me.r = s.me.r ∧ t.me.y = s.me.y ∧
      (∀ e ∈ movxEngines, ∃ en, (t.me.eng e).entries = (s.me.eng e).entries ++ [en] ∧
        en.cmd = .movx d (s.me.getS a + imm.signExtend 64) ∧ en.tag = s.me.pc) ∧
      t.me.e.vx = s.me.e.vx ∧ t.me.e.sy = s.me.e.sy) ∧
  (∀ (s : State) (e : Engine) (en : Entry) (r : List Entry) (d : BitVec 5) (v : Word),
    e ∈ movxEngines → (s.me.eng e).active = none → (s.me.eng e).entries = en :: r → en.cmd = .movx d v → s.me.mayIssue e = true →
    s.me.xLanding (viewOf e) = false →
    ∃ t, s.issueFirst e = .next t ∧ (t.me.eng e).entries = r ∧ (t.me.eng e).pc = en.tag ∧ t.me.getX (viewOf e) d = v ∧
      (∀ w q, (w, q) ≠ (viewOf e, d) → t.me.getX w q = s.me.getX w q) ∧
      (∀ n, n ≠ s.cur → t.slot n = s.slot n) ∧ t.mem = s.mem) ∧
  (∀ (s : State) (d a : BitVec 5),
    s.me.waits [d] [] = false → s.me.e.ld.entries = [] → s.me.xLanding 0#2 = false →
    ∃ t, exec (.movxs d a) s = .next t ∧ WritesS s t d (s.me.getX 0#2 a) ∧ t.me.pc = s.me.pc + 4#64 ∧ OnlyS s t)

/-- 04 R105 to R108, 05 R132: SYSR of every defined register, at its read level or above, gives its value. 04 R105, R106, R109, 05 R132: SYSW of a
register of the slot, at its write level or above, stores the value as the register takes it; every other system register of the slot reads as before,
and the S, P, X, V and K files are unchanged. -/
def Obligations.SystemRegisters : Prop :=
  (∀ (s : State) (d : BitVec 5) (name : BitVec 12) (idx : BitVec 5) (lvl : Nat) (v : Word),
    sysView s name idx = some (lvl, v) → lvl ≤ modeLevel s → s.me.waits [d] [] = false → s.me.sysBusy name idx = false →
    ∃ t, exec (.sysr d name idx) s = .next t ∧ WritesS s t d v ∧ t.me.pc = s.me.pc + 4#64 ∧ OnlyS s t) ∧
  (∀ (s : State) (a : BitVec 5) (name : BitVec 12) (idx : BitVec 5) (rd lvl : Nat) (old v : Word),
    sysView s name idx = some (rd, old) → sysStored name old (s.me.getS a) = some (lvl, v) → lvl ≤ modeLevel s →
    s.me.waits [a] [] = false → s.me.sysBusy name idx = false →
    ∃ t, exec (.sysw a name idx) s = .next t ∧ sysView t name idx = some (rd, v) ∧ t.me.pc = s.me.pc + 4#64 ∧
      (∀ name' idx', (name' ≠ name ∨ (name = 0x040#12 ∧ idx' ≠ idx)) → sysView t name' idx' = sysView s name' idx') ∧
      OnlySlot s t ∧ SameFiles s t)

/-- 04 R105, R106, 05 R112: a register above the slot's level raises PRIV, an undefined name or index ILLEGAL, before anything else happens. 05 R133, 03
R90, 05 R127: TRAP raises PROGRAM with its number after moving past its word; a reserved word raises ILLEGAL with its class, and a fetch fault its own
code, both at the word itself. What taking the trap does is `Obligations.TrapEntry`. 05 R134, R136: ERET below scheduler level raises PRIV, outside a
handler ILLEGAL; ENDJ in a handler raises ILLEGAL. 09 R226, 05 R112: with no fence still waiting, a misaligned access of LDC, STC or AMO raises ALIGN
with its address as TRAP_INFO, one that R165 or R179 refuses raises their fault, and a read that meets an uncorrectable error raises POISON; nothing
else happens. -/
def Obligations.ControlTraps : Prop :=
  (∀ (s : State) (r : BitVec 5) (name : BitVec 12) (idx : BitVec 5),
    (sysView s name idx = none →
      exec (.sysr r name idx) s = .next (s.raise s.cur ⟨0x01, 0⟩ s.me.pc 0 0) ∧
      exec (.sysw r name idx) s = .next (s.raise s.cur ⟨0x01, 0⟩ s.me.pc 0 0)) ∧
    (∀ lvl v, sysView s name idx = some (lvl, v) → modeLevel s < lvl →
      exec (.sysr r name idx) s = .next (s.raise s.cur ⟨0x02, 0⟩ s.me.pc 0 0)) ∧
    (∀ rd old lvl v, sysView s name idx = some (rd, old) → sysStored name old (s.me.getS r) = some (lvl, v) →
      modeLevel s < lvl → exec (.sysw r name idx) s = .next (s.raise s.cur ⟨0x02, 0⟩ s.me.pc 0 0))) ∧
  (∀ (s : State) (n : BitVec 12) (w : W32) (code : BitVec 16) (addr : Word),
    exec (.trap n) s = .next ((s.upMe fun x => { x with pc := x.pc + 4#64 }).raise s.cur ⟨0x60, n.toNat⟩ 0#64 0 0) ∧
    exec (.reservedEncoding w) s = .next (s.raise s.cur ⟨0x01, 0⟩ s.me.pc (w.toNat / 2 ^ 29) 0) ∧
    exec (.fetchFault code addr) s = .next (s.raise s.cur ⟨code.toNat, addr.toNat⟩ s.me.pc 0 0)) ∧
  (∀ (s : State),
    (modeLevel s < 1 → exec .eret s = .next (s.raise s.cur ⟨0x02, 0⟩ s.me.pc 0 0)) ∧
    (1 ≤ modeLevel s → s.me.y.inTrap = false → exec .eret s = .next (s.raise s.cur ⟨0x01, 0⟩ s.me.pc 0 0)) ∧
    (s.me.y.inTrap = true → exec .endj s = .next (s.raise s.cur ⟨0x01, 0⟩ s.me.pc 0 0))) ∧
  (∀ (s : State) (sz : CSize) (op : AmoOp) (dword : Bool) (scope : Scope) (d a b : BitVec 5) (imm : BitVec 12),
    s.me.waits [d, a, b] [] = false → (∀ g ∈ s.me.fences, s.fenceHolds s.cur g = false) →
    s.fenceHolds s.cur ⟨s.me.ord + 1, .ls, scope⟩ = false →
    let traps := fun (i : Instr) (t n right : Nat) (reads : Option AccKind) =>
      (t % n ≠ 0 → exec i s = .next (s.raise s.cur ⟨0x05, t⟩ s.me.pc 0 0)) ∧
      (t % n = 0 → ∀ f, s.checkAt (s.issuer s.cur) (ccIsVa t) t n right = .error f →
        exec i s = .next (s.raise s.cur f s.me.pc 0 0)) ∧
      (∀ k, reads = some k → t % n = 0 → Admitted s t n right k → ¬Clean s t n →
        exec i s = .next ((afterRead s t n).raise s.cur ⟨0x30, t⟩ s.me.pc 0 0))
    traps (.ldc sz d a imm) (s.me.getS a + imm.signExtend 64).toNat (sizeBytes sz) rR (some .load) ∧
    traps (.stc sz d a imm) (s.me.getS a + imm.signExtend 64).toNat (sizeBytes sz) rW none ∧
    traps (.amo op dword scope d a b) (s.me.getS a).toNat (if dword then 8 else 4) rA (some .both))

/-- 20 R406, R409; 04 R110: a fault of a slot that handles no trap, whose cut can be taken, whose trap block can be used and whose handler can be fetched:
the registers of the trap hold its cause, program counter and information, the level before it is kept, the handler runs at scheduler level, and the
handler's address is fetched next. A fault that had to wait for its cut is taken by TRAP_ENTRY in the same way. Rests on the model's choice or
reading: what may go on while a trap waits for its cut (log 43). -/
def Obligations.TrapEntry : Prop :=
  ∀ (s : State) (n : Nat) (f : Flt) (tag : Word) (cls src vec : Nat),
    (s.slot n).y.inTrap = false → s.cutReady n (decide (src = 3 ∧ f.code = 0x13)) = true →
    let u := (s.takeCut n).upSlot n fun x => x.trapRegs f cls
    let v := (u.putBlock n ((u.slot n).trapBlock tag src f.info)).upSlot n Slot.trapMode
    u.trapVec n = some vec → vec ≠ 0 → (∃ bs, v.fetch (v.schedIssuer n) vec 4 = .ok bs) →
    let taken := fun (t : State) =>
      let y := (t.slot n).y
      y.inTrap = true ∧ y.level = 1#2 ∧ y.prevLevel = (s.slot n).y.level ∧
        y.cause = BitVec.ofNat 32 (cls * 2 ^ 16 + f.code) ∧ y.trapInfo = BitVec.ofNat 64 f.info ∧
        ((s.slot n).hold = .free → y.trapPc = (s.slot n).pc) ∧
        (t.slot n).pc = BitVec.ofNat 64 vec ∧ (t.slot n).drain = none
    ((s.slot n).drain = none → taken (s.raise n f tag cls src)) ∧
    (n = s.cur → cls < 8 → (s.slot n).drain = some (f, tag, src * 8 + cls) → ∃ t, exec .trapEntry s = .next t ∧ taken t)

/-- 05 R134, 20 R411: ERET at scheduler level, in a handler with no latch to deliver, restores the level, leaves the handler and goes on at TRAP_PC; the
trap registers keep their values. 05 R136: ENDJ ends the part that runs: a prologue goes to the kernel, or with a trip count of 0 to the epilogue; a
kernel iteration to the next one, the last to the epilogue; an epilogue ends the job's words. NOP only moves on (05 R138). -/
def Obligations.ReturnsAndParts : Prop :=
  (∀ (s : State), 1 ≤ modeLevel s → s.me.y.inTrap = true → s.me.anyLatch = false →
    ∃ t, exec .eret s = .next t ∧ t.me.y = { s.me.y with level := s.me.y.prevLevel, inTrap := false } ∧
      t.me.pc = s.me.y.trapPc ∧ t.me.r = s.me.r ∧ (∀ n, n ≠ s.cur → t.slot n = s.slot n) ∧ SameMemory (s.readFlags s.cur) t) ∧
  (∀ (s : State),
    (∃ t, exec .nop s = .next t ∧ OnlySlot s t ∧ t.me = { s.me with pc := s.me.pc + 4#64 }) ∧
    (s.me.y.inTrap = false → ∃ t, exec .endj s = .next t ∧ OnlySlot s t ∧ t.me.r = s.me.r ∧ t.me.y = s.me.y ∧ t.me.e = s.me.e ∧
      let j := s.me.job
      let u := t.me.job
      match j.part with
      | .prologue =>
        if j.trip = 0 then u.part = .epilogue ∧ t.me.pc = j.epiloguePc
        else u.part = .kernel ∧ u.iter = 0 ∧ t.me.pc = j.kernelPc
      | .kernel =>
        if j.iter + 1 < j.trip then u.part = .kernel ∧ u.iter = j.iter + 1 ∧ t.me.pc = j.kernelPc
        else u.part = .epilogue ∧ t.me.pc = j.epiloguePc
      | .epilogue => u.part = .ended ∧ t.me.pc = s.me.pc + 4#64
      | .idle => u.part = .idle
      | .ended => u.part = .ended))

/-- 03 R83, R89; 05 R131, R135; 01 R27; 08 R201: REGION moves on, and holds the dispatcher where the mode changes; REGION_RESUME changes the mode once the
slot has drained, and no PD waits across it; ARB_MODE_TAKE_EFFECT gives the tile its mode or window once MX has no command started and not retired; TDEF
writes its template entry; YIELD and FENCE move on: the quanta that the slot holds end after the last command dispatched before the first YIELD, and a
fence stands at its place in program order. -/
def Obligations.RegionsAndFences : Prop :=
  ∀ (s : State),
    (∀ b, ∃ t, exec (.region b) s = .next t ∧ OnlySlot s t ∧
      t.me = { s.me with pc := s.me.pc + 4#64, hold := if s.me.y.scoreboard = b then s.me.hold else .region b }) ∧
    (∀ b, s.me.hold = .region b → s.me.drained = true →
      ∃ t, exec .regionResume s = .next t ∧ OnlySlot s t ∧
        t.me = { s.me with hold := .free, y := { s.me.y with scoreboard := b }, e := t.me.e } ∧
        ∀ e, t.me.eng e = { s.me.eng e with bounds := [] }) ∧
    (∀ win v, s.me.hold = .arb win v → (∀ b, (s.tile (s.cur / 8)).busy = some b → b.done = true) →
      ∃ t, exec .arbModeTakeEffect s = .next t ∧ t.me = { s.me with hold := .free } ∧
        (∀ k, k ≠ s.cur / 8 → t.tile k = s.tile k) ∧
        (if win then (t.tile (s.cur / 8)).stamped = (s.tile (s.cur / 8)).stamped ∧
            (t.tile (s.cur / 8)).windowLen = windowOf v.toNat
          else (t.tile (s.cur / 8)).stamped = v.getLsbD 0 ∧
            (t.tile (s.cur / 8)).windowLen = (s.tile (s.cur / 8)).windowLen ∧
            ((s.tile (s.cur / 8)).stamped ≠ v.getLsbD 0 → (t.tile (s.cur / 8)).holdMx = none))) ∧
    (∀ (cls : BitVec 3) (index : BitVec 6) (w : BitVec 80), 1 ≤ cls.toNat → cls.toNat ≤ 5 →
      ∃ t, exec (.tdef cls index w) s = .next t ∧ OnlySlot s t ∧
        t.me = { s.me with pc := s.me.pc + 12#64, tmpl := t.me.tmpl } ∧
        (∀ (c : BitVec 3) (j : BitVec 6), mget 0#80 t.me.tmpl (tmplKey c j) =
          if c = cls ∧ j = index then w else mget 0#80 s.me.tmpl (tmplKey c j))) ∧
    (∃ t, exec .yieldQ s = .next t ∧ OnlySlot s t ∧
      t.me = { s.me with pc := s.me.pc + 4#64, yieldVx := t.me.yieldVx, yieldCp := t.me.yieldCp } ∧
      let point := fun (q : Option Quantum) (first : Option Nat) (e : EngQ) =>
        if q.map (·.slot) = some s.cur then some (first.getD e.seqNo.toNat) else first
      ((∀ en ∈ s.me.e.vx.entries, en.ord ≤ s.me.ord) → t.me.yieldVx = point (s.tile (s.cur / 8)).holdVx s.me.yieldVx s.me.e.vx) ∧
      ((∀ en ∈ s.me.e.cp.entries, en.ord ≤ s.me.ord) → t.me.yieldCp = point (s.tile (s.cur / 8)).holdCp s.me.yieldCp s.me.e.cp)) ∧
    (∀ kind scope, ∃ t, exec (.fence kind scope) s = .next t ∧ OnlySlot s t ∧
      t.me = { s.me with
        pc := s.me.pc + 4#64
        ord := s.me.ord + 1
        fences := s.me.fences ++ [⟨s.me.ord + 1, kind, scope⟩] })

/-- 09 R226, R227: LDC in both forms, naturally aligned and admitted, loads S[d] with the bytes at its address, extended as its size says; memory and
every other register are unchanged. 07 R183, R185; 12 R270, R283: what an access finds in winter is fresh when it reaches it, and what was queued before it
is performed; where nothing of that is due, its arrival changes no byte. -/
def Obligations.ControlLoads : Prop :=
  (∀ (s : State) (ks : List (Nat × Nat)), AtRest s ks → SameMemory s (arrived s ks)) ∧
  ∀ (s : State) (sz : CSize) (d a : BitVec 5) (imm : BitVec 12) (disp : W32), s.me.waits [d, a] [] = false →
    let done := fun (i : Instr) (t : Nat) (len : Word) =>
      t % sizeBytes sz = 0 → Admitted s t (sizeBytes sz) rR .load → Clean s t (sizeBytes sz) →
      ∃ u, exec i s = .next u ∧ WritesS s u d (loaded sz (valueAt s t (sizeBytes sz))) ∧
        u.me = { s.me with pc := s.me.pc + len, r := { s.me.r with s := u.me.r.s } } ∧
        OnlyRead s u t (sizeBytes sz) ∧ ∀ n, n ≠ s.cur → u.slot n = s.slot n
    done (.ldc sz d a imm) (s.me.getS a + imm.signExtend 64).toNat 4#64 ∧
    done (.ldcLong sz d a disp) (s.me.getS a + disp.signExtend 64).toNat 8#64

/-- 09 R226, R227: STC in both forms stores the low bytes of S[d] at its address; every other byte of memory reads as before, and of the moving slot only
the program counter changes. -/
def Obligations.ControlStores : Prop :=
  ∀ (s : State) (sz : CSize) (d a : BitVec 5) (imm : BitVec 12) (disp : W32), s.me.waits [d, a] [] = false →
    let done := fun (i : Instr) (t : Nat) (len : Word) =>
      t % sizeBytes sz = 0 → Admitted s t (sizeBytes sz) rW .store →
      ∃ u, exec i s = .next u ∧ Stored s u t (sizeBytes sz) (s.me.getS d).toNat ∧
        u.me = { s.me with pc := s.me.pc + len } ∧ OthersCount s u
    done (.stc sz d a imm) (s.me.getS a + imm.signExtend 64).toNat 4#64 ∧
    done (.stcLong sz d a disp) (s.me.getS a + disp.signExtend 64).toNat 8#64

/-- 09 R228, 08 R202: AMO stores the new value at S[a] and gives S[d] the old one, sign-extended; every other byte of memory reads as before. -/
def Obligations.ControlAtomics : Prop :=
  ∀ (s : State) (op : AmoOp) (dword : Bool) (scope : Scope) (d a b : BitVec 5), s.me.waits [d, a, b] [] = false →
    let n := if dword then 8 else 4
    let t := (s.me.getS a).toNat
    s.fenceHolds s.cur ⟨s.me.ord + 1, .ls, scope⟩ = false → t % n = 0 → Admitted s t n rA .both → Clean s t n →
    let old := BitVec.ofNat (8 * n) (valueAt s t n)
    let new := amoLeft op old ((s.me.getS b).setWidth (8 * n)) ((s.me.getS d).setWidth (8 * n))
    ∃ u, exec (.amo op dword scope d a b) s = .next u ∧ Stored s u t n new.toNat ∧ WritesS s u d (old.signExtend 64) ∧
      u.me = { s.me with pc := s.me.pc + 4#64, r := { s.me.r with s := u.me.r.s } } ∧ OthersCount s u

/-- 17 R367 to R372, 15 R330, R331 to R333, R337 to R341, R344, 16 R362: TBW of buffers, page map, grant lists, the node id and trap setup, SHARDW, FMMUW
and PROTW, at their level, with an index in range: when no rule of the entry refuses the image, the entry takes the image's fields and the status is
0; otherwise the status names the rule and no entry changes. A page-map entry is eight bytes of page-map memory; every other byte is unchanged. Rests on
the model's choice or reading: where page-map memory lies (log 40). -/
def Obligations.TableWrites : Prop :=
  ∀ (s s1 : State) (d a b : BitVec 5) (i : Instr) (code lvl n v : Nat) (refuse : State → Nat → Nat → Nat),
    tableWord d a b i = some (code, lvl, refuse) → s.me.waits [d, a, b] [] = false → lvl ≤ s.me.y.level.toNat →
    ImageRead s (s.me.getS b).toNat (imageBytes code) s1 v →
    s1.tabIndex code (s.me.getS a).toNat = some n →
    let img := keepBits (tabFields code) v
    let st := refuse s1 n img
    ∃ u, exec i s = .next u ∧ Answered s1 u d (BitVec.ofNat 64 st) ∧ (code ≠ 0x01 → u.mem = s1.mem) ∧
      (∀ k, (code = 0x01 → k < pmapKey n ∨ pmapKey n + 8 ≤ k) → u.byte k = s1.byte k) ∧
      (st = 0 → ∀ c j, j < 2 ^ 44 → u.entry c j = if c = code ∧ j = n then img else s1.entry c j) ∧
      (st ≠ 0 → u.tab = s1.tab ∧ u.mem = s1.mem) ∧
      (st = 0 → code ≤ 7 → u.pend = s1.pend ++ [⟨tkey code n, s1.entry code n, s.cur, s.me.ord⟩])

/-- 17 R369, R371, R372: an index out of range gives status 1 and a table that TBW does not write status 5, with no entry changed. 17 R367, R375, 15 R330:
a table word below its level raises PRIV; TLBI moves on, drops the copies that it names from the caches, and leaves a change that FENCE.SC waits for; a
change is in force once nothing that translated before it is still due, a TLBI then ends the older changes that it covers, and the regions that left a VF
segment are freed. Rests on the model's choice or reading: the statuses of codes that name no table (log 19), what a cache holds (logs 41, 69). -/
def Obligations.TableStatuses : Prop :=
  (∀ (s s1 : State) (d a b : BitVec 5) (v : Nat), s.me.waits [d, a, b] [] = false → 2 ≤ s.me.y.level.toNat →
    let done := fun (i : Instr) (code st : Nat) =>
      ImageRead s (s.me.getS b).toNat (imageBytes code) s1 v →
      ∃ u, exec i s = .next u ∧ Answered s1 u d (BitVec.ofNat 64 st) ∧ u.tab = s1.tab ∧ u.mem = s1.mem
    let out := fun (code : Nat) => s1.tabIndex code (s.me.getS a).toNat = none
    (∀ code ∈ ([0x00, 0x01, 0x02, 0x03, 0x0A, 0x0B, 0x12, 0x13, 0x14, 0x17] : List Nat),
      out code → done (.tbw d a b (BitVec.ofNat 7 code)) code 1) ∧
    (∀ code ∈ ([0x04, 0x05, 0x06, 0x07, 0x08, 0x09, 0x0C, 0x0D, 0x10, 0x11, 0x15, 0x16] : List Nat),
      done (.tbw d a b (BitVec.ofNat 7 code)) code 5) ∧
    (∀ owner, out (if owner then 0x07 else 0x06) → done (.shardw d a b owner) (if owner then 0x07 else 0x06) 1) ∧
    (∀ mmu, out (if mmu then 0x05 else 0x04) → done (.fmmuw d a b mmu) (if mmu then 0x05 else 0x04) 1) ∧
    (∀ q, out (if q then 0x16 else 0x10) → done (.ctxw d a b q) (if q then 0x16 else 0x10) 1) ∧
    (out 0x11 → done (.curw d a b) 0x11 1) ∧ (out 0x08 → done (.keyw d a b) 0x08 1) ∧ (out 0x09 → done (.protw d a b) 0x09 1)) ∧
  (∀ (s : State) (d a b : BitVec 5), s.me.waits [d, a, b] [] = false →
    let priv := State.raise s s.cur ⟨0x02, 0⟩ s.me.pc 0 0
    (s.me.y.level.toNat < 1 → ∀ (code : BitVec 7) (f : Bool) (sc : TlbiScope),
      exec (.tbw d a b code) s = .next priv ∧ exec (.tbr d a b code) s = .next priv ∧ exec (.shardw d a b f) s = .next priv ∧
      exec (.shardr d a b) s = .next priv ∧ exec (.curw d a b) s = .next priv ∧ exec (.ctxw d a b f) s = .next priv ∧
      exec (.fmmuw d a b f) s = .next priv ∧ exec (.tlbi sc a) s = .next priv) ∧
    (s.me.y.level.toNat < 2 → exec (.keyw d a b) s = .next priv ∧ exec (.protw d a b) s = .next priv ∧
      exec (.tbw d a b 0x0A#7) s = .next priv) ∧
    (1 ≤ s.me.y.level.toNat → ∀ sc, ∃ u, exec (.tlbi sc a) s = .next u ∧
      u.pend = s.pend ++ [⟨tlbiKey sc (s.me.getS a).toNat, 0, s.cur, s.me.ord⟩] ∧
      (∀ id, mget [] u.caches id = (mget [] s.caches id).filter fun tag => !s.tlbiDrops sc (s.me.getS a).toNat id tag) ∧
      u.me = { s.me with pc := s.me.pc + 4#64 } ∧ u.tab = s.tab ∧ u.mem = s.mem) ∧
    (∀ n p, s.pend[n]? = some p → p.key / 2 ^ 44 ≠ 0x13 → p.slot ≠ noSlot → s.nothingTranslated = true →
      ∃ u, exec (.tableWriteInForce n) s = .next u ∧ u.tab = s.tab ∧ u.mem = s.mem ∧ u.slots = s.slots ∧
        (tlbiOf p.key = none → u.pend = dropNth s.pend n) ∧
        (∀ sc v, tlbiOf p.key = some (sc, v) →
          u.pend = ((s.pend.take n).filter fun q => !s.tlbiCovers sc v q.key) ++ s.pend.drop (n + 1)) ∧
        (p.key / 2 ^ 44 = 3 → ∀ k, k < 16 → (s.stack k).out = false →
          (u.stack k).toStack = (s.stack k).toStack ++ (s.leftRegions p.old).map fun r => .season 1 r.1 (r.2 - r.1))))

/-- 16 R347, R348, 15 R343, 17 R373, 12 R280: CURW gives a node its image with DEPTH that of its parent plus 1; KEYW writes its id in every base die in
service; CTXW writes a context, and destroys a queue, whose generation then rises. 17 R367 to R372, R376, 15 R328: TBR stores the image of an entry
and gives status 0; an index out of range stores nothing. SHARDR with a rank or an element size out of its range gives status 2 and stores nothing; through
a valid buffer of its tenant it gives status 7 and stores nothing where a check of R340 or R222 would raise SHARD_RANGE, and otherwise stores the offset,
the node and the handle of the element's owner and gives status 0.
Rests on the model's choice or reading: KEYW in force at once and the rights of SHARDR (log 42). -/
def Obligations.TableReads : Prop :=
  (∀ (s s1 : State) (d a b : BitVec 5) (n v : Nat), s.me.waits [d, a, b] [] = false → 1 ≤ s.me.y.level.toNat →
    let read := fun (code : Nat) => ImageRead s (s.me.getS b).toNat (imageBytes code) s1 v ∧
      s1.tabIndex code (s.me.getS a).toNat = some n
    let img := fun (code : Nat) => keepBits (tabFields code) v
    (read 0x11 → s1.refuseCurrency n (img 0x11) = 0 →
      ∃ u, exec (.curw d a b) s = .next u ∧ Answered s1 u d 0#64 ∧
        ∀ c j, j < 2 ^ 44 → u.entry c j = if c = 0x11 ∧ j = n then
          natSetBits (img 0x11) 62 61 (if n ≤ 256 then 1 else curDepth (s1.currency (curParent (img 0x11))) + 1) else s1.entry c j) ∧
    (read 0x08 → 2 ≤ s.me.y.level.toNat →
      ∃ u, exec (.keyw d a b) s = .next u ∧ Answered s1 u d 0#64 ∧
        ∀ k, k < 16 → u.entry 0x08 (k * 1024 + n) = if (s1.stack k).out then s1.entry 0x08 (k * 1024 + n) else v % 2 ^ 513) ∧
    (read 0x10 → s1.refuseContext n (img 0x10) = 0 →
      ∃ u, exec (.ctxw d a b false) s = .next u ∧ Answered s1 u d 0#64 ∧
        ∀ c j, j < 2 ^ 44 → u.entry c j = if c = 0x10 ∧ j = n then img 0x10 else s1.entry c j) ∧
    (read 0x16 → qValid (s1.entry 0x16 n) = true → qValid v = false → qGen (s1.entry 0x16 n) < 4095 →
      ∃ u, exec (.ctxw d a b true) s = .next u ∧ Answered s1 u d 0#64 ∧ qValid (u.entry 0x16 n) = false ∧
        qGen (u.entry 0x16 n) = qGen (s1.entry 0x16 n) + 1)) ∧
  (∀ (s : State) (d a b : BitVec 5) (code : BitVec 7), s.me.waits [d, a, b] [] = false → 1 ≤ s.me.y.level.toNat →
    let t := (s.me.getS b).toNat
    let n := imageBytes code.toNat
    let slots := fun (u : State) => u.me = { s.me with pc := s.me.pc + 4#64, r := { s.me.r with s := u.me.r.s } } ∧ OthersCount s u
    (t % 8 = 0 → Admitted s t n rW .store → ∀ i, s.tabIndex code.toNat (s.me.getS a).toNat = some i →
      ∃ u, exec (.tbr d a b code) s = .next u ∧ WritesS s u d 0#64 ∧ Stored s u t n (s.tabImage code.toNat i) ∧ slots u) ∧
    (t % 8 = 0 → Admitted s t n rW .store → s.tabIndex code.toNat (s.me.getS a).toNat = none →
      ∃ u, exec (.tbr d a b code) s = .next u ∧ WritesS s u d 1#64 ∧ SameMemory s u ∧ slots u) ∧
    (t % 8 = 0 → Admitted s t 56 rW .both → Admitted s t 56 rR .both → Clean s t 56 →
      let v := valueAt s t 56
      let r := v / 2 ^ 256 % 2 ^ 8
      let e := v / 2 ^ 264 % 2 ^ 8
      let s1 := afterRead s t 56
      let answers := fun (st : Nat) => ∃ u, exec (.shardr d a b) s = .next u ∧ WritesS s u d (BitVec.ofNat 64 st) ∧ OnlyRead s u t 56 ∧ slots u
      if r < 1 ∨ 4 < r ∨ e ∉ ([1, 2, 4] : List Nat) then answers 2
      else
        let buf := s1.see 0x00 (vaIndex (s.me.getS a).toNat)
        (s.me.getS a).toNat / 2 ^ 60 = 0 → vaIndex (s.me.getS a).toNat ≠ 0 → natBit buf 255 = true →
        s1.ownerOk (s1.issuer s.cur) buf = true →
        match shardFound s1 buf e r fun k => v / 2 ^ (64 * k) % 2 ^ 64 with
        | none => answers 7
        | some (o, off) => ∃ u, exec (.shardr d a b) s = .next u ∧ WritesS s u d 0#64 ∧ slots u ∧
            StoredAt s1 u (((bytesAt s t 56).drop 40).take 16) fun j =>
              BitVec.ofNat 8 ((off % 2 ^ 64 + (natBits o 126 115 * 2 ^ 32 + natBits o 114 95) * 2 ^ 64) / 256 ^ j)))

/-- 03 R70, 13 R296, 14 R316: a class 6 word is placed when SY's queue has room and no register that it captures is owed a write: it stands at the end of the
queue with its captured registers, under the next sequence number, and its destinations are owed a write; the program counter moves on and no register
changes yet. -/
def Obligations.SyncWordsPlaced : Prop :=
  ∀ (s : State) (i : Instr) (srcs sd : List (BitVec 5)) (pd : List (BitVec 3)),
    s.phase = .dispatch → syWord i = some (srcs, sd, pd) → s.me.room .sy = true → s.me.waits srcs [] = false →
    ∃ u en, exec i s = .next u ∧ OnlySlot s u ∧
      u.me = { s.me with
        pc := s.me.pc + 4#64
        ord := s.me.ord + 1
        e := { s.me.e with sy := { s.me.e.sy with
          entries := s.me.e.sy.entries ++ [en]
          seqNo := s.me.e.sy.seqNo + 1#32 } } } ∧
      en.cmd = .sy i ∧ en.tag = s.me.pc ∧ en.seq = s.me.e.sy.seqNo + 1#32 ∧ en.ord = s.me.ord + 1 ∧
      (∀ r ∈ srcs, en.cap r = s.me.getS r) ∧ (∀ r ∈ sd, en.writesS r = true) ∧ ∀ p ∈ pd, en.writesP p = true

/-- 14 R317, R318, 13 R306, R307: ENQ by its tenant appends its entry to a queue with room and sets P[d]; at a full queue it clears P[d] and changes
nothing else. 14 R317, R318, R319: DEQ and PEEK give S[d] the low dword of the entry at the head and set P[p], and with IND store the entry at S[b];
DEQ removes it. An empty queue gives S[d] 0 and clears P[p]. QSTAT gives S[d] the fields of the record. Rests on the model's choice or reading: that a
handle is the low 32 bits of its register (log 18) and the scopes of queues (log 35). -/
def Obligations.Queues : Prop :=
  (∀ (s : State) (en : Entry) (p : BitVec 3) (a b : BitVec 5) (ind : Bool), s.phase = .issue en →
    let h := (en.cap a).toNat % 2 ^ 32
    let k := queueKey h
    let q := s.entry 0x16 k
    let t := (en.cap b).toNat
    OwnQueue s h → SyClear s en (qScope q) (dieHome (k / 4096)) .store →
    (ind = true → IndClear s en t (qEsize q) rR .load ∧ Clean s t (qEsize q)) →
    let v := if ind then BitVec.ofNat 512 (valueAt s t (qEsize q)) else (en.cap b).setWidth 512
    ∃ u, exec (.enq p a b ind) s = .next u ∧ SyDone s u en ∧ SameS s u ∧ WritesP s u p (decide (qOcc q ≠ qCap q)) ∧
      (if ind then OnlyRead s u t (qEsize q) else SameMemory s u) ∧
      if qOcc q = qCap q then u.entry 0x16 k = q ∧ u.qdata = s.qdata
      else qTail (u.entry 0x16 k) = (qTail q + 1) % 2 ^ 16 ∧ qHead (u.entry 0x16 k) = qHead q ∧
        ∀ j, mget 0#512 u.qdata j = if j = qSlotKey k (qTail q) then v else mget 0#512 s.qdata j) ∧
  (∀ (s : State) (en : Entry) (d a b : BitVec 5) (p : BitVec 3) (ind : Bool), s.phase = .issue en →
    let h := (en.cap a).toNat % 2 ^ 32
    let k := queueKey h
    let q := s.entry 0x16 k
    let t := (en.cap b).toNat
    let e := mget 0#512 s.qdata (qSlotKey k (qHead q))
    OwnQueue s h → SyClear s en (qScope q) (dieHome (k / 4096)) .load →
    let takes := fun (i : Instr) (take : Bool) =>
      (ind = true → IndClear s en t (qEsize q) rW .store) →
      ∃ u, exec i s = .next u ∧ SyDone s u en ∧ WritesS s u d (if qOcc q = 0 then 0#64 else e.setWidth 64) ∧
        WritesP s u p (decide (qOcc q ≠ 0)) ∧
        (if qOcc q = 0 ∨ ind = false then SameMemory s u else Stored s u t (qEsize q) e.toNat) ∧
        qTail (u.entry 0x16 k) = qTail q ∧
        qHead (u.entry 0x16 k) = (if qOcc q ≠ 0 ∧ take = true then (qHead q + 1) % 2 ^ 16 else qHead q) ∧
        ∀ j, j ≠ qSlotKey k (qHead q) → mget 0#512 u.qdata j = mget 0#512 s.qdata j
    takes (.deq d a b ind p) true ∧ takes (.peek d a b ind p) false ∧
    ∃ u, exec (.qstat d a) s = .next u ∧ SyDone s u en ∧ SameP s u ∧ SameMemory s u ∧
      WritesS s u d (BitVec.ofNat 64 ((if natBit q 126 then 2 ^ 34 else 0) + natBits q 125 124 * 2 ^ 32 + qCap q * 2 ^ 16 + qOcc q)))

/-- 14 R317: an operation on a queue under a stale handle raises QUEUE, and by another tenant OWNER, with the handle as TRAP_INFO. 19 R395, 20 R404: a
stale handle raises FUTURE, another tenant's OWNER, and REF or AWAIT of a reclaimed record FUTURE, each with the handle as TRAP_INFO. Rests on the
model's choice or reading: that a handle is the low 32 bits of its register (log 18) and the scopes of the objects (log 35). -/
def Obligations.SyncTraps : Prop :=
  (∀ (s : State) (en : Entry) (d a b : BitVec 5) (p : BitVec 3) (ind : Bool), s.phase = .issue en →
    let h := (en.cap a).toNat % 2 ^ 32
    let q := s.entry 0x16 (queueKey h)
    let sc := if qValid q then qScope q else .p
    SyClear s en sc (dieHome (queueKey h / 4096)) .store → SyClear s en sc (dieHome (queueKey h / 4096)) .load →
    let all := fun (f : Flt) => ∀ i ∈ [Instr.enq p a b ind, .deq d a b ind p, .peek d a b ind p, .qstat d a],
      exec i s = .next (s.raise s.cur f en.tag 6 6)
    (s.queueStale h = true → all ⟨0x42, h⟩) ∧
    (s.queueStale h = false → qTenant q ≠ s.me.y.tenant.toNat → all ⟨0x12, h⟩)) ∧
  (∀ (s : State) (en : Entry) (d : BitVec 3) (a : BitVec 5), s.phase = .issue en →
    let h := (en.cap a).setWidth 32
    let f := s.future (futSlot h)
    FutClear s en h .both → FutClear s en h .load →
    let trap := fun (i : Instr) (c : Nat) => exec i s = .next (s.raise s.cur ⟨c, h.toNat⟩ en.tag 6 6)
    (s.futStale h = true → ∀ i ∈ [Instr.refF d a, .dropF d a, .await d a], trap i 0x41) ∧
    (s.futStale h = false → ctxTenant (s.context f.ctx) ≠ s.me.y.tenant.toNat →
      ∀ i ∈ [Instr.refF d a, .dropF d a, .await d a], trap i 0x12) ∧
    (OwnFuture s h → f.state = .reclaimed → ∀ i ∈ [Instr.refF d a, .await d a], trap i 0x41))

/-- 14 R320, 18 R388: ENQR through a window that may be written sends its request and sets P[d], or clears P[d] when its VF has no credit that an earlier request does not take; an outcome that
returned adds 1 to its field of the remote-status counter, which stays at its top. 14 R321, R322: TOKP of an allowed route changes it at dispatch, and
another raises ILLEGAL; RNDV holds the dispatcher until the engines' queues are empty and everything issued is done. Rests on the model's choice or
reading: the reserved bits of ENQR (log 15). -/
def Obligations.RemoteEnqueueAndRoutes : Prop :=
  ((∀ (s : State) (en : Entry) (d : BitVec 3) (a b : BitVec 5) (c : BitVec 4) (e : Nat), s.phase = .issue en →
    let w := (en.cap a).toNat / 2 ^ 32
    (en.cap a).toNat < 2 ^ 44 → SyClear s en .f (farHome (w % 4096)) .store →
    s.checkWindow s.cur s.me.y.tenant.toNat (w * 2 ^ 40) [(0, 0)] 125 = .ok e →
    let st := s.station (stationFor (winNode e) (dieOf s.cur))
    let free := st.freeCredit (s.vfOfCtx s.me.y.ctx.toNat)
    st.streamOut (streamOf (dieOf s.cur) 0 (winNode e)) < 1024 →
    ∃ u, exec (.enqr d a b c) s = .next u ∧ SyDone s u en ∧ SameS s u ∧ WritesP s u d (decide (free ≠ 0)) ∧ u.mem = s.mem ∧
      u.stations = if free = 0 then s.stations
        else (s.request s.cur (.enqr c) w 0 .enqr 0xFF#64 ((en.cap b).setWidth 512) ((en.cap a).setWidth 32)).stations) ∧
  (∀ (s : State) (c : BitVec 4) (o : EnqrOutcome) (r : List (BitVec 4 × EnqrOutcome)), s.me.outcomes = (c, o) :: r →
    ∃ u, exec .enqrOutcome s = .next u ∧ OnlySlot s u ∧ u.me = { s.me with outcomes := r, rsc := u.me.rsc } ∧
      (∀ j, j ≠ c.toNat → mget 0#64 u.me.rsc j = mget 0#64 s.me.rsc j) ∧
      ∀ o', let f := fun (w : Word) => (w.extractLsb' (outcomeLo o') 16).toNat
        f (mget 0#64 u.me.rsc c.toNat) =
          if o' = o then min 0xFFFF (f (mget 0#64 s.me.rsc c.toNat) + 1) else f (mget 0#64 s.me.rsc c.toNat))) ∧
  (∀ (s : State) (en : Entry),
    (∀ (eng fifo : BitVec 3) (out : Bool) (e : Engine), s.phase = .dispatch → tokEngine eng = some e →
      s.me.room .sy = true → tokAllowed e out fifo = true →
      ∃ u, exec (.tokp eng fifo out) s = .next u ∧ OnlySlot s u ∧ u.me.pc = s.me.pc + 4#64 ∧ u.me.r = s.me.r ∧
        (∀ g, if out then u.me.routeIn g = s.me.routeIn g ∧ u.me.routeOut g = if g = e then fifo else s.me.routeOut g
          else u.me.routeOut g = s.me.routeOut g ∧ u.me.routeIn g = if g = e then fifo else s.me.routeIn g)) ∧
    (∀ (eng fifo : BitVec 3) (out : Bool), s.phase = .dispatch → (∀ e, tokEngine eng = some e → tokAllowed e out fifo = false) →
      exec (.tokp eng fifo out) s = .next (s.raise s.cur ⟨0x01, 0⟩ s.me.pc 6 0)) ∧
    (s.phase = .dispatch → s.me.room .sy = true →
      ∃ u, exec .rndv s = .next u ∧ OnlySlot s u ∧ u.me.pc = s.me.pc + 4#64 ∧ u.me.r = s.me.r ∧ u.me.hold = .rndv) ∧
    (Waiting s en .rndv → s.me.hold = .rndv → s.rndvMay = true →
      ∃ u, exec .rndvRetire s = .next u ∧ u.me.hold = .free ∧ u.me.e.sy = ({ s.me.e.sy with active := none } : EngQ).retire en.seq ∧
        u.me.r = s.me.r ∧ OnlySlot s u))

/-- 14 R323 to R325, 18 R387: SYNC and ARRIVE arrive, once a phase, with the bytes still expected; SYNC.W waits for the phase that has arrived, or ends at
once where it has closed; the phase closes when every member has arrived and none expects a byte: every member goes to the next phase with the bytes
that came early for it, and a SYNC that waits for the close ends. Rests on the model's choice or reading: the members of a ring domain in other packages
(log 78). -/
def Obligations.Phases : Prop :=
  (∀ (s : State) (a : BitVec 5), s.phase = .dispatch → s.me.room .sy = true → s.me.waits [a] [] = false →
    ∀ i ∈ [Instr.sync a, .syncW], ∃ u en, exec i s = .next u ∧ OnlySlot s u ∧ u.me.pc = s.me.pc + 4#64 ∧ u.me.r = s.me.r ∧
      u.me.e.sy.entries = s.me.e.sy.entries ++ [en] ∧ en.cmd = .sy i) ∧
  (∀ (s : State) (en : Entry) (a : BitVec 5), s.phase = .issue en →
    let sc := scopeOfDomain en.domain
    SyClear s en sc (scopeHome s.cur sc) .store →
    (s.me.dom.arrived = false → s.me.dom.rx.toNat ≤ (en.cap a).toNat % 2 ^ 32 → s.me.dom.rx ≠ BitVec.allOnes 32 →
      let came := fun (u : State) => u.me.dom.arrived = true ∧ u.me.dom.phase = s.me.dom.phase ∧
        u.me.dom.rx = (en.cap a).setWidth 32 - s.me.dom.rx ∧ u.me.dom.overrun = s.me.dom.overrun ∧ u.me.r = s.me.r ∧ OnlySlot s u
      (∃ u, exec (.arrive a) s = .next u ∧ came u ∧ u.me.e.sy = ({ s.me.e.sy with active := none } : EngQ).retire en.seq) ∧
      (en.arrivedIn = false → ∃ u en', exec (.sync a) s = .next u ∧ came u ∧
        u.me.e.sy = { s.me.e.sy with active := some en' } ∧ en'.arrivedIn = true ∧ en' = { en with caps := en'.caps })) ∧
    (s.me.dom.arrived = true → ∀ i ∈ [Instr.arrive a, .sync a], en.arrivedIn = false →
      exec i s = .next (s.raise s.cur ⟨0x01, 0⟩ en.tag 6 6))) ∧
  (∀ (s : State) (en : Entry), s.phase = .issue en → en.arrivedIn = false →
    (s.me.dom.arrived = true →
      ∃ u en', exec .syncW s = .next u ∧ OnlySlot s u ∧ u.me.r = s.me.r ∧ u.me.dom = s.me.dom ∧
        u.me.e.sy = { s.me.e.sy with active := some en' } ∧ en'.arrivedIn = true ∧ en' = { en with caps := en'.caps }) ∧
    (s.me.dom.arrived = false → ∀ p, s.me.dom.due = some p →
      ∃ u, exec .syncW s = .next u ∧ OnlySlot s u ∧ u.me.r = s.me.r ∧
        u.me.e.sy = ({ s.me.e.sy with active := none } : EngQ).retire en.seq ∧ u.me.dom = { s.me.dom with due := none }) ∧
    (s.me.dom.arrived = false → s.me.dom.due = none → exec .syncW s = .next (s.raise s.cur ⟨0x01, 0⟩ en.tag 6 6))) ∧
  (∀ (s : State) (team : Nat), let ms := s.domMembers team
    ms ≠ [] → ms.Nodup → ((∃ n ∈ ms, (s.slot n).ringWide ms.length = true) → s.farMembers team = 1) →
    (∀ n ∈ ms, (s.slot n).dom.arrived = true ∧ (s.slot n).dom.overrun = false ∧ (s.slot n).dom.rx = 0#32 ∧
      (s.slot n).y.inTrap = false ∧ (s.slot n).drain = none ∧ (s.slot n).job.stopped = false ∧ (s.slot n).job.preempted = false) →
    ∃ u, exec (.phaseClose team) s = .next u ∧ (∀ n, n ∉ ms → u.slot n = s.slot n) ∧ u.mem = s.mem ∧
      ∀ n ∈ ms, (u.slot n).dom.phase = (s.slot n).dom.phase + 1#32 ∧ (u.slot n).dom.arrived = false ∧
        (u.slot n).dom.rx = BitVec.ofNat 32 (s.slot n).dom.rxNext ∧ (u.slot n).dom.rxNext = 0 ∧ (u.slot n).r = (s.slot n).r ∧
        ∀ en, (s.slot n).e.sy.active = some en → en.arrivedIn = true → (u.slot n).e.sy.active = none)

/-- 14 R327, 19 R397: WAITC completes once its counter has reached its threshold or has ERR, and P[d] says which; below it, it waits. 18 R378, R380, 19
R403: CTRGET reads a counter, CTRSET writes a completion counter (bits 62:48 stay 0) or a remote-status counter, and CTRADD adds to a completion
counter's VALUE, clamped to 0 to 2^48 - 1, and leaves ERR; every other counter is unchanged. 19 R398, R401, R402, 02 R62: RPOINT goes on where the
task is not to be reclaimed; TKTSET gives S[d] the tickets of a context of its tenant and sets them, at most 2^32 - 1; TKTGET reads them; DRAW gives
the slot's next draw, scaled below the bound in S[a]. Rests on the model's choice or reading: the level that a counter operation is checked at (log
17), thresholds over 64 bits (log 37), scopes (log 35). -/
def Obligations.CountersAndDraws : Prop :=
  (∀ (s : State) (en : Entry) (d : BitVec 3) (a : BitVec 5) (id : BitVec 8),
    SyClear s en (s.dieScope s.myDie) (dieHome s.myDie) .load →
    let w := mget 0#64 s.counters (s.me.y.ctx.toNat * 256 + id.toNat)
    let reached := w.getLsbD 63 = true ∨ (en.cap a).toNat ≤ w.toNat % 2 ^ 48
    let head := Waiting s en (.waitc d a id)
    (reached → s.phase = .issue en → ∃ u, exec (.waitc d a id) s = .next u ∧ SyDone s u en ∧ SameS s u ∧
      WritesP s u d (!w.getLsbD 63) ∧ u.counters = s.counters) ∧
    (reached → head → ∃ u, exec .waitcSatisfied s = .next u ∧ SyDone s u en ∧ SameS s u ∧
      WritesP s u d (!w.getLsbD 63) ∧ u.counters = s.counters) ∧
    (¬reached → s.phase = .issue en → exec (.waitc d a id) s = .next s)) ∧
  (∀ (s : State) (en : Entry) (d a b : BitVec 5), s.phase = .issue en →
    let v := (en.cap a).toNat
    let idx := v % 4096
    let key := s.me.y.ctx.toNat * 256 + idx
    let old := mget 0#64 s.counters key
    let completion := v < 256
    let remote := v / 4096 = 1 ∧ idx < 16
    let here := fun (k : AccKind) => SyClear s en (s.dieScope s.myDie) (dieHome s.myDie) k
    (completion → here .load → ∃ u, exec (.ctrget d a) s = .next u ∧ SyDone s u en ∧ SameP s u ∧ WritesS s u d old ∧
      u.counters = s.counters) ∧
    (remote → SyClear s en .t (saTile (s.cur / 8)) .load →
      ∃ u, exec (.ctrget d a) s = .next u ∧ SyDone s u en ∧ SameP s u ∧ WritesS s u d (mget 0#64 s.me.rsc idx)) ∧
    (v = 3 * 4096 → SyClear s en .t (saTile (s.cur / 8)) .load →
      ∃ u, exec (.ctrget d a) s = .next u ∧ SyDone s u en ∧ SameP s u ∧ WritesS s u d s.dcc) ∧
    (completion → here .store → ∃ u, exec (.ctrset a b) s = .next u ∧ SyDone s u en ∧ u.me.r = s.me.r ∧
      ∀ j, mget 0#64 u.counters j = if j = key then en.cap b &&& 0x8000FFFFFFFFFFFF#64 else mget 0#64 s.counters j) ∧
    (remote → SyClear s en .t (saTile (s.cur / 8)) .store →
      ∃ u, exec (.ctrset a b) s = .next u ∧ OnlySlot s u ∧ u.me.r = s.me.r ∧
        ∀ j, mget 0#64 u.me.rsc j = if j = idx then en.cap b else mget 0#64 s.me.rsc j) ∧
    (completion → here .store → ∃ u, exec (.ctradd a b) s = .next u ∧ SyDone s u en ∧ u.me.r = s.me.r ∧
      (∀ j, j ≠ key → mget 0#64 u.counters j = mget 0#64 s.counters j) ∧
      let new := mget 0#64 u.counters key
      new.getLsbD 63 = old.getLsbD 63 ∧ (new.toNat / 2 ^ 48) % 2 ^ 15 = 0 ∧
      ((new.toNat % 2 ^ 48 : Nat) : Int) = max 0 (min (2 ^ 48 - 1) ((old.toNat % 2 ^ 48 : Nat) + (en.cap b).toInt))) ∧
    (2 ^ 16 ≤ v → (∀ k, SyClear s en .t (saTile (s.cur / 8)) k) →
      (∀ k, here k) → (∀ k, SyClear s en .d (dieHome (dieOf s.cur)) k) →
      ∀ i ∈ [Instr.ctrget d a, .ctrset a b, .ctradd a b], exec i s = .next (s.raise s.cur ⟨0x01, 0⟩ en.tag 6 6))) ∧
  (∀ (s : State) (en : Entry) (d a b : BitVec 5), s.phase = .issue en →
    let c := (en.cap a).toNat
    let e := s.entry 0x10 c
    let own := c < 4096 ∧ ctxValid e = true ∧ ctxTenant e = s.me.y.tenant.toNat
    (s.doomed s.cur = false →
      ∃ u, exec .rpoint s = .next u ∧ SyDone s u en ∧ u.me.r = s.me.r) ∧
    (own → SyClear s en .p (dieHome s.myDie) .both →
      ∃ u, exec (.tktset d a b) s = .next u ∧ SyDone s u en ∧ SameP s u ∧ WritesS s u d (BitVec.ofNat 64 (natBits e 98 67)) ∧
        (∀ k j, tkey k j ≠ tkey 0x10 c → u.entry k j = s.entry k j) ∧
        natBits (u.entry 0x10 c) 98 67 = min (en.cap b).toNat (2 ^ 32 - 1) ∧
        natBits (u.entry 0x10 c) 66 0 = natBits e 66 0 ∧ u.entry 0x10 c / 2 ^ 99 = e / 2 ^ 99) ∧
    (own → SyClear s en .p (dieHome s.myDie) .load →
      ∃ u, exec (.tktget d a 0#3) s = .next u ∧ SyDone s u en ∧ SameP s u ∧
        WritesS s u d (BitVec.ofNat 64 (natBits e 98 67)) ∧ u.tab = s.tab) ∧
    (c < 2 ^ 32 → SyClear s en .t (saTile (s.cur / 8)) .both →
      let v := (praline en.seed s.me.draws).toNat
      ∃ u, exec (.draw d a) s = .next u ∧ WritesS s u d (BitVec.ofNat 64 (if c = 0 then v else v * c / 2 ^ 32)) ∧
        u.me.draws = s.me.draws + 1#64 ∧ u.me.pc = s.me.pc ∧ OnlySlot s u))

/-- 19 R393, R394, 18 R383: SPAWN of a record that may be read, with a free future, room in the task queue and in the reference list: the future is
pending with COUNT 1 and its next generation, the handle is in S[d] and in the list, and the task is queued. With no free future it gives S[d] 0 and
changes nothing else. 19 R393, R395: REF of a record that is not reclaimed adds a reference and sets P[d], or clears P[d] when the list is full; DROP
gives up a reference that the task holds and sets P[d], and otherwise clears it; AWAIT clears P[d] while the record is pending, and when it is done
consumes the reference and sets P[d]. Rests on the model's choice or reading: that a handle is the low 32 bits of its register (log 18) and the scopes
of futures (log 35). -/
def Obligations.Futures : Prop :=
  (∀ (s : State) (en : Entry) (d a : BitVec 5), s.phase = .issue en →
    let t := (en.cap a).toNat
    let ctx := s.me.y.ctx.toNat
    SyClear s en .p (dieHome s.myDie) .store → 2 ^ 40 ≤ t → t % 256 = 0 → s.checkVa (s.issuer s.cur) t 256 rR = .ok () →
    (s.freeFuture s.myDie = none → ∃ u, exec (.spawn d a) s = .next u ∧ SyDone s u en ∧ WritesS s u d 0#64 ∧ SameP s u ∧
      u.futures = s.futures ∧ u.taskQ = s.taskQ ∧ u.tasks = s.tasks) ∧
    (∀ f l, s.freeFuture s.myDie = some f → Holds s l → l.length < 64 → (mget [] s.taskQ ctx).length < 4096 →
      let h := futHandle f ((s.future f).gen + 1)
      ∃ u e, exec (.spawn d a) s = .next u ∧ SyDone s u en ∧ WritesS s u d (h.setWidth 64) ∧ SameP s u ∧ Holds u (l ++ [h]) ∧
        (u.future f).state = .pending ∧ (u.future f).count = 1 ∧ (u.future f).gen = (s.future f).gen + 1 ∧
        (u.future f).ctx = ctx ∧ (∀ g, g ≠ f → u.future g = s.future g) ∧
        mget [] u.taskQ ctx = mget [] s.taskQ ctx ++ [e] ∧ e.handle = h ∧ e.record = en.cap a ∧ u.mem = s.mem)) ∧
  (∀ (s : State) (en : Entry) (d : BitVec 3) (a : BitVec 5) (l : List W32), s.phase = .issue en → Holds s l →
    let h := (en.cap a).setWidth 32
    let f := s.future (futSlot h)
    OwnFuture s h →
    (FutClear s en h .both → f.state ≠ .reclaimed →
      ∃ u, exec (.refF d a) s = .next u ∧ SyDone s u en ∧ SameS s u ∧ WritesP s u d (decide (l.length < 64)) ∧
        if l.length < 64 then Holds u (l ++ [h]) ∧ u.future (futSlot h) = { f with count := min 0xFFFFF (f.count + 1) } ∧
          (∀ g, g ≠ futSlot h → u.future g = s.future g)
        else u.futures = s.futures ∧ u.tasks = s.tasks) ∧
    (FutClear s en h .both → h ∉ l →
      ∃ u, exec (.dropF d a) s = .next u ∧ SyDone s u en ∧ SameS s u ∧ WritesP s u d false ∧ u.futures = s.futures ∧ u.tasks = s.tasks) ∧
    (FutClear s en h .both → h ∈ l → 1 < f.count → f.count < 0xFFFFF →
      ∃ u, exec (.dropF d a) s = .next u ∧ SyDone s u en ∧ SameS s u ∧ WritesP s u d true ∧ Holds u (l.erase h) ∧
        u.future (futSlot h) = { f with count := f.count - 1 } ∧ ∀ g, g ≠ futSlot h → u.future g = s.future g) ∧
    (FutClear s en h .load → f.state = .pending →
      ∃ u, exec (.await d a) s = .next u ∧ SyDone s u en ∧ SameS s u ∧ WritesP s u d false ∧ u.futures = s.futures ∧ u.tasks = s.tasks) ∧
    (FutClear s en h .load → f.state = .done → h ∈ l → 1 < f.count → f.count < 0xFFFFF →
      ∃ u, exec (.await d a) s = .next u ∧ SyDone s u en ∧ SameS s u ∧ WritesP s u d true ∧ Holds u (l.erase h) ∧
        u.future (futSlot h) = { f with count := f.count - 1 }))

/-- 19 R396, R397, 16 R355: AWAITL and YIELDL lend the slot's tickets while what they wait for is not ready; the wait ends, and the loan with it, once it
is: a future that is done, a counter at its threshold, a queue with data or with room. Rests on the model's choice or reading: handles (log 18),
thresholds over 64 bits (log 37), scopes (log 35). -/
def Obligations.LendingWaits : Prop :=
  ∀ (s : State) (en : Entry) (d : BitVec 3) (a b : BitVec 5),
    let h := (en.cap a).setWidth 32
    let q := (en.cap a).toNat % 2 ^ 32
    let w := mget 0#64 s.counters (s.me.y.ctx.toNat * 256 + (en.cap a).toNat)
    let rec_ := s.entry 0x16 (queueKey q)
    let waits := fun (i : Instr) => s.phase = .issue en → s.me.lendSince = none →
      ∃ u, exec i s = .next u ∧ OnlySlot s u ∧ u.me.lendSince = some s.dcc.toNat ∧ u.me.r = s.me.r ∧ u.me.e = s.me.e ∧ u.me.pc = s.me.pc
    let ends := fun (i ev : Instr) => (s.phase = .issue en → ∃ u, exec i s = .next u ∧ WaitOver s u en) ∧
      (Lending s en i → ∃ u, exec ev s = .next u ∧ WaitOver s u en)
    (OwnFuture s h → FutClear s en h .load → (s.future (futSlot h)).state = .pending → waits (.awaitl d a)) ∧
    (OwnFuture s h → FutClear s en h .load → (s.future (futSlot h)).state = .done → h ∉ s.myRefs → ends (.awaitl d a) .awaitlEnd) ∧
    (OwnFuture s h → en.cap b = 0#64 →
      if (s.future (futSlot h)).state = .pending then waits (.yieldl .future a b) else ends (.yieldl .future a b) .yieldlReady) ∧
    ((en.cap a).toNat < 256 →
      if w.getLsbD 63 = true ∨ (en.cap b).toNat ≤ w.toNat % 2 ^ 48 then ends (.yieldl .counter a b) .yieldlReady
      else waits (.yieldl .counter a b)) ∧
    (OwnQueue s q → en.cap b = 0#64 →
      (if 0 < qOcc rec_ then ends (.yieldl .data a b) .yieldlReady else waits (.yieldl .data a b)) ∧
      (if qOcc rec_ < qCap rec_ then ends (.yieldl .room a b) .yieldlReady else waits (.yieldl .room a b)))

/-- 03 R74 to R77, R90, R91, R93, 13 R295, R296: a patch word whose template decodes, whose value fits its field, whose amended word decodes, whose token
routes exist and whose bound is not below the minimum, is placed when its engine's queue has room and no register that it captures is owed a write:
the amended word stands at the end of the queue with its flags, its tag and its captures. 03 R90: a patch word of a class that is no engine's, of a
template or a field select that is reserved, with a value outside its field, or with a token flag and no route raises ILLEGAL, and one whose bound is
below the minimum LATENCY; it is not placed. -/
def Obligations.Patches : Prop :=
  (∀ (s : State) (cls : BitVec 3) (index : BitVec 6) (sel : BitVec 4) (pop push last : Bool) (v : BitVec 16) (e : Engine)
    (w : BitVec 80) (i : Instr),
    let t := mget 0#80 s.me.tmpl (tmplKey cls index)
    classEngine cls = some e → e ≠ .sy → sel.toNat < 14 → ValueFits sel.toNat v → Amended t w sel.toNat v →
    decodeEngine cls t ≠ .error .reserved → decodeEngine cls w = .ok i →
    (pop = true → s.me.routeIn e ≠ 0#3) → (push = true → s.me.routeOut e ≠ 0#3) →
    minBound cls w ≤ lbCycles (EWord.split w).lb → s.me.waits (capturesOf i) [] = false → s.me.room e = true →
    ∃ u en, exec (.patchWordDispatch cls index sel pop push last v) s = .next u ∧ OnlySlot s u ∧
      u.me.pc = s.me.pc + 4#64 ∧ u.me.r = s.me.r ∧ u.me.y = s.me.y ∧
      (u.me.eng e).entries = (s.me.eng e).entries ++ [en] ∧ (u.me.eng e).seqNo = (s.me.eng e).seqNo + 1#32 ∧
      (∀ g, g ≠ e → u.me.eng g = s.me.eng g) ∧
      en.cmd = .eng w ∧ en.tag = s.me.pc ∧ en.seq = (s.me.eng e).seqNo + 1#32 ∧ en.pop = pop ∧ en.push = push ∧ en.last = last ∧
      en.popF = s.me.routeIn e ∧ en.pushF = s.me.routeOut e ∧ ∀ r ∈ capturesOf i, en.cap r = s.me.getS r) ∧
  (∀ (s : State) (cls : BitVec 3) (index : BitVec 6) (sel : BitVec 4) (pop push last : Bool) (v : BitVec 16),
    let t := mget 0#80 s.me.tmpl (tmplKey cls index)
    let trap := fun (c : Nat) =>
      exec (.patchWordDispatch cls index sel pop push last v) s = .next (s.raise s.cur ⟨c, 0⟩ s.me.pc cls.toNat 0)
    (classEngine cls = none → trap 0x01) ∧
    (14 ≤ sel.toNat → trap 0x01) ∧
    (decodeEngine cls t = .error .reserved → trap 0x01) ∧
    (sel.toNat < 14 → ¬ValueFits sel.toNat v → trap 0x01) ∧
    (∀ e w i, classEngine cls = some e → sel.toNat < 14 → ValueFits sel.toNat v → Amended t w sel.toNat v →
      decodeEngine cls t ≠ .error .reserved →
      (∀ x, decodeEngine cls w = .error x → trap 0x01) ∧
      (decodeEngine cls w = .ok i →
        ((pop = true ∧ s.me.routeIn e = 0#3) ∨ (push = true ∧ s.me.routeOut e = 0#3) → trap 0x01) ∧
        ((pop = true → s.me.routeIn e ≠ 0#3) → (push = true → s.me.routeOut e ≠ 0#3) →
          lbCycles (EWord.split w).lb < minBound cls w → trap 0x03))))

/-- 03 R80, R81, R84: lanes of a covered result land in its register and no other lane changes; with its last lane its tag is clear. A K result lands
whole. 03 R77, R80, R84, R85, 13 R296: what an engine command leaves when it issues: the head has left the queue, its token is taken, its covered
results are to land within its bound and not before those that earlier commands owe the same registers, PD counts its bound from here, its tag is
pending while its results are, a push without results is visible unless its token goes with a later completion, and a command that completes at its issue has retired; no register has changed yet and nothing outside the slot has. 03 R77, R78, R82,
R84, R85, 20 R404: every command of VX, LD, ST and CP but MARK: held by its token, tags or producer, or by a queue behind its engine that is full (13 R300,
R301, R303, R304), it waits and nothing changes; under a false guard it retires with no effect but its tokens; a tag that is still pending raises TAG_MISUSE with the tag's number. -/
def Obligations.IssueAndLanding : Prop :=
  (∀ (s : State) (n : Nat) (l : Landing) (val : BitVec 2048) (m lanes : Word), s.me.landings[n]? = some l →
    (∀ d, l.results = [⟨.v d, val, m⟩] → lanesAhead (s.me.landings.take n) (.v d) = 0#64 →
      ∃ u, exec (.coveredResultLanding n lanes) s = .next u ∧ OnlySlot s u ∧
        (∀ i, i < 64 → lane (u.me.getV d) i = if (lanes &&& m).getLsbD i then lane val i else lane (s.me.getV d) i) ∧
        (∀ q, q ≠ d → u.me.getV q = s.me.getV q) ∧
        u.me.r.s = s.me.r.s ∧ u.me.r.p = s.me.r.p ∧ u.me.r.k = s.me.r.k ∧ u.me.pc = s.me.pc ∧
        (m &&& ~~~lanes = 0#64 → u.me.landings = s.me.landings.eraseIdx n ∧ u.me.tagPending l.eng l.ta = false)) ∧
    (∀ d, l.results = [⟨.k d, val, BitVec.allOnes 64⟩] → lanesAhead (s.me.landings.take n) (.k d) = 0#64 → lanes ≠ 0#64 →
      ∃ u, exec (.coveredResultLanding n lanes) s = .next u ∧ OnlySlot s u ∧
        (∀ q, u.me.getK q = if q = d ∧ d ≠ 0#3 then val.setWidth 64 else s.me.getK q) ∧ u.me.r.v = s.me.r.v ∧
        u.me.landings = s.me.landings.eraseIdx n ∧ u.me.tagPending l.eng l.ta = false)) ∧
  (∀ (s : State) (e : Engine) (k : Ctl) (en : Entry) (rs : List Result) (retire token : Bool), s.phase = .issue en →
    let u := s.commit e k en rs retire token
    let q := ({ s.me.eng e with
      entries := (s.me.eng e).entries.drop 1
      pc := en.tag
      bounds := (en.pos, dueAt s k) :: (s.me.eng e).bounds.take 15 } : EngQ)
    OnlySlot s u ∧ u.me.pc = s.me.pc ∧ u.me.y = s.me.y ∧
      u.me.eng e = (if retire then q.retire en.seq else q) ∧
      (∀ g, g ≠ e → u.me.eng g = s.me.eng g) ∧
      u.me.r = { s.me.r with tags := u.me.r.tags } ∧
      (∀ g t, u.me.tagPending g (some t) =
        if rs ≠ [] ∧ en.scoreboard = true ∧ k.ta = some t ∧ tagIdx g t.toNat = tagIdx e t.toNat then true
        else s.me.tagPending g (some t)) ∧
      u.me.landings = hastened s e k rs ++ (if rs = [] then [] else
        [⟨e, rs, if en.scoreboard then k.ta else none, if en.push && token then some en.pushF else none, en.pos, dueAt s k⟩]) ∧
      (∀ f, f ≠ en.popF → f ≠ en.pushF → u.me.tokens f = s.me.tokens f) ∧
      (en.pop = true → en.popF ≠ en.pushF → u.me.tokens en.popF = s.me.tokens en.popF - 1) ∧
      (en.push = true → en.pop = false → u.me.tokens en.pushF = s.me.tokens en.pushF + if rs = [] ∧ token = true then 1 else 0)) ∧
  (∀ (s : State) (cls : BitVec 3) (e : Engine) (w : BitVec 80) (i : Instr) (k : Ctl) (en : Entry),
    classEngine cls = some e → e ≠ .mx → decodeEngine cls w = .ok i → decodeCtl (EWord.split w) = .ok k →
    (∀ b lb, i ≠ .mark b lb) → s.phase = .issue en →
    (s.me.held s.dcc.toNat e k en = true ∨ s.me.backed e = true → exec i s = .next s) ∧
    (s.me.held s.dcc.toNat e k en = false → s.me.backed e = false →
      (s.me.guardFor en k.guard = false → exec i s = .next (s.commit e k en [] true true)) ∧
      (∀ t, s.me.guardFor en k.guard = true → en.scoreboard = true → k.ta = some t →
        s.me.tagPending e (some t) = true → exec i s = .next (s.raise s.cur ⟨0x04, t.toNat⟩ en.tag cls.toNat cls.toNat))))

/-- 06 R139 to R151, R153, R156, 02 R41, R45: a lane-by-lane VX command that may issue leaves one covered result: the mask's lanes of Vd, with the value
of its rule in each lane. What issuing and landing do besides is `Obligations.IssueAndLanding`. Rests on the model's choice or reading: VEXP2 and
VLOG2 as log 8 says, and VCVT between equal formats (log 10). -/
def Obligations.VectorLanes : Prop :=
  ∀ (s : State) (i : Instr) (k : Ctl) (en : Entry) (d : BitVec 5) (m : BitVec 3) (f : Nat → W32),
    laneWord s.me en i = some (k, d, m, f) → Ready s .vx k en →
    ∃ v : BitVec 2048, (∀ j, j < 64 → v.extractLsb' (32 * j) 32 = f j) ∧
      exec i s = .next (s.commit .vx k en [⟨.v d, v, s.me.getK m⟩] true true)

/-- 06 R142, R147, R148, R150: VCMP and the mask operations leave one covered result, the whole of Kd; VPACK leaves the elements of both sources packed,
the first source's low. 02 R59 to R61, 06 R154: VREDSUM, VREDMAX, VREDMIN and VSCAN combine the lanes in the fixed tree or doubling order, inactive
lanes taken as the identity, and write every lane of Vd whatever the mask holds; a NaN leaves VSCAN canonical. Rests on the model's choice or reading:
the NaN of lane 0 of VSCAN (log 73). -/
def Obligations.VectorMasksAndFolds : Prop :=
  ((∀ (s : State) (i : Instr) (k : Ctl) (en : Entry) (d : BitVec 3) (f : Nat → Bool),
    maskWord s.me i = some (k, d, f) → Ready s .vx k en →
    ∃ v : BitVec 2048, (∀ j, j < 64 → v.getLsbD j = f j) ∧
      exec i s = .next (s.commit .vx k en [⟨.k d, v, BitVec.allOnes 64⟩] true true)) ∧
  (∀ (s : State) (k : Ctl) (en : Entry) (w : PWidth) (d : BitVec 5) (m : BitVec 3) (a b : BitVec 5),
    Ready s .vx k en →
    let n := packBits w
    ∃ v : BitVec 2048,
      (∀ j, j < 64 → v.extractLsb' (n * j) n = (s.me.getV a).extractLsb' (32 * j) n ∧
        v.extractLsb' (n * (64 + j)) n = (s.me.getV b).extractLsb' (32 * j) n) ∧
      (∀ j, 128 * n ≤ j → v.getLsbD j = false) ∧
      exec (.vpack k w d m a b) s = .next (s.commit .vx k en [⟨.v d, v, s.me.getK m⟩] true true))) ∧
  (∀ (s : State) (i : Instr) (k : Ctl) (en : Entry) (d : BitVec 5) (f : Nat → W32),
    wholeWord s.me i = some (k, d, f) → Ready s .vx k en →
    ∃ v : BitVec 2048, (∀ j, j < 64 → v.extractLsb' (32 * j) 32 = f j) ∧
      exec i s = .next (s.commit .vx k en [⟨.v d, v, BitVec.allOnes 64⟩] true true))

/-- 06 R155: VSORT sorts the active lanes by key, NaN last, equal keys in lane order, then places the inactive lanes in lane order; the keys go to Vd and
the payloads to Vc. 06 R152, R156, R158, R159, R160, 02 R62: VPUT writes one lane, and only an active one; VRAND draws from the stream's counter,
which advances by 64; VLUT looks codes up in the codebook as the team reads it; VSPILL to a free accumulator column records it in SPILL_MAP, and VFILL
gives a valid column back and frees it, or gives zero for an invalid entry. Rests on the model's choice or reading: praline as 02 R62 defines it (log
1), and what a freed column holds (log 67). -/
def Obligations.VectorSortAndOthers : Prop :=
  (∀ (s : State) (k : Ctl) (en : Entry) (t : VTy) (desc : Bool) (d : BitVec 5) (m : BitVec 3) (a b c : BitVec 5),
    Ready s .vx k en →
    let active := fun (i : Nat) => (s.me.getK m).getLsbD i
    let goes := fun (i j : Nat) => keyBefore t desc (lane (s.me.getV a) i) (lane (s.me.getV a) j)
    ∃ (order : List Nat) (v w : BitVec 2048),
      order.Perm ((List.range 64).filter active) ∧
      order.Pairwise (fun i j => goes j i = false ∧ (goes i j = false → i < j)) ∧
      (∀ n i, (order ++ (List.range 64).filter fun i => !active i)[n]? = some i →
        lane v n = lane (s.me.getV a) i ∧ lane w n = lane (s.me.getV b) i) ∧
      exec (.vsort k t desc d m a b c) s =
        .next (s.commit .vx k en [⟨.v d, v, BitVec.allOnes 64⟩, ⟨.v c, w, BitVec.allOnes 64⟩] true true)) ∧
  (∀ (s : State) (k : Ctl) (en : Entry) (d a id : BitVec 5) (m : BitVec 3), Ready s .vx k en →
    let t := s.tile (s.cur / 8)
    let gives := fun (i : Instr) (u : State) (f : Nat → W32) (lanes : Word) =>
      ∃ v : BitVec 2048, (∀ j, j < 64 → v.extractLsb' (32 * j) 32 = f j) ∧
        exec i s = .next (u.commit .vx k en [⟨.v d, v, lanes⟩] true true)
    (∀ ln, ∃ v lanes : _, exec (.vput k d m a ln) s = .next (s.commit .vx k en [⟨.v d, v, lanes⟩] true true) ∧
      lane v ln.toNat = lane (s.me.getV a) 0 ∧
      ∀ j, j < 64 → lanes.getLsbD j = (decide (j = ln.toNat) && (s.me.getK m).getLsbD j)) ∧
    gives (.vrand k d m) (s.upMe fun x => { x with vrand := x.vrand + 64#64 })
      (fun j => praline en.seed (s.me.vrand + BitVec.ofNat 64 j)) (s.me.getK m) ∧
    (∀ cb part wide, gives (.vlut k cb part wide d m a) s
      (fun j =>
        let code := ((s.me.getV a).extractLsb' (4 * (part.toNat * 64 + j)) 4).toNat
        let e := ((t.codebookFor s.me.job.team cb.toNat).extractLsb' (16 * code) 16).toNat
        if wide then fpLane .f32 .rne (bf16Fmt.decode e) else BitVec.ofNat 32 e) (s.me.getK m)) ∧
    (spillLocOf (s.me.spillMap id.toNat) = none →
      gives (.vfill k d id) s (fun _ => 0#32) (BitVec.allOnes 64)) ∧
    (∀ z c, spillLocOf (s.me.spillMap id.toNat) = some (.col z c) → t.colPoison z c = false →
      gives (.vfill k d id) (s.spillFree s.cur id.toNat (.col z c))
        (fun j => (t.col z c).extractLsb' (32 * j) 32) (BitVec.allOnes 64)) ∧
    (∀ z c, spillLocOf (s.me.spillMap id.toNat) = none → t.freeCol = some (z, c) → z < 16 → c < 64 →
      ∃ u, exec (.vspill k a id) s = .next u ∧ (u.tile (s.cur / 8)).col z c = s.me.getV a ∧
        mget none (u.tile (s.cur / 8)).spillCol (z * 64 + c) = some (s.cur, id.toNat) ∧
        spillLocOf (u.me.spillMap id.toNat) = some (.col z c) ∧ u.me.r = s.me.r ∧ u.mem = s.mem ∧
        (∀ q, q ≠ z * 64 + c → mget 0#2048 (u.tile (s.cur / 8)).z q = mget 0#2048 t.z q) ∧
        ∀ n, n ≠ s.cur → u.slot n = s.slot n))

/-- 10 R230, R234, R240, R246, R247, R249, 01 R35, 04 R104: MRET closes the reduction and, drawn, ends the quantum; MZERO allocates a tile and zeroes it
and its status; MLDCB loads a pair table entry; MSTAT leaves the guard of its status bits, to land within 16 cycles; MRET and MSTAT retire at once
and occupy the array for one cycle. 10 R238, R242, 20 R404: an MX command that names an accumulator tile allocated to another slot raises
BANK_CONFLICT with flag bit 2 alone, and a reduction that is open is closed. Rests on the model's choice or reading: that an MX command has its effect
when it starts (log 11). -/
def Obligations.MatrixControl : Prop :=
  (∀ (s : State) (k : Ctl) (en : Entry) (c : BitVec 5) (z : BitVec 4),
    (MxStarts s k c en 1 {} → ∃ u, exec (.mret k c) s = .next u ∧ u.me.redOpen = false ∧ u.me.redCount = 0 ∧ u.me.r = s.me.r ∧
      u.me.e.mx = ({ s.me.e.mx with
        entries := s.me.e.mx.entries.drop 1
        pc := en.tag
        bounds := (en.pos, dueAt s k) :: s.me.e.mx.bounds.take 15 } : EngQ).retire en.seq ∧
      (∀ q, (mine s).holdMx = some q → (mine s).stamped = false → q.slot = s.cur → (mine u).holdMx = none) ∧
      (mine u).busy = mxOnce s en ∧ u.mem = s.mem ∧ ∀ n, n ≠ s.cur → u.slot n = s.slot n) ∧
    (MxStarts s k c en 16 {} → OwnZ s z.toNat → ∃ u, exec (.mzero k z c) s = .next u ∧ MxRuns s u en 16 0 none ∧
      (mine u).allocOf z.toNat = some (s.cur % 8) ∧ (mine u).status z.toNat = 0#8 ∧
      (∀ i, i < 64 → (mine u).col z.toNat i = 0#2048) ∧
      (∀ y i, y ≠ z.toNat → i < 64 → (mine u).col y i = (mine s).col y i) ∧ u.me.r = s.me.r ∧ u.mem = s.mem) ∧
    (∀ pt cba cbb, MxStarts s k c en 16 {} → ∃ u, exec (.mldcb k pt cba cbb c) s = .next u ∧ MxRuns s u en 16 0 none ∧
      (∀ j, mget none (mine u).ptab j = if j = pt.toNat then
          some ⟨cba, cbb, (mine s).codebookFor s.me.job.team cba.toNat, (mine s).codebookFor s.me.job.team cbb.toNat⟩
        else mget none (mine s).ptab j) ∧ u.me.r = s.me.r ∧ u.mem = s.mem) ∧
    (∀ nz g mask, MxStarts s k c en 1 {} → (∀ o, (mine s).allocOf z.toNat = some o → o = s.cur % 8) →
      let e := if ((mine s).allocOf z.toNat).isSome then (mine s).status z.toNat else 0#8
      let hit := decide ((e.setWidth 4 &&& mask) ≠ 0#4)
      exec (.mstat k nz g z mask c) s =
        .next ((s.commit .mx k en [⟨.g g, (if hit = nz then 1#2048 else 0#2048), BitVec.allOnes 64⟩] true true (some 16)).setTile
          (s.cur / 8) { mine s with busy := mxOnce s en }))) ∧
  (∀ (s : State) (k : Ctl) (en : Entry) (pt : BitVec 2) (z mask : BitVec 4) (q nz res drop free : Bool) (g : BitVec 3)
    (a b c d r : BitVec 5) (kk : BitVec 12) (rate : BitVec 8) (o : Nat),
    (mine s).allocOf z.toNat = some o → o ≠ s.cur % 8 →
    let traps := fun (i : Instr) (occ : Nat) (need : MxNeed) => MxStarts s k c en occ need →
      exec i s = .next ((s.upMe fun x => { x with redOpen := false, redCount := 0 }).raise s.cur ⟨0x20, 4⟩ en.tag 2 2)
    traps (.mma k pt z q a b c kk) (mmaOcc b kk s en) (mmaNeed q a b kk 64 s s.cur) ∧
    traps (.mmaz k pt z q a b c kk) (mmaOcc b kk s en) (mmaNeed q a b kk 64 s s.cur) ∧
    traps (.mmap k pt z q a b c kk) (mmaOcc b kk s en) (mmaNeed q a b kk 32 s s.cur) ∧ traps (.mzero k z c) 16 {} ∧
    traps (.mstat k nz g z mask c) 1 {} ∧
    traps (.mdrain k res drop free d z r c rate) (if res then 128 else 64) (drainNeed res d r s s.cur))

/-- 10 R230 to R239, 02 R54 to R57: MMA and MMAZ of a plan that passes its checks, with no operand in error, occupy the array, open the reduction, count
K toward it and take the LD→MX entries that are there; where every entry is there they add every group in turn to each accumulator element (MMAZ
from +0), and otherwise they run until the rest has come. 10 R244: MMAP, with its partner at the head of the other tile and both ready and in
agreement, starts both sides together: each tile's array is occupied, and where every entry is there the accumulators of both sides take the 64 rows
that the two sides supply, the even tile's first. Rests on the model's choice or reading: that an MX command has its effect when it starts (log 11). -/
def Obligations.MatrixMultiply : Prop :=
  (∀ (s : State) (k : Ctl) (en : Entry) (pt : BitVec 2) (z : BitVec 4) (q : Bool) (a b c : BitVec 5) (kk : BitVec 12) (p : MmaPlan),
    MxStarts s k c en (mmaOcc b kk s en) (mmaNeed q a b kk 64 s s.cur) → s.mmaPlan s.cur en pt z q a b kk 64 = .ok p →
    let w := operandsMet s s.cur p 64
    let whole := p.pops ≤ s.me.mxq.length
    w.planBad s.cur p 64 = none → (mine s).allocOf z.toNat = some (s.cur % 8) →
    let runs := fun (i : Instr) (zero : Bool) =>
      ∃ u, exec i s = .next u ∧ MxRuns s u en (mmaOcc b kk s en) p.banks (if whole then none else some (p.feed 64 none)) ∧
        (whole → ∀ m n, m < 64 → n < 64 → lane ((mine u).col z.toNat n) m =
          BitVec.ofNat 32 (accSteps (fun g => w.groupVal s.cur p (w.aRows s.cur p) m n g)
            (if zero then 0 else (lane ((mine s).col z.toNat n) m).toNat) p.groups)) ∧
        (∀ y n, y ≠ z.toNat → n < 64 → (mine u).col y n = (mine s).col y n) ∧
        u.me.redOpen = true ∧ u.me.redCount = (if s.me.redOpen then s.me.redCount else 0) + (kk.toNat + 1) * 8 ∧
        u.me.mxq = s.me.mxq.drop p.pops ∧ u.me.r = s.me.r ∧ SameMemory w u ∧ ∀ n, n ≠ s.cur → u.slot n = s.slot n
    runs (.mma k pt z q a b c kk) false ∧ runs (.mmaz k pt z q a b c kk) true) ∧
  (∀ (s : State) (k : Ctl) (en : Entry) (pt : BitVec 2) (z : BitVec 4) (q : Bool) (a b c : BitVec 5) (kk : BitVec 12) (p r : MmaPlan)
    (h : PairHead),
    MxStarts s k c en (mmaOcc b kk s en) (mmaNeed q a b kk 32 s s.cur) → s.mmaPlan s.cur en pt z q a b kk 32 = .ok p →
    s.partner s.cur (if (mine s).stamped then some (stampOf en c) else none) = some h → s.partnerReady h = true →
    (s.tile (h.n / 8)).stamped = (mine s).stamped → s.mmaPlan h.n h.en h.pt h.z h.q h.a h.b h.kk 32 = .ok r →
    p.k = r.k → p.pt = r.pt → fmtOf p.a.reg = fmtOf r.a.reg → fmtOf p.b.reg = fmtOf r.b.reg →
    let w := operandsMet (operandsMet s s.cur p 32) h.n r 32
    let whole := p.pops ≤ s.me.mxq.length ∧ r.pops ≤ (s.slot h.n).mxq.length
    w.planBad s.cur p 32 = none → w.planBad h.n r 32 = none → (mine s).allocOf z.toNat = some (s.cur % 8) →
    (s.tile (h.n / 8)).allocOf h.z.toNat = some (h.n % 8) →
    let rows := if s.cur / 8 % 2 = 0 then joinRows (w.aRows s.cur p) (w.aRows h.n r) else joinRows (w.aRows h.n r) (w.aRows s.cur p)
    let till := s.dcc.toNat + mmaOcc b kk s en
    ∃ u, exec (.mmap k pt z q a b c kk) s = .next u ∧
      MxRuns s u en (mmaOcc b kk s en) p.banks (if whole then none else some (p.feed 32 (some h.n))) ∧
      (u.tile (h.n / 8)).busy = some ⟨h.n, h.en, till, r.banks, false, if whole then none else some (r.feed 32 (some s.cur))⟩ ∧
      (u.slot h.n).e.mx.entries = (s.slot h.n).e.mx.entries.drop 1 ∧
      (whole → ∀ m n, m < 64 → n < 64 →
        lane ((mine u).col z.toNat n) m =
          BitVec.ofNat 32 (accSteps (fun g => w.groupVal s.cur p rows m n g) (lane ((mine s).col z.toNat n) m).toNat p.groups) ∧
        lane ((u.tile (h.n / 8)).col h.z.toNat n) m =
          BitVec.ofNat 32 (accSteps (fun g => w.groupVal h.n r rows m n g) (lane ((s.tile (h.n / 8)).col h.z.toNat n) m).toNat r.groups)))

/-- 10 R248, 02 R51, R53: MDRAIN of a plan that passes its checks, with no residual in error, stores every element, converted, in the tile's scratchpad,
each residual element read once those before it are written (where the destination bank is not SCALED and the residual lies apart from it, every
other byte reads as before), frees its tile when asked, and occupies the array. 10 R250, 06 R159, R160: MPARK packs S[f] to S[l], as captured, into
a spill location; MUNPARK gives them back from an accumulator column, which is free and +0 after it, and every other S register is unchanged. Rests
on the model's choice or reading: that an MX command has its effect when it starts (log 11). -/
def Obligations.MatrixDrainAndParking : Prop :=
  (∀ (s : State) (k : Ctl) (en : Entry) (res drop free : Bool) (d : BitVec 5) (z : BitVec 4) (r c : BitVec 5) (rate : BitVec 8)
    (p : DrainPlan),
    MxStarts s k c en (if res then 128 else 64) (drainNeed res d r s s.cur) → s.drainPlan s.cur en res d r z = .ok p →
    let w := residualMet s p
    (∀ x f, p.res = some (x, f) → ∀ m i, m < 64 → i < 64 → resBadAt w.poisoned (s.cur / 8) f x m i = none) →
    let f := fmtOf p.fd
    let n := fmtBits f / 8
    ∃ u, exec (.mdrain k res drop free d z r c rate) s = .next u ∧ MxRuns s u en (if res then 128 else 64) p.banks none ∧
      (mine u).allocOf z.toNat = (if free then none else (mine s).allocOf z.toNat) ∧ u.me.r = s.me.r ∧
      (∃ v rows, w.drainRows (s.cur / 8) en p z.toNat (en.cap c).toNat drop rate.toNat 64 0 ⟨[], false, false⟩ = (v, rows, none) ∧
        ∀ a, u.byte a = v.rd w a) ∧
      (scaledOf p.fd = false → (∀ x g, p.res = some (x, g) → x + drainLen g ≤ p.dst ∨ p.dst + drainLen p.fd ≤ x) →
        (∀ m i j, m < 64 → i < 64 → j < n → u.byte (p.dst + (m * 64 + i) * n + j) =
          BitVec.ofNat 8 (convert f .rne (drained s w en p z.toNat (en.cap c).toNat drop rate.toNat m i) / 256 ^ j)) ∧
        ∀ a, (a < p.dst ∨ p.dst + 4096 * n ≤ a) → u.byte a = w.byte a)) ∧
  (∀ (s : State) (k : Ctl) (en : Entry) (id f l c : BitVec 5) (z i : Nat), MxStarts s k c en 4 {} → f.toNat ≤ l.toNat →
    (spillLocOf (s.me.spillMap id.toNat) = none → (mine s).freeCol = some (z, i) → z < 16 → i < 64 →
      ∃ u, exec (.mpark k id f l c) s = .next u ∧ MxRuns s u en 4 0 none ∧
        (∀ j, j ≤ l.toNat - f.toNat → ((mine u).col z i).extractLsb' (64 * j) 64 = en.cap (f + BitVec.ofNat 5 j)) ∧
        spillLocOf (u.me.spillMap id.toNat) = some (.col z i) ∧ mget none (mine u).spillCol (z * 64 + i) = some (s.cur, id.toNat) ∧
        u.me.r = s.me.r ∧ u.mem = s.mem) ∧
    (spillLocOf (s.me.spillMap id.toNat) = some (.col z i) → (mine s).colPoison z i = false →
      ∃ u, exec (.munpark k id f l c) s = .next u ∧ MxRuns s u en 4 0 none ∧
        (∀ g, u.me.getS g = if f.toNat ≤ g.toNat ∧ g.toNat ≤ l.toNat ∧ g ≠ 0#5
          then ((mine s).col z i).extractLsb' (64 * (g.toNat - f.toNat)) 64 else s.me.getS g) ∧
        spillLocOf (u.me.spillMap id.toNat) = none ∧ mget none (mine u).spillCol (z * 64 + i) = none ∧
        (mine u).col z i = 0#2048 ∧ u.mem = s.mem))

/-- 01 R29 to R35, 05 R135, 10 R244, 16 R358, R359: in STAMPED mode the heads of a tile's MX queues run as their slots, in ascending order, when their
stamps are reached, and in DRAWN mode nothing is done at a stamp; a draw gives a free engine to the lone ready head, or by tickets to one of several,
and both arrays to a ready pair; a quantum ends after 256 cycles, when its slot has nothing more, or when all that was dispatched before a YIELD has
issued. Rests on the model's choice or reading: which heads count as ready (log 13), the count of cycles (log 2), and the draw of a pair (log 71). -/
def Obligations.Arbitration : Prop :=
  (∀ (s : State), ∃ u, exec .stampReached s = .next u ∧ u.cur = s.cur ∧ u.phase = s.phase ∧ ((mine s).stamped = false → u = s) ∧
    ((mine s).stamped = true → u = ((List.range 8).map fun i => s.cur / 8 * 8 + i).foldl State.issueMx s)) ∧
  (∀ (s : State) (n : Nat), (s.slot n).e.mx.entries = [] ∨ (s.slot n).mayIssue .mx = false → s.issueMx n = s) ∧
  (∀ (s : State) (n : Nat) (en : Entry) (r : List Entry) (i : Instr) (u : State), n / 8 = s.cur / 8 → (mine s).stamped = true →
    (∀ m, m / 8 = s.cur / 8 → m ≠ n → (s.slot m).e.mx.entries = []) → (s.slot n).e.mx.entries = en :: r →
    en.isEng = true → (s.slot n).mayIssue .mx = true → decodeEngine 2#3 en.word = .ok i →
    (∃ k c, i = .mret k c ∨ (∃ z, i = .mzero k z c) ∨ ∃ pt x y, i = .mldcb k pt x y c) →
    exec i { s with cur := n, phase := .issue en } = .next u →
    (∀ m, m / 8 = s.cur / 8 → m ≠ n → (u.slot m).e.mx.entries = []) →
    exec .stampReached s = .next { u with cur := s.cur, phase := s.phase }) ∧
  (∀ (s : State) (e : Engine), e ∈ ([.mx, .vx, .cp] : List Engine) → (mine s).draws e = true → (mine s).holdOf e = none →
    let cands := ((List.range 8).map fun i => s.cur / 8 * 8 + i).filter fun n => s.headReady n e
    cands ≠ [] → (e = .mx → ∀ n ∈ cands, s.pairs n = false) →
    ∃ u n, exec (.arbiterDraw e) s = .next u ∧ (mine u).holdOf e = some ⟨n, s.dcc.toNat, e == .mx && (s.slot n).redOpen⟩ ∧
      (cands.length = 1 → cands = [n] ∧ (mine u).drawOf e = (mine s).drawOf e) ∧
      (1 < cands.length → (mine u).drawOf e = (mine s).drawOf e + 1#56 ∧
        n = cands.getD (winner (cands.map (s.arbTickets e)) (drawValue (mine s).seed (arbNum e) ((mine s).drawOf e))) 0) ∧
      ∀ t, t ≠ s.cur / 8 → u.tile t = s.tile t) ∧
  (∀ (s : State) (n m : Nat), (mine s).draws .mx = true → (mine s).holdMx = none →
    let other := s.cur / 8 / 48 * 48 + Nat.xor (s.cur / 8 % 48) 1
    let cands := fun (t : Nat) => ((List.range 8).map fun i => t * 8 + i).filter fun n => s.headReady n .mx
    cands (s.cur / 8) = [n] → cands other = [m] → s.pairs n = true → s.pairs m = true → (s.tile other).holdMx = none →
    ∃ u, exec (.arbiterDraw .mx) s = .next u ∧ (mine u).holdMx = some ⟨n, s.dcc.toNat, (s.slot n).redOpen⟩ ∧
      (u.tile other).holdMx = some ⟨m, s.dcc.toNat, (s.slot m).redOpen⟩) ∧
  (∀ (s : State) (e : Engine) (q : Quantum), (mine s).holdOf e = some q →
    let run := s.dcc.toNat - q.start
    let x := s.slot q.slot
    (e = .mx → q.opened = false → (mine s).busy = none → x.e.mx.entries = [] →
      ∃ u, exec (.quantumEnd e) s = .next u ∧ (mine u).holdOf e = none) ∧
    (e = .vx ∨ e = .cp → 256 ≤ run →
      ∃ u, exec (.quantumEnd e) s = .next u ∧ (mine u).holdOf e = none ∧ (u.slot q.slot).compVx = x.compVx ∧
        (u.slot q.slot).compCp = x.compCp) ∧
    (e = .vx ∨ e = .cp → 0 < run → run < 256 → (x.eng e).entries = [] →
      ∃ u, exec (.quantumEnd e) s = .next u ∧ (mine u).holdOf e = none ∧
        (if e = .vx then (u.slot q.slot).compVx else (u.slot q.slot).compCp) = 2 ^ 16 * 256 / run) ∧
    (∀ p, e = .vx ∨ e = .cp → (if e = .vx then x.yieldVx else x.yieldCp) = some p → 0 < run →
      (∀ en ∈ (x.eng e).entries, 0 < (en.seq - BitVec.ofNat 32 p).toNat ∧ (en.seq - BitVec.ofNat 32 p).toNat < 2 ^ 31) →
      ∃ u, exec (.quantumEnd e) s = .next u ∧ (mine u).holdOf e = none ∧
        (if e = .vx then (u.slot q.slot).yieldVx else (u.slot q.slot).yieldCp) = none))

/-- 09 R213 to R216, R219, R220, R222, 08 R191: LD, LDB, LDG and LDS whose active lanes pass their checks issue one load of those lanes, ascending, at
their addresses; the post-increment is a covered result, the command has not retired, and no register or byte of memory changes yet. 09 R213 to R216,
R219, R220, R223, R224, 08 R191: ST, STB, STG, STN4 and VAMO whose active lanes pass their checks, with no parked store, issue one store of those
lanes, ascending, at their addresses with their values; no byte of memory changes yet. -/
def Obligations.AccessesIssue : Prop :=
  (∀ (s : State) (k : Ctl) (en : Entry) (sz : ESize) (sx q : Bool) (d a b : BitVec 5) (m : BitVec 3) (am : AddrForm)
    (acc : Nat → LaneAcc),
    Ready s .ld k en → LdRoom s en →
    let e := elemBytes sz
    let xa := s.me.getX 0#2 a
    let ea := effective am xa e en
    let mask := s.me.getK m
    let ls := (lanesOf mask).map acc
    let issues := fun (v : State) (i : Instr) (inc : List Result) => v.fenced s.cur en.ord .load (ls.map (·.home)) = false →
      ∃ u : State, exec i s = .next (u.commit .ld k en inc false false) ∧ LoadIssued s v u en q sx d mask ls
    (ea.toNat % e = 0 → ∀ isVa, (∀ i ∈ lanesOf mask,
        s.laneAt (s.issuer s.cur) isVa (some ea.toNat) rR i (ea + BitVec.ofNat 64 (e * i)).toNat e = .ok (acc i)) →
      issues s (if isVa then .ldb k sz sx q d m a am else .ld k sz sx q d m a am) (postInc am 0#2 a xa e)) ∧
    (∀ buf, let t := (s.me.getX 0#2 b).toNat
      let keys := s.keysAt buf t 256
      let v := met s keys
      let s1 := afterIndex s buf t
      (∃ p, s.checkAt (s.issuer s.cur) buf t 256 rR = .ok p) → s.fenced s.cur en.ord .load (keys.map fun p => homeOf p.1) = false →
      (∀ c ∈ s.me.loads, ∀ l ∈ c.lanes, ∀ p ∈ keys, homeOf p.1 ≠ l.home) → (v.readKeys keys).2 = false →
      let idx := BitVec.ofNat 2048 (leNat (v.readKeys keys).1)
      let at_ := fun (i : Nat) => (ea + BitVec.ofNat 64 (e * (lane idx i).toNat)).toNat
      (∀ i ∈ lanesOf mask, at_ i % e = 0) → (∀ i ∈ lanesOf mask, s1.laneAt (s.issuer s.cur) buf none rR i (at_ i) e = .ok (acc i)) →
      issues s1 (.ldg k sz sx q d m a buf b am) (postInc am 0#2 a xa e)) ∧
    (∀ (rank : BitVec 2) (ent : Nat),
      let cs := (List.range (rank.toNat + 1)).map fun j => (en.cap (b + BitVec.ofNat 5 j)).toNat
      let coords := fun (i : Nat) => cs.dropLast ++ [cs.getLastD 0 + i]
      s.shardEntry (s.issuer s.cur) xa.toNat ((coords ((lanesOf mask).headD 0)).getD 0 0) = .ok ent →
      let v := s.fillShard s.cur xa.toNat
      (∀ i ∈ lanesOf mask, v.shardLane ent e (coords i) i = .ok (acc i) ∧ (acc i).remote = none) →
      issues v (.lds k sz sx q d m a b rank) [])) ∧
  (∀ (s : State) (k : Ctl) (en : Entry) (sz : ESize) (d a b : BitVec 5) (c m : BitVec 3) (buf : Bool) (am : AddrForm)
    (op : AmoOp) (t : ATy) (acc : Nat → LaneAcc),
    Ready s .st k en → StRoom s en → s.me.replay = [] →
    let xa := s.me.getX 1#2 a
    let ls := lanesOf (s.me.getK m)
    let issues := fun (i : Instr) (e right : Nat) (base : Option Nat) (at_ : Nat → Nat) (kind : Nat → StoreKind) (ak : AccKind) =>
      (∀ l ∈ ls, s.laneAt (s.issuer s.cur) buf base right l (at_ l) e = .ok (acc l) ∧ (acc l).lane = l) →
      s.fenced s.cur en.ord ak ((ls.map acc).map (·.home)) = false →
      ∃ u : State, exec i s = .next (u.commit .st k en (postInc am 1#2 a xa e) false true) ∧
        StoreIssued s u en (postInc am 1#2 a xa e) (ls.map fun l => ⟨acc l, lane (s.me.getV d) l, kind l⟩)
    let e := elemBytes sz
    let ea := fun (e : Nat) => effective am xa e en
    let far := fun (e l : Nat) => (ea e + BitVec.ofNat 64 (e * (lane (s.me.getV b) l).toNat)).toNat
    ((ea e).toNat % e = 0 → issues (if buf then .stb k sz d m a am else .st k sz d m a am) e rW (some (ea e).toNat)
      (fun l => (ea e + BitVec.ofNat 64 (e * l)).toNat) (fun _ => .plain) .store) ∧
    ((∀ l ∈ ls, far e l % e = 0) → issues (.stg k sz d m a buf b am) e rW none (far e) (fun _ => .plain) .store) ∧
    issues (.stn4 k d m a buf am) 1 rW (some (ea 1).toNat) (fun l => (ea 1 + BitVec.ofNat 64 (l / 2)).toNat)
      (fun l => .nibble (l % 2 == 1)) .store ∧
    ((∀ l ∈ ls, far 4 l % 4 = 0) → issues (.vamo k op t d m a b c buf am) 4 rA none (far 4)
      (fun l => .atomic op t (lane (s.me.getV (c.setWidth 5)) l)) .both))

/-- 09 R216, R217, R221, 08 R209, 18 R389: a misaligned contiguous access raises ALIGN with its effective address; LDF and STF through a window that
admits their lanes issue them as remote lanes; a store to a stripe that is not mapped parks, retires, and is reported. -/
def Obligations.FarAndParked : Prop :=
  ∀ (s : State) (k : Ctl) (en : Entry) (sz : ESize) (sx q : Bool) (d a : BitVec 5) (m : BitVec 3) (am : AddrForm),
    let e := elemBytes sz
    let mask := s.me.getK m
    let xl := s.me.getX 0#2 a
    let xs := s.me.getX 1#2 a
    let el := effective am xl e en
    let es := effective am xs e en
    let off := fun (ea : Word) (i : Nat) => ((ea + BitVec.ofNat 64 (e * i)).toNat + 2 ^ 64 - ea.toNat) % 2 ^ 64 + ea.toNat % 2 ^ 40
    let spans := fun (ea : Word) => (lanesOf mask).map fun i => (off ea i, e)
    let rem := fun (ea : Word) (i : Nat) =>
      LaneAcc.mk i (ea + BitVec.ofNat 64 (e * i)).toNat e 0 0 (some (ea.toNat / 2 ^ 40 % 4096, off ea i))
    (Ready s .ld k en → LdRoom s en → el.toNat % e ≠ 0 →
      ∀ i ∈ [Instr.ld k sz sx q d m a am, .ldb k sz sx q d m a am, .ldf k sz sx q d m a am],
        exec i s = .next (s.raise s.cur ⟨0x05, el.toNat⟩ en.tag 3 3)) ∧
    (Ready s .st k en → StRoom s en → es.toNat % e ≠ 0 →
      ∀ i ∈ [Instr.st k sz d m a am, .stb k sz d m a am, .stf k sz d m a am],
        exec i s = .next (s.raise s.cur ⟨0x05, es.toNat⟩ en.tag 4 4)) ∧
    (Ready s .ld k en → LdRoom s en → el.toNat % e = 0 →
      (∃ w, s.checkWindow s.cur s.me.y.tenant.toNat el.toNat (spans el) 126 = .ok w) →
      s.fenced s.cur en.ord .load (((lanesOf mask).map (rem el)).map (·.home)) = false →
      ∃ u : State, exec (.ldf k sz sx q d m a am) s = .next (u.commit .ld k en (postInc am 0#2 a xl e) false false) ∧
        LoadIssued s s u en q sx d mask ((lanesOf mask).map (rem el))) ∧
    (Ready s .st k en → StRoom s en → es.toNat % e = 0 →
      (∃ w, s.checkWindow s.cur s.me.y.tenant.toNat es.toNat (spans es) 125 = .ok w) →
      s.fenced s.cur en.ord .store (((lanesOf mask).map (rem es)).map (·.home)) = false →
      ∃ u : State, exec (.stf k sz d m a am) s = .next (u.commit .st k en (postInc am 1#2 a xs e) false true) ∧
        StoreIssued s u en (postInc am 1#2 a xs e) ((lanesOf mask).map fun i => ⟨rem es i, lane (s.me.getV d) i, .plain⟩)) ∧
    (Ready s .st k en → StRoom s en → es.toNat % e = 0 → s.me.replay = [] →
      (∃ l r, lanesOf mask = l :: r ∧
        s.laneAt (s.issuer s.cur) true (some es.toNat) rW l (es + BitVec.ofNat 64 (e * l)).toNat e = .error ⟨0x13, (es + BitVec.ofNat 64 (e * l)).toNat⟩) →
      s.fenced s.cur en.ord .store (s.parkedHomes true ((lanesOf mask).map fun i => ((es + BitVec.ofNat 64 (e * i)).toNat, e))) = false →
      ∃ (u : State) (p : StoreAcc), exec (.stb k sz d m a am) s = .next (u.commit .st k en (postInc am 1#2 a xs e) true true) ∧ u.me = { s.me with replay := [p] } ∧
        p.entry = en.keepX s.me (postInc am 1#2 a xs e) ∧ p.lanes.map (fun l => l.acc.addr) = (lanesOf mask).map (fun i => (es + BitVec.ofNat 64 (e * i)).toNat) ∧ u.mem = s.mem)

/-- 08 R191, R194, 09 R217, R219, R223, R224: a lane of a load that may be performed takes its bytes, extended, and the load goes to its data queue with
the last; a lane of a store leaves its bytes at its home, and every other byte reads as before. -/
def Obligations.AccessesPerform : Prop :=
  (∀ (s : State) (a : LoadAcc) (r : List LoadAcc) (l : LaneAcc) (ls : List LaneAcc) (mask : Word), s.me.loads = a :: r → a.lanes = l :: ls →
    mask.getLsbD l.lane = true → (∀ q ∈ ls, mask.getLsbD q.lane = false) → s.loadLaneOk s.cur a l = true → l.lane < 64 →
    let w := met s l.keys
    (w.readKeys l.keys).2 = false →
    let v := leNat (w.readKeys l.keys).1
    let x := if a.sx then BitVec.ofInt 32 (asInt (8 * l.size) v) else BitVec.ofNat 32 v
    let took := fun (data : BitVec 2048) => ∀ i, i < 64 → lane data i = if i = l.lane then x else lane a.data i
    ∃ u, exec (.loadPerformed 0 mask) s = .next u ∧ SameMemory (arrived s l.keys) u ∧ u.me.r = s.me.r ∧ u.me.pc = s.me.pc ∧
      (∀ n, n ≠ s.cur → u.slot n = s.slot n) ∧
      (ls ≠ [] → ∃ b, u.me.loads = b :: r ∧ b.lanes = ls ∧ took b.data) ∧
      (ls = [] → a.q = false → s.me.ldq.length < 8 →
        ∃ b, u.me.ldq[s.me.ldq.length]? = some b ∧ b.d = a.d ∧ b.mask = a.mask ∧ took b.data) ∧
      (ls = [] → a.q = true → s.me.mxq.length < 16 → ∃ b, u.me.mxq[s.me.mxq.length]? = some b ∧ took b.data)) ∧
  (∀ (s : State) (a : StoreAcc) (l : StoreLane) (ls : List StoreLane) (mask : Word) (bs : List Byte), s.me.storeQ = [a] → a.lanes = l :: ls →
    mask.getLsbD l.acc.lane = true → (∀ q ∈ ls, mask.getLsbD q.acc.lane = false) → s.storeLaneOk s.cur a l = true →
    a.bad = none → (met s l.acc.keys).laneBytes l = some bs →
    ∃ u, exec (.storePerformed 0 mask) s = .next u ∧ u.me.r = s.me.r ∧ u.me.pc = s.me.pc ∧ OthersCount s u ∧
      StoredAt s u l.acc.keys (fun j => bs.getD j 0#8) ∧
      (ls ≠ [] → ∃ b, u.me.storeQ = [b] ∧ b.lanes = ls) ∧ (ls = [] → a.flt = none → u.me.storeQ = []))

/-- 09 R217, R225, 08 R197, R209, 13 R297, R300, R303: the head of the load data queue writes the active lanes of its Vd; a MARK issues, leaves its queue
and holds its engine, and a pair whose accesses are done retires together; a parked store that translates is performed. -/
def Obligations.LoadStoreEvents : Prop :=
  (∀ (s : State) (a : LoadData) (r : List LoadData), s.me.ldq = a :: r → a.poison = 0#64 → a.flt = none →
    ∃ u, exec .loadDataHead s = .next u ∧ OnlySlot s u ∧ u.me.ldq = r ∧ u.me.pc = s.me.pc ∧
      (∀ i, i < 64 → lane (u.me.getV a.d) i = if a.mask.getLsbD i then lane a.data i else lane (s.me.getV a.d) i) ∧
      (∀ q, q ≠ a.d → u.me.getV q = s.me.getV q) ∧ u.me.r.s = s.me.r.s ∧ u.me.r.k = s.me.r.k) ∧
  (∀ (s : State) (a : LoadData) (r : List LoadData), s.me.ldq = a :: r → a.poison ≠ 0#64 → a.flt = none → s.me.e.ld.latch = none →
    s.me.drain = none → s.me.job.stopped = false → s.me.job.preempted = false →
    exec .loadDataHead s = .next ((s.upMe fun x => { x with ldq := r }).raise s.cur ⟨0x30, a.poisonAddr⟩ a.tag 3 3)) ∧
  (∀ (s : State) (onSt : Bool) (lb : BitVec 4) (h : Entry) (r : List Entry), let e := if onSt then Engine.st else .ld
    (s.me.eng e).entries = h :: r → h.isMark = true → (s.me.eng e).active = none → s.me.backed e = false →
    (h.pop = true → s.me.tokens h.popF ≠ 0) → (h.push = true → s.me.tokenRoom h.pushF = true) →
    ∃ u, exec (.mark onSt lb) s = .next u ∧ OnlySlot s u ∧ (u.me.eng e).entries = r ∧ (u.me.eng e).active = some h ∧
      (u.me.eng e).pc = h.tag ∧ u.me.r = s.me.r ∧ u.me.pc = s.me.pc) ∧
  (∀ (s : State) (h g : Entry), s.me.e.ld.active = some h → s.me.e.st.active = some g → h.isMark = true → g.isMark = true →
    (∀ a ∈ s.me.loads, a.lanes = []) → s.me.storeQ = [] → s.me.replay = [] →
    ∃ u, exec .markRetire s = .next u ∧ OnlySlot s u ∧ u.me.r = s.me.r ∧
      u.me.e.ld = ({ s.me.e.ld with active := none } : EngQ).retire h.seq ∧
      u.me.e.st = ({ s.me.e.st with active := none } : EngQ).retire g.seq) ∧
  (∀ (s : State) (a : StoreAcc) (ls : List StoreLane), s.me.replay = [a] → s.replayLanes s.cur a = .ok ls → a.lanes ≠ [] →
    (s.performLanes s.cur a.phase ls).2 = none →
    ∃ u, exec .storeReplay s = .next u ∧ u.me.replay = [] ∧ u.mem = (s.performLanes s.cur a.phase ls).1.mem ∧ u.me.r = s.me.r)

/-- 11 R251 to R256, 13 R298, R304, 16 R355: CPY, CPY2, CPYF, FILL and CPYS whose operands pass their checks enter the journal and retire, their tokens to
come with their completion; nothing is copied yet; and so does FILL.DISCARD of banks that are the tenant's. 11 R254, R256: a length of 2^40 or more
raises BUF_BOUND with it as TRAP_INFO. 11 R258 to R265: a near-memory command whose ranges pass their checks and that nothing holds enters the journal and sends the pieces of its
ranges; NMFENCE enters once no earlier one stands there; NMSUM also opens its sum. Rests on the model's choice or reading: the homes that a copy
counts under (log 9). -/
def Obligations.CopiesStart : Prop :=
  (∀ (s : State) (k : Ctl) (en : Entry) (dv cv sv : Bool) (sz : ESize) (d a n m : BitVec 5) (id : BitVec 8) (inc : BitVec 4),
    CpReady s k en →
    let xd := s.me.getX 2#2 d
    let xs := s.me.getX 2#2 a
    let len := (en.cap n).toNat
    let starts := fun (i : Instr) (b : Word) =>
      ∃ u : State, exec i s = .next (u.commit .cp k en [] true false) ∧ Journalled s u i en xd b 0
    (len < 2 ^ 40 → (cv = true → s.cvChecks xd xs len = .ok ()) → starts (.cpy k dv cv sv d a n id inc) xs) ∧
    ((cv = true → ∀ r, r < len / 2 ^ 32 →
        s.cvChecks (BitVec.ofNat 64 (rowAt xd ((en.cap m).toNat / 2 ^ 32) r)) (BitVec.ofNat 64 (rowAt xs ((en.cap m).toNat % 2 ^ 32) r))
          (len % 2 ^ 32) = .ok ()) → starts (.cpy2 k dv cv sv d a n m id inc) xs) ∧
    (len < 2 ^ 40 → starts (.cpyf k cv dv sv d a n id inc) xs) ∧
    (len < 2 ^ 40 → starts (.fill k dv d n m id inc) 0#64) ∧
    (∀ es ed, len < 2 ^ 40 → s.scHolds s.cur en.ord = false →
      s.shardEntry (s.issuer s.cur) xs.toNat (Config.openWord s.freeCtr).toNat = .ok es →
      s.shardEntry (s.issuer s.cur) xd.toNat (Config.openWord s.freeCtr).toNat = .ok ed →
      shRank es = shRank ed → extentsOf es = extentsOf ed → (en.cap m).toNat + len ≤ (extentsOf es).foldl (· * ·) 1 →
      starts (.cpys k sz d a n m id inc) xs)) ∧
  (∀ (s : State) (k : Ctl) (en : Entry) (dv cv sv : Bool) (d a n m : BitVec 5) (id : BitVec 8) (inc : BitVec 4), CpReady s k en →
    (2 ^ 40 ≤ (en.cap n).toNat →
      ∀ i ∈ [Instr.cpy k dv cv sv d a n id inc, .cpyf k cv dv sv d a n id inc, .fill k dv d n m id inc],
        exec i s = .next (s.raise s.cur ⟨0x10, (en.cap n).toNat⟩ en.tag 5 5)) ∧
    (let mask := (en.cap m).toNat
      let tile := s.cur / 8
      mask < 2 ^ 16 →
      (∀ g, g < 64 → natBits mask (g / 16 * 4 + 3) (g / 16 * 4) ≠ 0 →
        s.admits (s.issuer s.cur) (saTile tile * 2 ^ 22 + g * 2 ^ 16) = true) →
      ∃ u : State, exec (.fillDiscard k m id inc) s = .next (u.commit .cp k en [] true false) ∧
        Journalled s u (.fillDiscard k m id inc) en 0#64 0#64 0)) ∧
  (∀ (s : State) (k : Ctl) (en : Entry) (y x c n : BitVec 5) (id : BitVec 8) (inc : BitVec 4),
    let xy := s.me.getX 2#2 y
    let xx := s.me.getX 2#2 x
    let count := en.cap n
    let len := count.toNat * 4
    let pieces := fun (op : Nat) (dst : Word) (src : Option Word) (a b : W32) =>
      s.nmPieces (nmBase s en op a b) dst.toNat (src.map (·.toNat)) len (len / 128 + 4) 0
    let lo := (en.cap c).setWidth 32
    let hi := (en.cap c >>> 32).setWidth 32
    let starts := fun (i : Instr) (b : Word) (ps : List NmPiece) =>
      ∃ u : State, exec i s = .next (u.commit .cp k en [] true false) ∧ NmStarted s u i en xy b ps
    (NmReady s k en [(xy, len), (xx, len)] count → starts (.nmaxpy k y x c n id inc) xx (pieces 0 xy (some xx) lo hi)) ∧
    (NmReady s k en [(xy, len)] count → starts (.nmscale k y c n id inc) 0#64 (pieces 1 xy none lo hi)) ∧
    (NmReady s k en [(xy, len), (xx, len)] count → starts (.nmfade k y x c n id inc) xx (pieces 2 xy (some xx) lo hi)) ∧
    (NmReady s k en [(xy, len)] count → starts (.nmchk k y n id inc) 0#64 (pieces 5 xy none 0#32 0#32)) ∧
    (NmReady s k en [(xy, len)] count → lo ≠ 0#32 → starts (.nmfill k y c n id inc) 0#64 (pieces 4 xy none lo 0#32)) ∧
    (NmReady s k en [(xy, len)] count → lo = 0#32 → starts (.nmfill k y c n id inc) 0#64 (wholeRegions (pieces 4 xy none lo 0#32))) ∧
    (CpReady s k en → (∀ j ∈ s.me.journal, j.entry.isNm = false) →
      ∃ u : State, exec (.nmfence k id inc) s = .next (u.commit .cp k en [] true false) ∧ Journalled s u (.nmfence k id inc) en 0#64 0#64 0) ∧
    (NmReady s k en [(xy, 4), (xx, len)] count →
      ∃ u : State, exec (.nmsum k y x n id inc) s = .next (u.commit .cp k en [] true false) ∧
        u.pieces = s.pieces ++ pieces 3 xx none 0#32 0#32 ∧ u.mem = s.mem ∧ u.me.r = s.me.r ∧
        u.sums.length = s.sums.length + 1 ∧ u.me.journal.length = s.me.journal.length + 1))

/-- 11 R252, R255, R256: the next unit of a copy inside the package, admitted and clean, leaves its source bytes, or its pattern's, at its destination,
and every other byte reads as before; a copy with no unit left, once its counter may be updated, leaves the journal and adds its increment to its
counter once. 07 R186: the unit of FILL.DISCARD, with none of its banks in use, makes every byte of them read 0 and leaves every other byte. Rests on
the model's choice or reading: the homes that a copy counts under (log 9). -/
def Obligations.CopiesPerform : Prop :=
  (∀ (s : State) (n : Nat) (j : CopyJob) (p : CopyPlan) (v : Nat), s.me.journal[n]? = some j → planOf j.instr j.entry = some p →
    j.entry.isNm = false → s.me.copiesRun j = true → s.unitOf p j = some v → s.copyClear s.cur j = true →
    p.cv = false → p.dst = .va ∨ p.dst = .sa → p.src = .va ∨ p.src = .sa ∨ (∃ w, p.src = .pattern w) →
    (s.copyReqs s.cur j.entry.seq) = [] →
    let d0 := rowAt j.xd p.dstStride (v / 2 ^ 40)
    let s0 := rowAt j.xs p.srcStride (v / 2 ^ 40)
    let o := (rawSpan d0 p.len (v % 2 ^ 40)).1
    let len := (rawSpan d0 p.len (v % 2 ^ 40)).2
    let d := (d0 + o) % 2 ^ 64
    let a := (s0 + o) % 2 ^ 64
    let from_ := s.keysAt (p.src == .va) a len
    let v1 := met s from_
    let w := afterSource s p.src a len
    s.rawChecks s.cur p d a len = .ok () →
    ((∀ w, p.src ≠ .pattern w) → (v1.readKeys from_).2 = false ∧ ∀ q ∈ from_, mfind j.was q.1 = none) →
    ∃ u, exec (.copyUnit n) s = .next u ∧ u.me.r = s.me.r ∧ u.me.pc = s.me.pc ∧ OthersCount s u ∧
      (∃ i, u.me.journal = setNth s.me.journal n i ∧ i.unit = v + 1 ∧ i.instr = j.instr ∧ i.err = j.err) ∧
      StoredAt w u (w.keysAt (p.dst == .va) d len) fun i =>
        match p.src with
        | .pattern w => BitVec.ofNat 8 (w.toNat / 256 ^ ((o + i) % 8))
        | _ => (v1.readKeys from_).1.getD i 0#8) ∧
  (∀ (s : State) (n : Nat) (j : CopyJob) (k : Ctl) (m : BitVec 5) (id : BitVec 8) (inc : BitVec 4), s.me.journal[n]? = some j →
    j.instr = .fillDiscard k m id inc → j.entry.isNm = false → j.unit = 0 → s.me.copiesRun j = true → s.copyClear s.cur j = true →
    let mask := (j.entry.cap m).toNat
    let tile := s.cur / 8
    (∀ e ∈ s.slots, e.2.usesBanks tile mask = false ∧ s.copyUses e.1 tile mask = false) →
    (∀ b, (mine s).busy = some b → b.banks &&& mask = 0) →
    ∃ u, exec (.copyUnit n) s = .next u ∧ u.me = { s.me with journal := setNth s.me.journal n { j with unit := 1 } } ∧
      (∀ q b, b < 16 → natBit mask b = true → unitInBank tile b (unitOf q) = true → u.byte q = 0#8) ∧
      (∀ q, (∀ b, b < 16 → natBit mask b = true → unitInBank tile b (unitOf q) = false) → u.byte q = s.byte q)) ∧
  (∀ (s : State) (n : Nat) (j : CopyJob), s.me.journal[n]? = some j →
    (if j.entry.isNm then j.pieces = 0 else s.me.copiesRun j = true ∧ s.copyLeft j = false) → s.ctrClear s.cur j = true →
    let c := s.me.y.ctx.toNat
    ∃ u, exec (.cpCompletion n) s = .next u ∧ u.me.journal = s.me.journal.eraseIdx n ∧ u.me.r = s.me.r ∧ u.mem = s.mem ∧
      ctrValue (u.counter c (ctrOf j.instr).1) = min (2 ^ 48 - 1) (ctrValue (s.counter c (ctrOf j.instr).1) + (ctrOf j.instr).2) ∧
      ctrErr (u.counter c (ctrOf j.instr).1) = (ctrErr (s.counter c (ctrOf j.instr).1) || j.err) ∧
      (∀ i, i ≠ c * 256 + (ctrOf j.instr).1 → mget 0#64 u.counters i = mget 0#64 s.counters i) ∧
      (j.entry.push = true → u.me.tokens j.entry.pushF = s.me.tokens j.entry.pushF + 1))

/-- 11 R259 to R265, 12 R285, R286, R291: a piece whose base die holds the microcode of its operation, and that no earlier sum of its slot names, updates
each of its elements there, exactly and rounded once, where no sector is in error; NMCHK's changes no byte; the last piece of a region that a fill
with zero covers whole makes it fresh; a sum's piece sends its partial sum; a piece whose engine slot is not loaded sets ERR and does nothing; a
status counts its piece as done; the last partial sum, once the earlier commands of its slot on the result's element are done, writes the result.
Rests on the model's choice or reading: the order of pieces of one stack (log 57). -/
def Obligations.NearMemoryPerforms : Prop :=
  (∀ (s : State) (n : Nat) (p : NmPiece), s.pieces[n]? = some p → p.done = false →
    (∀ q ∈ s.pieces.take n, q.done = true ∨ q.slot / 384 ≠ p.slot / 384 ∨ q.stack ≠ p.stack) → s.nmAhead p.slot p.ord p.names = false →
    (s.nmHolds p.stack p.op = false → p.op ≠ 3 →
      exec (.nmCommand n) s = .next { s with pieces := setNth s.pieces n { p with done := true, err := true } }) ∧
    (s.nmHolds p.stack p.op = true → (s.routeTo (.die (p.slot / 384)) p.stack).isSome = true → p.op ≤ 5 → p.n ≤ 2 ^ 14 → p.addr % 4 = 0 →
      let w := s.nmReach p
      (p.whole = false → p.op ≠ 3 → w.nmLost p = [] →
        ∃ u, exec (.nmCommand n) s = .next u ∧ u.pieces = setNth s.pieces n { p with done := true, err := false } ∧ u.slots = s.slots ∧
          (p.op = 5 → SameMemory w u) ∧
          (p.op ≠ 5 →
            (∀ i j, i < p.n → j < 4 → w.unserved (.base p.stack) p.kid (p.key i + j) = none →
              u.byte (p.key i + j) = BitVec.ofNat 8 (pieceValue w p i / 256 ^ j)) ∧
            ∀ k, (∀ i j, i < p.n → j < 4 → p.key i + j ≠ k ∧ ((p.key i + j) / 32 = k / 32 → SameKey w p.kid k)) → u.byte k = w.byte k)) ∧
      (p.whole = true → (∀ q ∈ s.pieces.eraseIdx n, q.whole = false ∨ q.done = true) →
        (let t := s.touchAllFrom (.base p.stack) (s.slot p.slot).y.ctx.toNat p.dstKeys
          ∀ c ∈ p.dstKeys, t.unserved (.base p.stack) c.2 c.1 = none) → 0 < p.n →
        ∃ u, exec (.nmCommand n) s = .next u ∧ u.pieces = setNth s.pieces n { p with done := true, err := false } ∧ u.slots = s.slots ∧
          ∀ k, unitOf k = regionUnit (regionIdx (p.key 0)) → u.byte k = 0#8) ∧
      (p.whole = false → p.op = 3 → ∃ u, exec (.nmCommand n) s = .next u ∧ SameMemory w u ∧ u.partials = s.partials ++ [w.nmPartial p] ∧
        u.pieces = setNth s.pieces n { p with done := true, err := (w.nmPartial p).poison }))) ∧
  (∀ (s : State) (n : Nat) (p : NmPiece), s.pieces[n]? = some p → p.done = true →
    ∃ u, exec (.nmStatus n) s = .next u ∧ u.pieces = s.pieces.eraseIdx n ∧ u.mem = s.mem ∧
      (u.slot p.slot).journal = (s.slot p.slot).journal.map fun j =>
        if j.entry.isNm = true ∧ j.entry.seq = p.seq then { j with pieces := j.pieces - 1, err := j.err || p.err } else j) ∧
  (∀ (s : State) (n : Nat) (a : NmPartial) (q : NmSum), s.partials[n]? = some a → s.sums = [q] → q.slot = a.slot → q.seq = a.seq →
    (s.ringRoute a.stack q.stack).isSome = true → s.nmHolds q.stack 6 = true →
    let acc := q.acc.join a
    let k := hbmKey q.stack q.addr
    let ks := (List.range 4).map fun j => (k + j, q.kid)
    let w := { s with partials := dropNth s.partials n, sums := [] }.touchAllFrom (.base q.stack) (s.slot q.slot).y.ctx.toNat ks
    (1 < q.left → exec (.nmsumPartialCombine n) s =
      .next { s with partials := dropNth s.partials n, sums := [{ q with left := q.left - 1, acc := acc }] }) ∧
    (q.left ≤ 1 → s.piecesAhead q.slot q.ord k = false → s.nmAhead q.slot q.ord (fun j => decide (j = k)) = false →
      ∃ u, exec (.nmsumPartialCombine n) s = .next u ∧ u.sums = [] ∧
        WrittenAt (.base q.stack) w u ks fun j => BitVec.ofNat 8 (acc.result / 256 ^ j)))

/-- 16 R351 to R353: the next record of a die's task queues enters the in-flight set at its lowest free entry, ordered after the unfinished tasks of its
context whose ranges overlap its own; a finished task leaves the set, and nothing waits for it any longer. No slot changes, and no byte or table but by
the read of the record. Rests on
the model's choice or reading: that a task takes the lowest free entry (log 59), and records that cannot be read (log 12). -/
def Obligations.TaskSet : Prop :=
  (∀ (s : State) (die : BitVec 3) (c t : Nat) (e : TqEntry) (rest : List TqEntry) (r : TaskRec),
    (s.die die.toNat).failed = false → s.nextQueue die.toNat = some c → mget [] s.taskQ c = e :: rest →
    let v := { s.setDie die.toNat { s.die die.toNat with lastCtx := c } with taskQ := mput s.taskQ c rest }
    s.freeIndex die.toNat = some t → (v.recordAt c e.record).2 = some r →
    ∃ u x, exec (.taskEntry die) s = .next u ∧ Kept (v.recordAt c e.record).1 u ∧ u.slots = s.slots ∧ mget [] u.taskQ c = rest ∧ mfind u.tasks t = some x ∧ x.rc = r ∧ x.tq = e ∧
      x.ctx = c ∧ (∀ k, k ∈ x.preds ↔ ∃ y, (k, y) ∈ s.tasks ∧ k / 2048 = die.toNat ∧ y.ctx = c ∧ RanksBefore y r) ∧
      (∀ h, h ∈ x.futPreds ↔ h ∈ r.inputs ∧ s.futStale h = false ∧ (s.future (futSlot h)).state = .pending) ∧
      x.state = (if x.preds = [] ∧ x.futPreds = [] then .ready else .waiting) ∧
      ∀ k, k ≠ t → (mfind u.tasks k).map (·.rc) = (mfind s.tasks k).map (·.rc)) ∧
  (∀ (s : State) (die : BitVec 3) (n : BitVec 11) (x : Task),
    let t := die.toNat * 2048 + n.toNat
    mfind s.tasks t = some x → x.state = .finished →
    ∃ u, exec (.predecessorFinish die n) s = .next u ∧ Kept s u ∧ mfind u.tasks t = none ∧
      ∀ k y, k ≠ t → mfind s.tasks k = some y → ∃ z, mfind u.tasks k = some z ∧ z.preds = y.preds.filter (fun p => p ≠ t) ∧
        z.futPreds = y.futPreds.filter (fun h => h ≠ x.tq.handle) ∧ z.rc = y.rc)

/-- 01 R21, R33, 04 R101, 16 R354, R362, R364, 20 R414: the lone ready team of a die that fits is placed, its member on a free slot with the registers of
its record; a pre-empted team resumes where it stands; of several teams the draw's winner takes precedence while it cannot be placed; and so does the
team that waited longest once 2^STARVELOG cycles have passed. Rests on the model's choice or reading: which free slots a team takes (log 59). -/
def Obligations.TeamPlacement : Prop :=
  (∀ (s : State) (die : BitVec 3) (team t : Nat) (x : Task) (l : List (Nat × Decl)),
    let d := die.toNat
    (s.die d).failed = false → (s.die d).precede = none → s.candidates d = [team] → (s.team team).state = .waiting →
    (s.team team).tasks = [t] → mfind s.tasks t = some x → s.placeOf false team = some l →
    ∃ u n, exec (.teamPlacement die) s = .next u ∧ (s.slot n).vacant = true ∧ (u.team team).state = .resident ∧ (u.team team).slots = [n] ∧
      (∀ m, m ≠ n → u.slot m = s.slot m) ∧
      (let z := u.slot n
       z.pc = x.rc.prologue ∧ z.job.part = .prologue ∧ z.job.task = some t ∧ z.job.trip = x.rc.trip ∧ z.r = {} ∧ z.e = {} ∧
        z.y.level = 0#2 ∧ z.y.inTrap = false ∧ z.y.stampBase = x.rc.stampBase ∧ z.y.slip = min 64 x.rc.slip ∧
        z.y.iterBudget = x.rc.budget ∧ z.y.redMax.toNat = (if x.rc.redMax = 0 then 65536 else min (2 ^ 24) x.rc.redMax) ∧
        z.y.ctx = BitVec.ofNat 12 x.ctx ∧ z.y.csaBase = BitVec.ofNat 64 (s.csaArray (t / 2048) + t % 2048 * 65536) ∧
        z.y.cutBase = z.y.csaBase + 0xD100#64) ∧
      (AtRest s (s.keysAt true (s.csaOf t + 0xD100) 8) → ∀ a, 2 ^ 40 ≤ a →
        (∀ k ∈ s.keysAt true (s.csaOf t + 0xD100) 8, a / 32 ≠ k.1 / 32) → u.byte a = s.byte a)) ∧
  (∀ (s : State) (die : BitVec 3) (team : Nat),
    let d := die.toNat
    (s.die d).failed = false → (s.die d).precede = none → s.candidates d = [team] → (s.team team).state = .preempted →
    (∀ n ∈ (s.team team).slots, (s.slot n).anyLatch = false) →
    ∃ u, exec (.teamPlacement die) s = .next u ∧ (u.team team).state = .resident ∧ u.mem = s.mem ∧
      ∀ n, (n ∈ (s.team team).slots → (s.slot n).job.team = team → (u.slot n).job.preempted = false) ∧
        (u.slot n).r = (s.slot n).r ∧ (u.slot n).pc = (s.slot n).pc) ∧
  (∀ (s : State) (die : BitVec 3),
    let d := die.toNat
    let cs := s.candidates d
    let w := cs.getD (winner (cs.map s.teamTickets) (drawValue (s.die d).seed 0 (s.die d).draw)) 0
    (s.die d).failed = false → (s.die d).precede = none → 1 < cs.length → (s.team w).state = .swapped →
    ∃ u, exec (.teamPlacement die) s = .next u ∧ u = { s with dies := u.dies } ∧
      u.die d = { s.die d with draw := (s.die d).draw + 1#56, precede := some w } ∧ ∀ k, k ≠ d → u.die k = s.die k) ∧
  (∀ (s : State) (die : BitVec 3) (k : Nat),
    let d := die.toNat
    let waits := fun (j : Nat) => (∃ t, (j, t) ∈ s.teams ∧ t.die = d) ∧ s.teamReady j = true ∧ s.teamFits j = false
    (s.die d).precede = none → waits k → (∀ j, waits j → (s.team k).since ≤ (s.team j).since) →
    (s.team k).since + 2 ^ natBits (s.entry 0x13 d) 16 12 ≤ s.dcc.toNat →
    ∃ u j, exec (.starvationExpiry die) s = .next u ∧ waits j ∧ (s.team j).since = (s.team k).since ∧ u = { s with dies := u.dies } ∧
      u.die d = { s.die d with precede := some j } ∧ ∀ k, k ≠ d → u.die k = s.die k)

/-- 20 R412 to R414: a pre-emption request marks every running member of a resident team, and of a resident team with which it runs a pair; a marked slot
is cut at its next boundary, the end of its epilogue among them, or once an iteration has run longer than ITER_BUDGET, which is reported. 05 R136, 18 R383, 19 R398, R399: a job whose words have ended and whose every command is complete
ends, unless a cut is due at its last boundary: its slot is free, its task is finished and its future done; a task whose future is reclaimed is reclaimed where its slot is pre-empted, and its
slot is free. Rests on the model's choice or reading: what goes on while a cut is awaited (log 43). -/
def Obligations.PreemptionAndEnds : Prop :=
  ((∀ (s : State) (team : Nat), (s.team team).state = .resident →
    let asked := fun (v : Nat) => v = team ∨ (v ∈ s.pairedTeams team ∧ (s.team v).state = .resident)
    ∃ u, exec (.preemptRequest team) s = .next u ∧ (∀ v, asked v → (u.team v).state = .stopping) ∧ u.mem = s.mem ∧ u.tab = s.tab ∧
      ∀ n, (u.slot n).r = (s.slot n).r ∧ (u.slot n).pc = (s.slot n).pc ∧ (u.slot n).e = (s.slot n).e ∧ (u.slot n).y = (s.slot n).y ∧
        ((u.slot n).job.preemptReq = true ↔ (s.slot n).job.preemptReq = true ∨
          ((s.slot n).job.task.isSome = true ∧ asked (s.slot n).job.team ∧ n ∈ (s.team (s.slot n).job.team).slots))) ∧
  (∀ (s : State), s.me.job.preemptReq = true → s.me.atBoundary = true → CanCut s →
    ∃ u, exec .preemptionCut s = .next u ∧ StandsCut u) ∧
  (∀ (s : State),
    let used := s.dcc.toNat - s.me.job.iterStart.toNat
    s.me.job.preemptReq = true → (s.me.job.part = .prologue ∨ s.me.job.part = .kernel ∨ s.me.job.part = .epilogue) →
    s.me.y.iterBudget ≠ 0#32 → s.me.y.iterBudget.toNat < used → CanCut s →
    ∃ u l, exec .iterOverrun s = .next u ∧ StandsCut u ∧ (u.die (dieOf s.cur)).reports = l ++ [⟨0x50, s.cur, used⟩])) ∧
  ((∀ (s : State) (t : Nat) (x : Task), s.me.job.part = .ended → s.me.calm = true → s.me.quiet (s.tile (s.cur / 8)) s.cur = true →
    s.homeFailed s.cur = false → s.me.job.preemptReq = false ∨ s.me.atBoundary = false →
    s.me.job.task = some t → mfind s.tasks t = some x → x.slot = some s.cur → x.refs = [] →
    let f := s.future (futSlot x.tq.handle)
    ∃ u y, exec .jobEnd s = .next u ∧ Left u.me ∧ mfind u.tasks t = some y ∧ y.state = .finished ∧
      (s.futStale x.tq.handle = false → f.state = .pending → 0 < f.count → f.front = false →
        u.future (futSlot x.tq.handle) = { f with state := .done }) ∧ ∀ m, m ≠ s.cur → (u.slot m).r = (s.slot m).r) ∧
  (∀ (s : State) (t : Nat) (x : Task), s.doomed s.cur = true → s.me.job.preempted = true → s.me.job.task = some t →
    mfind s.tasks t = some x → x.slot = some s.cur → x.refs = [] →
    ∃ u y, exec .taskReclaim s = .next u ∧ Left u.me ∧ mfind u.tasks t = some y ∧ y.state = .finished))

/-- 20 R415 to R418: a context switch saves the slot at its CSA and goes on with the slot saved at another; a stopped team is swapped out, each slot saved
and all that the team holds on its tiles freed; a team that takes precedence is swapped in, its saved slots restored. Rests on the model's choice or
reading: what State.csa keeps of a saved slot (log 14). -/
def Obligations.Swaps : Prop :=
  (∀ (s : State) (incoming : Word) (y : Slot),
    let base := s.me.y.csaBase.toNat
    s.me.cutDone = true → base ≠ 0 → s.checkVa (s.schedIssuer s.cur) base 0x10000 rW = .ok () → incoming.toNat ≠ base →
    mfind s.csa incoming.toNat = some y → y.anyLatch = false → y.job.stopped = false →
    ∃ u, exec (.contextSwitch incoming) s = .next u ∧ mfind u.csa base = some s.me ∧ mfind u.csa incoming.toNat = none ∧
      u.me.r = y.r ∧ u.me.pc = y.pc ∧ u.me.job.task = y.job.task ∧ u.me.job.preempted = false ∧ ∀ n, n ≠ s.cur → u.slot n = s.slot n) ∧
  (∀ (s : State) (team : Nat),
    let live := (s.team team).slots.filter fun n => (s.slot n).job.team = team && (s.slot n).job.task.isSome
    (s.team team).state = .preempted →
    let saved := live.foldl (fun (r : State × Bool) n => ((r.1.saveSlot n).1, r.2 && (r.1.saveSlot n).2)) (s, true)
    (∀ n ∈ live, (s.slot n).cutDone = true) → saved.2 = true →
    ∃ u, exec (.teamSwapOut team) s = .next u ∧ (u.team team).state = .swapped ∧
      (∀ n ∈ live, (u.slot n).job.task = none ∧
        ((∀ m ∈ live, (s.slot m).y.csaBase.toNat = (s.slot n).y.csaBase.toNat → m = n) →
          mfind u.csa (s.slot n).y.csaBase.toNat = some (s.slot n))) ∧
      (∀ k ∈ (s.team team).tiles, (u.tile k).granulesOf team = []) ∧ ∀ n, n ∉ live → u.slot n = s.slot n) ∧
  (∀ (s : State) (team : Nat),
    let t := s.team team
    let members := (t.tasks.zip t.slots).filter fun p => s.inFlight p.1
    t.state = .swapped → (s.die t.die).precede = some team → (∀ p ∈ members, (s.slot p.2).vacant = true) →
    (∀ i ∈ t.image, s.imageFits false i = true) →
    ∃ u, exec (.teamSwapIn team) s = .next u ∧ (u.team team).state = .resident ∧ (u.team team).image = [] ∧
      (u.die t.die).precede = none ∧
      ∀ k n b y, members = [(k, n)] → s.csaKey k = some b → mfind s.csa b = some y → y.anyLatch = false →
        (u.slot n).r = y.r ∧ (u.slot n).job.task = y.job.task ∧ (u.slot n).job.preempted = false)

/-- 13 R310: the oldest swapped queue that fits its pool and its tenant's share returns at a free place; while there is no room for a tenant's oldest
swapped queue, a resident queue is swapped out. Both are counted, and no other queue's entry changes. 07 R185, R187: a bank or region in summer that
nobody holds goes to autumn after the idle interval of its die; one in spring reaches summer when its wake completes; a BWPHASE hold ends after its
duration. Contents are kept. Rests on the model's choice or reading: the place of a queue in its pool (log 16) and wakes within a step (log 38). -/
def Obligations.QueueSwapsAndSeasons : Prop :=
  ((∀ (s : State) (die : BitVec 3) (k o : Nat),
    let d := die.toNat
    let q := s.entry 0x16 k
    let fits := fun (j : Nat) => (s.poolRoom d (qBytes (s.entry 0x16 j))).isSome &&
      decide (s.tenantBytes d (qTenant (s.entry 0x16 j)) + qBytes (s.entry 0x16 j) ≤ s.tenantShare d (qTenant (s.entry 0x16 j)))
    s.qSwaps.find? (fun j => decide (j / 4096 = d) && fits j) = some k → s.poolRoom d (qBytes q) = some o →
    ∃ u, exec (.queueSwapIn die) s = .next u ∧ k ∉ u.qSwaps ∧ natBit (u.entry 0x16 k) 126 = false ∧
      natBits (u.entry 0x16 k) 31 0 = o % 2 ^ 32 ∧ natBits (u.entry 0x16 k) 125 32 = natBits q 125 32 ∧
      u.entry 0x16 k / 2 ^ 127 = q / 2 ^ 127 ∧ (∀ c i, tkey c i ≠ tkey 0x16 k → u.entry c i = s.entry c i) ∧
      mget 0 u.devEvents (d * 4096 + 6) = min (mget 0 s.devEvents (d * 4096 + 6) + 1) (2 ^ 48 - 1) ∧
      u.slots = s.slots ∧ u.mem = s.mem) ∧
  (∀ (s : State) (die : BitVec 3) (tenant : BitVec 8) (k v : Nat),
    let d := die.toNat
    let len := qBytes (s.entry 0x16 k)
    let excess := (s.residentQueues d).filter fun j =>
      decide (s.tenantShare d (qTenant (s.entry 0x16 j)) < s.tenantBytes d (qTenant (s.entry 0x16 j)))
    s.qSwaps.find? (fun j => decide (j / 4096 = d) && decide (qTenant (s.entry 0x16 j) = tenant.toNat)) = some k → s.poolRoom d len = none →
    (excess = [v] ∨ (excess = [] ∧ s.tenantBytes d tenant.toNat + len ≤ s.tenantShare d tenant.toNat ∧ s.residentQueues d = [v])) →
    ∃ u, exec (.queueSwapOut die tenant) s = .next u ∧ u.qSwaps = s.qSwaps ++ [v] ∧ natBit (u.entry 0x16 v) 126 = true ∧
      natBits (u.entry 0x16 v) 125 32 = natBits (s.entry 0x16 v) 125 32 ∧ u.entry 0x16 v / 2 ^ 127 = s.entry 0x16 v / 2 ^ 127 ∧
      (∀ c i, tkey c i ≠ tkey 0x16 v → u.entry c i = s.entry c i) ∧ u.slots = s.slots ∧ u.mem = s.mem)) ∧
  ((∀ (s : State) (tile bank : Nat),
    let moves := fun (ev : Instr) (c : BitVec 2) => ∃ u, exec ev s = .next u ∧ mget 2#2 (u.tile tile).season bank = c ∧
      (∀ b, b ≠ bank → mget 2#2 (u.tile tile).season b = mget 2#2 (s.tile tile).season b) ∧ (∀ k, k ≠ tile → u.tile k = s.tile k) ∧ Kept s u
    (mget 2#2 (s.tile tile).season bank = 0#2 → s.bankHeld tile bank = false →
      2 ^ natBits (s.entry 0x13 (tile / 48)) 11 7 ≤ s.dcc.toNat - mget 0 (s.tile tile).lastUse bank →
      moves (.seasonIdleExpiry (.bank tile bank)) 1#2) ∧
    (mget 2#2 (s.tile tile).season bank = 3#2 → moves (.wakeComplete (.bank tile bank)) 0#2)) ∧
  (∀ (s : State) (stack region : Nat), stack < 16 → region < 2 ^ 15 →
    let i := stack * 2 ^ 15 + region
    let moves := fun (ev : Instr) (c : Nat) => ∃ u, exec ev s = .next u ∧ u.regionSeason i = c ∧
      (∀ k j, tkey k j ≠ tkey 0x0D i → u.entry k j = s.entry k j) ∧ u.slots = s.slots ∧ u.mem = s.mem
    (s.regionSeason i = 0 → s.regionHeld stack region = false → natBit (s.entry 0x0D i) 2 = false →
      2 ^ natBits (s.entry 0x13 (stack / 2)) 11 7 ≤ s.dcc.toNat - mget 0 s.regionUse i →
      moves (.seasonIdleExpiry (.region stack region)) 1) ∧
    (s.regionSeason i = 3 → moves (.wakeComplete (.region stack region)) 0)) ∧
  (∀ (s : State) (h : BwHold) (t : Nat), s.me.bwHold = some h → h.till = some t → t ≤ s.dcc.toNat →
    ∃ u, exec .holdExpiry s = .next u ∧ u.me = { s.me with bwHold := none } ∧ (∀ n, n ≠ s.cur → u.slot n = s.slot n) ∧ u.mem = s.mem ∧
      ∀ b, b < 16 → natBit h.banks b = true → mget 0 (u.tile (s.cur / 8)).lastUse b = s.dcc.toNat))

/-- 13 R311, 21 R430, R432: a kick within the ring moves TAIL and one beyond it stops the queue with reason 1; CQHEAD moves within what is written and
otherwise stops the queue with reason 4 (a stop that stands keeps its reason: the model's choice, log 34); clearing STOPPED starts intake again;
nothing else changes. 21 R429, R432: a queue record with VALID, a size of 16 to 4096, aligned rings and a valid context of an unlocked VF (or any
valid context of a PF) creates the queue with nothing in it; the oldest completion is written at its place of the ring while the ring has room, DONE
moves on, and its interrupt is raised where the command asked for it. 21 R424, R426, 23 R458: a WIN_MEM access of 1 to 8 bytes that the tenant's
rights admit reads or writes them; one that they do not admit reads all ones, as does one of a function that the host does not reach. A semaphore goes
to the port that asks, in a tie to the port that lost the last one, and is free again when its holder releases it. Rests on the model's choice or
reading: the WIN_MEM buffer of a function (log 22), which changes of queues are ignored (log 47), poisoned reads (log 49), and where answers are noted
(log 36). -/
def Obligations.HostQueuesAndAccesses : Prop :=
  (∀ (s : State) (fn : Fn) (q : BitVec 4),
    let k := hqKey fn q
    let x := s.hostQ k
    let size := 2 ^ natBits x.record.toNat 126 123
    let stop := fun (reason : Nat) => if x.stopped then x else { x with stopped := true, reason := reason }
    s.fnUp fn = true → x.valid = true →
    (∀ tail, ∃ u, exec (.hostKick fn q tail) s = .next u ∧
      OnlyQueue s u k (if (tail - x.head).toNat ≤ size then { x with tail := tail } else stop 1)) ∧
    (∀ head, ∃ u, exec (.cqheadWrite fn q head) s = .next u ∧
      OnlyQueue s u k (if (x.done - head).toNat ≤ size then { x with cqhead := head } else stop 4)) ∧
    (s.fnError fn = false → ∃ u, exec (.stoppedClear fn q) s = .next u ∧ OnlyQueue s u k { x with stopped := false, reason := 0 })) ∧
  ((∀ (s : State) (fn : Fn) (q : BitVec 4) (byPf : Bool) (rec : BitVec 128),
    let r := rec.toNat
    let ctx := natBits r 122 111
    s.fnUp fn = true → (s.hostQ (hqKey fn q)).valid = false → natBit r 127 = true → 4 ≤ natBits r 126 123 → natBits r 126 123 ≤ 12 →
    natBits r 79 40 % 4096 = 0 → natBits r 39 0 % 4096 = 0 → ctxValid (s.context ctx) = true →
    (match fn with
      | .pf _ => True
      | .vf id => (s.vf id.toNat).state = .unlocked ∧ (s.vf id.toNat).teardown = false ∧ s.vfOfCtx ctx = id.toNat) →
    ∃ u x, exec (.hostQueueCreate fn q byPf rec) s = .next u ∧ OnlyQueue s u (hqKey fn q) x ∧ x = { record := x.record } ∧
      natBits x.record.toNat 127 105 = natBits r 127 105 ∧ natBits x.record.toNat 104 80 = 0 ∧
      natBits x.record.toNat 79 0 = natBits r 79 0) ∧
  (∀ (s : State) (fn : Fn) (q : BitVec 4) (c : Completion) (l : List Completion) (b : Nat),
    let k := hqKey fn q
    let x := s.hostQ k
    let va := b * 2 ^ 40 + natBits x.record.toNat 39 0 + 16 * (c.index % 2 ^ natBits x.record.toNat 126 123)
    s.fnUp fn = true → x.valid = true → x.ready = c :: l → (x.done - x.cqhead).toNat < 2 ^ natBits x.record.toNat 126 123 →
    s.winBuf fn = some b → s.checkVa (s.fnIssuer fn) va 16 rW = .ok () →
    ∃ u, exec (.completionEntryWrite fn q) s = .next u ∧ u.hostQ k = { x with ready := l, done := x.done + 1#32 } ∧
      u.irqs = (if c.irq then s.irqs ++ [(fnKey fn, natBits x.record.toNat 110 105)] else s.irqs) ∧ u.slots = s.slots ∧
      WrittenAt (.die 0) (hostArrived s va 16) u (hostBytes s va 16) fun j => BitVec.ofNat 8 ((c.index % 2 ^ 32 + c.status % 2 ^ 16 * 2 ^ 32 +
        c.handle.toNat * 2 ^ 64 + c.gen.toNat * 2 ^ 96) / 256 ^ j))) ∧
  ((∀ (s : State) (fn : Fn) (va : Word) (len : BitVec 4) (data : Word),
    let n := len.toNat
    let read := fun (u : State) (v : Nat) => u.answers = s.answers ++ [⟨0x100, v⟩] ∧ u.slots = s.slots
    1 ≤ n → n ≤ 8 →
    (s.fnUp fn = false → (∃ u, exec (.hostWinMemAccess fn va len false data) s = .next u ∧ read u (256 ^ n - 1) ∧ u.mem = s.mem) ∧
      exec (.hostWinMemAccess fn va len true data) s = .next s) ∧
    (s.fnUp fn = true → (∀ v, s.checkVa (s.fnIssuer fn) va.toNat n rR ≠ .ok v) →
      ∃ u, exec (.hostWinMemAccess fn va len false data) s = .next u ∧ read u (256 ^ n - 1) ∧ u.mem = s.mem) ∧
    (s.fnUp fn = true → s.checkVa (s.fnIssuer fn) va.toNat n rR = .ok () →
      ∃ u, exec (.hostWinMemAccess fn va len false data) s = .next u ∧
        SameMemory (hostArrived s va.toNat n) u ∧
        read u (if (hostValue s va.toNat n).any Prod.snd then 256 ^ n - 1 else leNat ((hostValue s va.toNat n).map Prod.fst))) ∧
    (s.fnUp fn = true → s.checkVa (s.fnIssuer fn) va.toNat n rW = .ok () →
      ∃ u, exec (.hostWinMemAccess fn va len true data) s = .next u ∧ u.answers = s.answers ∧ u.slots = s.slots ∧
        WrittenAt (.die 0) (hostArrived s va.toNat n) u (hostBytes s va.toNat n) fun j => BitVec.ofNat 8 (data.toNat / 256 ^ j))) ∧
  (∀ (s : State) (a b p : Bool) (n : BitVec 6),
    let only := fun (u : State) (x : Option Bool) => u.sem n.toNat = x ∧ (∀ j, j ≠ n.toNat → u.sem j = s.sem j) ∧
      u = { s with sems := u.sems, tieLoser := u.tieLoser }
    (s.sem n.toNat = none → a = true ∨ b = true → (a = true → s.fnUp (.pf false) = true) → (b = true → s.fnUp (.pf true) = true) →
      ∃ u, exec (.semaphoreRequest a b n) s = .next u ∧ only u (some (if a && b then s.tieLoser else b)) ∧
        u.tieLoser = if a && b then !s.tieLoser else s.tieLoser) ∧
    (s.sem n.toNat ≠ none → exec (.semaphoreRequest a b n) s = .next s) ∧
    (s.fnUp (.pf p) = true → s.sem n.toNat = some p → ∃ u, exec (.semaphoreRelease p n) s = .next u ∧ only u none)))

/-- 21 R431, R433, R435: a queue that may be taken from. INVOKE ends with the status of the first check that fails, or launches: the task gets a pending
future that the front end holds, and an entry at the end of its context's task queue. MODEL_LOAD is done with the next generation, or ends with
FORMAT, or where the plug-in refuses or does not answer in time, with REFUSED_POLICY; MODEL_UNLOAD is done once nothing of its slot is in flight.
Rests on the model's choice or reading: what counts as FORMAT, generations and room (log 48). -/
def Obligations.HostCommands : Prop :=
  ∀ (s : State) (fn : Fn) (q : BitVec 4), s.intakes fn (s.hostQ (hqKey fn q)) = true →
    let k := hqKey fn q
    let x := s.hostQ k
    let c := s.commandAt fn x x.head.toNat
    let mk := s.modelKey x c.mslot
    let m := s.model mk
    let ctx := x.ctx
    let v := s.afterCommand fn x
    let w := (v.launchAt (s.fnIssuer fn) m.descr.toNat).1
    let descr := (v.launchAt (s.fnIssuer fn) m.descr.toNat).2
    let va := natBits (c.addrs.getD 0 0) 55 36 * 2 ^ 40 + natBits (c.addrs.getD 0 0) 35 0 * 256
    let given := (v.launchAt (s.fnIssuer fn) va).2
    let after := fun (w : State) (i : Instr) (status gen : Nat) => ∃ u, exec i s = .next u ∧ QueueAfter s w u k (Finished x c status gen)
    (c.opc ≠ 2 → c.opc ≠ 3 →
      (c.bad = true ∨ c.opc ≠ 1 → after v (.invoke fn q) 1 c.mgen) ∧
      (c.bad = false → c.opc = 1 →
        (m.valid = false ∨ m.unloading = true → after v (.invoke fn q) 2 c.mgen) ∧
        (m.valid = true → m.unloading = false → c.mgen ≠ m.gen.toNat → after v (.invoke fn q) 3 c.mgen) ∧
        (m.valid = true → m.unloading = false → c.mgen = m.gen.toNat →
          (∃ a ∈ c.addrs.take c.nbuf, badAddr a = true) → after v (.invoke fn q) 4 c.mgen) ∧
        (m.valid = true → m.unloading = false → c.mgen = m.gen.toNat → (∀ a ∈ c.addrs.take c.nbuf, badAddr a = false) →
          (descr = none → after w (.invoke fn q) 1 c.mgen) ∧
          ∀ l, descr = some l →
            (w.overLimit ctx l = true → after w (.invoke fn q) 5 c.mgen) ∧
            (w.overLimit ctx l = false → 4096 < (mget [] s.taskQ ctx).length + l.tasks.length → after w (.invoke fn q) 6 c.mgen) ∧
            (w.overLimit ctx l = false → (mget [] s.taskQ ctx).length + l.tasks.length ≤ 4096 →
              w.freeFutures (ctxDie (s.context ctx)) < l.tasks.length → after w (.invoke fn q) 10 c.mgen) ∧
            ∀ t f, w.overLimit ctx l = false → (mget [] s.taskQ ctx).length + 1 ≤ 4096 → l.tasks = [t] →
              1 ≤ w.freeFutures (ctxDie (s.context ctx)) → w.freeFuture (ctxDie (s.context ctx)) = some f →
              let h := futHandle f ((s.future f).gen + 1)
              ∃ u e, exec (.invoke fn q) s = .next u ∧
                u.hostQ k = { x with
                  head := x.head + 1#32, flight := x.flight ++ [⟨x.head.toNat, [h], h, BitVec.ofNat 32 c.mgen, c.irq, mk⟩] } ∧
                mget [] u.taskQ ctx = mget [] s.taskQ ctx ++ [e] ∧ e.record = BitVec.ofNat 64 t ∧ e.handle = h ∧
                e.tag = some k ∧ e.spawned = false ∧ u.future f = {
                  state := .pending, gen := (s.future f).gen + 1, count := 1, ctx := ctx, task := none, front := true,
                  record := BitVec.ofNat 64 t } ∧ u.slots = s.slots ∧ u.mem = w.mem))) ∧
    (c.opc = 2 →
      (c.bad = true ∨ c.nbuf = 0 ∨ badAddr (c.addrs.getD 0 0) = true →
        (∀ accept, after v (.modelLoad fn q accept) 1 m.gen.toNat) ∧ after v (.pluginTimeout fn q) 1 m.gen.toNat) ∧
      let r := (v.launchAt (s.fnIssuer fn) va).1
      (c.bad = false → c.nbuf ≠ 0 → badAddr (c.addrs.getD 0 0) = false → given = none →
        (∀ accept, after r (.modelLoad fn q accept) 1 m.gen.toNat) ∧ after r (.pluginTimeout fn q) 1 m.gen.toNat) ∧
      ∀ l, c.bad = false → c.nbuf ≠ 0 → badAddr (c.addrs.getD 0 0) = false → given = some l →
        after r (.modelLoad fn q false) 9 m.gen.toNat ∧ after r (.pluginTimeout fn q) 9 m.gen.toNat ∧
        (l.bufs = [] → ∃ u, exec (.modelLoad fn q true) s = .next u ∧
          u.model mk = ⟨true, if m.gen = 0xFFFFFFFF#32 then 1#32 else m.gen + 1#32,
            BitVec.ofNat 64 va, [], false⟩ ∧
          u.hostQ k = Finished x c 0 (u.model mk).gen.toNat ∧ (∀ j, j ≠ mk → u.model j = s.model j) ∧ u.slots = s.slots)) ∧
    (c.opc = 3 → (∀ d ∈ x.flight, d.futures ≠ []) →
      (c.bad = true → after v (.modelUnload fn q) 1 c.mgen) ∧
      (c.bad = false → m.valid = false ∨ m.unloading = true → after v (.modelUnload fn q) 2 c.mgen) ∧
      (c.bad = false → m.valid = true → m.unloading = false → c.mgen ≠ m.gen.toNat → after v (.modelUnload fn q) 3 c.mgen) ∧
      (c.bad = false → m.valid = true → m.unloading = false → c.mgen = m.gen.toNat →
        ∃ u, exec (.modelUnload fn q) s = .next u ∧ (u.hostQ k).head = x.head + 1#32 ∧ u.slots = s.slots ∧ u.mem = v.mem ∧
          (s.modelBusy mk = true → (u.model mk).unloading = true ∧ (u.model mk).valid = true ∧ (u.hostQ k).ready = x.ready) ∧
          (s.modelBusy mk = false → (u.model mk).unloading = false ∧ (u.model mk).valid = false ∧
            (u.hostQ k).ready = x.ready ++ [⟨x.head.toNat, 0, 0#32, BitVec.ofNat 32 c.mgen, c.irq⟩])))

/-- 21 R427, R439, 23 R458 to R460, 18 R390: a control of the management page takes effect for the port that holds semaphore 0 and is refused for the
other; POWER_LIMIT is at most 4800; a verified image is staged; reset leaves every item at its reset value; a refusal flag and the event selector are
written, EVT_DATA is cleared by 0. Package reset brings the package up, every link with it and every channel of an accepted stack trained, or stops at
the step that fails, which is step 4 where accepted stacks report two heights. Rests on the model's choice or reading: what PACKAGE_RESET and RESET
leave (log 51), and what stacks report and train as (log 64). -/
def Obligations.Management : Prop :=
  (∀ (s : State) (b : Bool), (s.port b).up = true →
    (s.sem 0 ≠ some b → ∀ i, isControl b i = true →
      ∃ u, exec i s = .next u ∧ u = { s with mgmt := { s.mgmt with refused := true } }) ∧
    (s.sem 0 = some b →
      (∀ v, ∃ u, exec (.powerLimitWrite b v) s = .next u ∧ u = { s with mgmt := { s.mgmt with powerLimit := min 4800 v.toNat } }) ∧
      (∃ u, exec (.fwupd b true) s = .next u ∧ u = { s with mgmt := { s.mgmt with staged := true } }) ∧
      exec (.fwupd b false) s = .next s ∧
      (∃ u, exec (.reset b) s = .next u ∧ u.slots = State.reset.slots ∧ u.tiles = State.reset.tiles ∧ u.mem = State.reset.mem ∧
        u.tab = State.reset.tab ∧ u.mgmt.image = s.mgmt.image + (if s.mgmt.staged then 1 else 0)))) ∧
  (∀ (s : State) (v : W32),
    (∃ u, exec (.registerWrite .refused v) s = .next u ∧
      u = { s with mgmt := { s.mgmt with refused := s.mgmt.refused && !v.getLsbD 16 } }) ∧
    (∃ u, exec (.registerWrite .evtDie v) s = .next u ∧ u = { s with mgmt := { s.mgmt with evtDie := v.toNat / 2 ^ 12 % 8 } }) ∧
    (∃ u, exec (.registerWrite .evtIndex v) s = .next u ∧ u = { s with mgmt := { s.mgmt with evtIndex := v.toNat % 2 ^ 12 } }) ∧
    exec (.registerWrite .readOnly v) s = .next s) ∧
  (∀ (s : State),
    (∃ u, exec (.evtDataWrite 0#48) s = .next u ∧ mget 0 u.devEvents (s.mgmt.evtDie * 4096 + s.mgmt.evtIndex) = 0 ∧
      (∀ j, j ≠ s.mgmt.evtDie * 4096 + s.mgmt.evtIndex → mget 0 u.devEvents j = mget 0 s.devEvents j) ∧
      u = { s with devEvents := u.devEvents }) ∧
    (∀ v, v ≠ 0#48 → exec (.evtDataWrite v) s = .next s)) ∧
  (∀ (s : State) (n : BitVec 4),
    ∃ u, exec (.packageReset n) s = .next u ∧ u.slots = State.reset.slots ∧ u.tiles = State.reset.tiles ∧ u.mem = State.reset.mem ∧
      u.tab = State.reset.tab ∧
      (let told := fun (k : Nat) (r : CapReport) => k < 16 ∧ (({} : Stack).bringLink k).accepted = true ∧ (({} : Stack).bringLink k).report = some r
       let stops := fun (m : Nat) => u.mgmt.bootFail = true ∧ u.mgmt.ready = false ∧ u.mgmt.bootStep = m
       let late := n = 0#4 ∨ 4 < n.toNat
       let mixed := ∃ j k a b, told j a ∧ told k b ∧ a.height ≠ b.height
       (1 ≤ n.toNat → n.toNat ≤ 4 → stops n.toNat) ∧ (late → mixed → stops 4) ∧
        (late → ¬ mixed → 5 ≤ n.toNat → n.toNat ≤ 8 → stops n.toNat) ∧
        (late → ¬ mixed → n = 0#4 ∨ 8 < n.toNat → u.mgmt.bootFail = false ∧ u.mgmt.ready = true ∧ u.mgmt.bootStep = 8 ∧
          ∀ k, k < 16 → (u.stack k).linkUp = true ∧ ((u.stack k).accepted = true → ∀ c, c < 32 →
            (mfind (u.stack k).trainTemp c).isSome = true ∧ natBit (u.stack k).failedPcs (2 * c) = !Config.trains k c ∧
              natBit (u.stack k).failedPcs (2 * c + 1) = !Config.trains k c))) ∧
      u.portA.up = u.mgmt.ready ∧ u.portB.up = u.mgmt.ready)

/-- 20 R420, R421, 21 R423, R425, R437: a port comes up with the tenant that firmware gives; its link going down frees its semaphores, ends its SPDM
session and moves its locked and running VFs to ERROR; a VF takes the lowest free id; a queue without work is stopped and reset; tearing a VF down
blocks its segment under a new generation, and its completion frees segment and VF. Rests on the model's choice or reading: the lowest free VF id (log
59), links that go down (log 47), teardown (log 50). -/
def Obligations.Functions : Prop :=
  (∀ (s : State) (b : Bool) (t : BitVec 8), s.mgmt.ready = true → (s.port b).up = false →
    ∃ u, exec (.portLinkUp b t) s = .next u ∧ u.port b = { up := true, tenant := t } ∧ u.port (!b) = s.port (!b) ∧
      u = { s with portA := u.portA, portB := u.portB }) ∧
  (∀ (s : State) (b : Bool), (∀ v, s.queuesOf v = []) →
    ∃ u, exec (.portLinkDown b) s = .next u ∧ (u.port b).up = false ∧ (u.port b).spdm = {} ∧ u.port (!b) = s.port (!b) ∧
      (∀ n, u.sem n = if s.sem n = some b then none else s.sem n) ∧
      (∀ v x, (v, x) ∈ s.vfs → (∀ y, (v, y) ∈ s.vfs → y = x) →
        (u.vf v).state = if x.portB = b ∧ x.enabled = true ∧ (x.state = .locked ∨ x.state = .run) then .error else x.state) ∧
      u.slots = s.slots ∧ u.mem = s.mem) ∧
  (∀ (s : State) (b : Bool) (i : Nat), s.fnUp (.pf b) = true →
    (s.vfs.filter fun (e : Nat × Vf) => e.2.enabled && e.2.portB == b).length < 255 → i < 512 →
    (s.vf i).enabled = false → (s.vf i).retired = false → (∀ j, j < i → (s.vf j).enabled = true ∨ (s.vf j).retired = true) →
    ∃ u, exec (.vfEnable b) s = .next u ∧ OnlyVf s u i { enabled := true, portB := b }) ∧
  (∀ (s : State) (fn : Fn) (q : BitVec 4),
    let k := hqKey fn q
    let x := s.hostQ k
    x.valid = true → s.tagged k = [] → s.taggedQueued k = [] →
    (x.resetting = false → ∃ u, exec (.queueReset fn q) s = .next u ∧
      u.hostQ k = { x with stopped := true, reason := if x.stopped then x.reason else 2, resetting := true } ∧
      (∀ j, j ≠ k → u.hostQ j = s.hostQ j) ∧ u.slots = s.slots ∧ u.mem = s.mem) ∧
    (x.resetting = true → s.resetDone k = true → ∃ u, exec (.queueResetComplete fn q) s = .next u ∧
      u.hostQ k = { x with resetting := false } ∧ (∀ j, j ≠ k → u.hostQ j = s.hostQ j) ∧ u.slots = s.slots ∧ u.mem = s.mem)) ∧
  (∀ (s : State) (vf : BitVec 9),
    let v := s.vf vf.toNat
    let g := natBits (s.entry 0x03 vf.toNat) 61 50
    (v.enabled = true → v.teardown = false → s.queuesOf vf.toNat = [] →
      ∃ u, exec (.vfTeardown vf) s = .next u ∧
        u.vf vf.toNat = { v with teardown := true, retired := v.retired || decide (g = 4095) } ∧
        natBit (u.entry 0x03 vf.toNat) 62 = true ∧ natBits (u.entry 0x03 vf.toNat) 61 50 = min (g + 1) 4095 ∧
        natBits (u.entry 0x03 vf.toNat) 49 0 = natBits (s.entry 0x03 vf.toNat) 49 0 ∧
        (∀ k node, k < 4 → node ∈ (s.station k).senders → ∃ r ∈ (u.station k).sent, r.op = .gone ∧
          r.h.dstNode = BitVec.ofNat 12 node ∧ r.h.dvf = vf ∧ r.h.dgen = BitVec.ofNat 12 g) ∧ u.slots = s.slots ∧ u.mem = s.mem) ∧
    (v.enabled = true → v.teardown = true → (∀ k ∈ s.queuesOf vf.toNat, (s.hostQ k).resetting = false) →
      ∃ u, exec (.teardownCircuitsComplete vf) s = .next u ∧ natBit (u.entry 0x03 vf.toNat) 63 = false ∧
        (u.vf vf.toNat).enabled = (v.reenable && !v.retired) ∧ (u.vf vf.toNat).state = .unlocked ∧
        (u.vf vf.toNat).retired = v.retired ∧
        (∀ k, ∀ r ∈ (u.station k).reqs, r.vf ≠ vf.toNat) ∧ (∀ q : BitVec 4, (u.hostQ (hqKey (.vf vf) q)).valid = false) ∧
        u.slots = s.slots))

/-- 21 R436 to R438: over the session of the VF's port, LOCK moves an unlocked interface to locked, GET_DEVICE_INTERFACE_REPORT in locked or run notes its
nonce, START with that nonce moves a locked interface to run, STOP begins its teardown; a message that comes in another state is answered with an
error and changes nothing; an error event moves a locked or running interface to ERROR. 21 R440: SPDM requests in their order, each answered once.
GET_VERSION begins anew, capabilities and algorithms follow, then digests, certificate, challenge and measurements 1 to 5 may be read, and a key
exchange with a finish that verifies sets up a session. The order and the response codes are those of SPDM 1.2, which the spec names: the model's
choice, log 23. Rests on the model's choice or reading: teardown after STOP (log 50), and where answers are noted (log 36). -/
def Obligations.InterfacesAndAttestation : Prop :=
  (∀ (s : State) (vf : BitVec 9),
    let k := vf.toNat
    let v := s.vf k
    (s.fnUp (.vf vf) = true → (s.port v.portB).spdm.session = true →
      let answered := fun (u : State) (kind : Nat) => u.answers = s.answers ++ [⟨kind, k⟩]
      let error := fun (i : Instr) => ∃ u, exec i s = .next u ∧ OnlyVf s u k v ∧ answered u 0x182
      (if v.state = .unlocked ∧ v.teardown = false ∧ natBit (s.entry 0x03 k) 63 = true
        then ∃ u, exec (.lockInterfaceRequest vf) s = .next u ∧ OnlyVf s u k { v with state := .locked, nonce := none } ∧ answered u 0x181
        else error (.lockInterfaceRequest vf)) ∧
      (∀ n, if v.state = .locked ∧ v.nonce = some n
        then ∃ u, exec (.startInterfaceRequest vf n) s = .next u ∧ OnlyVf s u k { v with state := .run } ∧ answered u 0x181
        else error (.startInterfaceRequest vf n)) ∧
      (∀ n, if v.state = .locked ∨ v.state = .run
        then ∃ u r, exec (.getDeviceInterfaceReport vf n) s = .next u ∧ OnlyVf s u k { v with nonce := some n } ∧
          u.answers = s.answers ++ [⟨0x180, r⟩] ∧ r % 2 ^ 32 = 1 ∧ r / 2 ^ 32 % 2 ^ 16 = k ∧
          r / 2 ^ 48 % 2 ^ 16 = natBits (s.entry 0x03 k) 61 50
        else error (.getDeviceInterfaceReport vf n)) ∧
      (s.queuesOf k = [] → ∃ u, exec (.stopInterfaceRequest vf) s = .next u ∧ (u.vf k).teardown = true ∧ (u.vf k).reenable = true ∧
        answered u 0x181 ∧ u.slots = s.slots)) ∧
    (v.enabled = true → v.state = .locked ∨ v.state = .run → s.queuesOf k = [] →
      let errs := fun (c : TdispCause) => ∃ u, exec (.tdispErrorEvent vf c) s = .next u ∧ u.vf k = { v with state := .error } ∧
        (∀ j, j ≠ k → u.vf j = s.vf j) ∧ u.slots = s.slots ∧ u.mem = s.mem
      errs .configWrite ∧ errs .sessionLoss ∧ ((s.port v.portB).up = false → errs .linkDown) ∧ (s.fabricFailed = true → errs .fabricFailed))) ∧
  (∀ (s : State) (b : Bool), s.fnUp (.pf b) = true →
    let x := (s.port b).spdm
    let answers := fun (i : Instr) (fits : Prop) (kind : Nat) (y : Spdm) =>
      (fits → ∃ u, exec i s = .next u ∧ Spoken s u b kind y) ∧ (¬ fits → ∃ u, exec i s = .next u ∧ Spoken s u b 0x27F x)
    answers (.getVersion b) True 0x204 { stage := 1 } ∧
    answers (.getCapabilities b) (x.stage = 1) 0x261 { x with stage := 2 } ∧
    answers (.negotiateAlgorithms b) (x.stage = 2) 0x263 { x with stage := 3 } ∧
    answers (.getDigests b) (3 ≤ x.stage) 0x201 x ∧ answers (.getCertificate b) (3 ≤ x.stage) 0x202 x ∧
    answers (.challenge b) (3 ≤ x.stage) 0x203 x ∧
    (∀ n : BitVec 8, answers (.getMeasurements b n) (3 ≤ x.stage ∧ 1 ≤ n.toNat ∧ n.toNat ≤ 5) 0x260 x) ∧
    answers (.keyExchange b) (3 ≤ x.stage) 0x264 { x with handshake := true } ∧
    (∀ v, answers (.finish b v) (x.handshake = true ∧ v = true) 0x265 { x with handshake := false, session := true }))

/-- 12 R268 to R271, R274, R278, R291, 07 R185: a READ64 or WRITE64 that its stack does not serve completes at once with both poison flags, and memory is
unchanged; another takes a place in the queue of 16 of its PC, waking its region; with no place it waits. A queued read, performed, answers with the
64 bytes of its unit and a poison flag for each sector, a queued write writes the bytes that its mask names and answers; a command clock serves the
request whose row is open, and opens the row of one whose is not, or refreshes. The oldest message of a link arrives. Rests on the model's choice or reading: flags
of answers (log 44), where answers are noted (log 36), and refreshes (log 63). -/
def Obligations.BaseDieRequests : Prop :=
  (∀ (s : State) (h : LinkHdr) (w : Option (Word × BitVec 512)),
    let k := h.stk.toNat
    let i := match w with | none => Instr.read64 h | some c => .write64 h c.1 c.2
    let base := 2 ^ 40 + k * 2 ^ 36 + h.uaddr.toNat * 64
    let v := s.drainSeasons k
    let o := Origin.die (k / 2)
    let q := (v.stack k).queue (pcOf base)
    let g := k * 2 ^ 15 + h.uaddr.toNat / 2 ^ 15
    ∃ u, exec i s = .next u ∧ u.slots = s.slots ∧
      (v.unserved o h.key.toNat base ≠ none → u.mem = v.mem ∧ (u.stack k).queues = (v.stack k).queues ∧ ∃ l, (u.stack k).fromStack = l ++
        [match w with | none => .data { h with flags := 3#2 } 0#512 | some _ => .wack { h with flags := 3#2 }]) ∧
      (v.unserved o h.key.toNat base = none → q.length < 16 →
        (u.stack k).queue (pcOf base) = q ++ [⟨h, w, 0⟩] ∧ (∀ p, p ≠ pcOf base → (u.stack k).queue p = (v.stack k).queue p) ∧
          (u.stack k).fromStack = (v.stack k).fromStack ∧ u.regionSeason g = (if v.regionSeason g = 0 then 0 else 3) ∧
          ∀ a, u.byte a = if v.regionSeason g = 2 ∧ unitOf a = regionUnit g then 0#8 else v.byte a) ∧
      (v.unserved o h.key.toNat base = none → 16 ≤ q.length → u = v)) ∧
  (∀ (s : State) (h : LinkHdr) (p : Nat),
    let k := h.stk.toNat
    let o := Origin.die (k / 2)
    s.unserved o h.key.toNat (2 ^ 40 + k * 2 ^ 36 + h.uaddr.toNat * 64) = none →
    (let v := s.noteReadsFrom o (unitOfHdr h)
     let bs := (unitOfHdr h).map fun q => v.readKeyFrom o q.2 q.1
     let u := s.performReq ⟨h, none, p⟩
     let f := (if (bs.take 32).any Prod.snd then 1 else 0) + if (bs.drop 32).any Prod.snd then 2 else 0
     SameMemory s u ∧ u.slots = s.slots ∧ ∃ l, (u.stack k).fromStack = l ++
       [.data { h with flags := BitVec.ofNat 2 f } (BitVec.ofNat 512 (leNat (bs.map Prod.fst)))]) ∧
    ∀ (m : Word) (d : BitVec 512),
      let u := s.performReq ⟨h, some (m, d), p⟩
      u.slots = s.slots ∧ (∃ l f, (u.stack k).fromStack = l ++ [.wack { h with flags := f }]) ∧
        WrittenAt o s u ((lanesOf m).map fun i => (2 ^ 40 + k * 2 ^ 36 + h.uaddr.toNat * 64 + i, h.key.toNat))
          fun j => BitVec.ofNat 8 (d.toNat / 256 ^ (lanesOf m).getD j 0)) ∧
  (∀ (s : State) (k pc : Nat) (r : PcReq),
    let x := s.stack k
    let v := s.setStack k { x with queues := mput x.queues pc [] }
    let u := s.pcClock k pc
    x.queue pc = [r] → r.h.stk.toNat = k → pcOf r.key0 = pc → s.unserved r.origin r.h.key.toNat r.key0 = none →
    s.regionSeason (regionIdx r.key0) = 0 →
    (mfind x.rows (bankNo r.key0) = some (rowNo r.key0) → (u.stack k).queue pc = [] ∧
      (u.stack k).fromStack = ((v.performReq r).stack k).fromStack ∧ SameMemory (v.performReq r) u) ∧
    (mfind x.rows (bankNo r.key0) = none → ∃ y, OnlyStack s u k y ∧ y = { x with hist := y.hist, rows := y.rows } ∧
      mfind y.rows (bankNo r.key0) = if Config.refreshDue s.freeCtr k pc then none else some (rowNo r.key0))) ∧
  (∀ (s : State) (stack : BitVec 4) (m : LinkMsg) (r : List LinkMsg),
    let k := stack.toNat
    let x := s.stack k
    x.fromStack = m :: r →
    (∀ h d, m = .data h d → ∃ u v, exec (.data64 stack) s = .next u ∧ u = { s with hbm := u.hbm, answers := s.answers ++ [⟨0x03, v⟩] } ∧
      v / 2 ^ 64 = d.toNat ∧ v % 2 ^ 30 = h.uaddr.toNat ∧ u.stack k = { x with fromStack := r }) ∧
    (∀ h, m = .wack h → ∃ u v, exec (.wack stack) s = .next u ∧ u = { s with hbm := u.hbm, answers := s.answers ++ [⟨0x04, v⟩] } ∧
      v % 2 ^ 30 = h.uaddr.toNat ∧ u.stack k = { x with fromStack := r }) ∧
    (∀ h, m = .poison h → ∃ u, exec (.poisonReport stack) s = .next u ∧ u = { s with hbm := u.hbm, devEvents := u.devEvents } ∧
      mget 0 u.devEvents (k / 2 * 4096 + 4) = min (mget 0 s.devEvents (k / 2 * 4096 + 4) + 1) (2 ^ 48 - 1) ∧
      u.stack k = { x with fromStack := r }))

/-- 12 R272 to R276, R279, R282, R283, R285, R288 to R294: season map updates, capacity requests and reports (two heights stop bring-up), replays of
alerts (the commands go out again; four that fail leave the PC failed), training again after 8 degrees, and the faults of a stack's links, none of
which loses or changes a byte of memory. 23 R454 to R457, 01 R10, R13: a
scrub counts what it corrects, and the third pass to do so in a row remaps it, and poisons what it cannot; a power window above the limit slows the clock by one step, one below 95 percent raises it;
a lockstep mismatch moves the die's firmware to its second pair, and a second one stops it; a spare takes the place of a tile without a team; a ring
link that fails is out. Rests on the model's choice or reading: messages without framing (log 21), what a spare tile holds (log 52), errors and what a
scrub finds (log 62), the number of its pass (log 82). -/
def Obligations.StackLinksAndService : Prop :=
  (∀ (s : State) (stack : BitVec 4),
    let k := stack.toNat
    let x := s.stack k
    (∀ event first r, first < 2 ^ 15 → event < 5 → x.toStack = .season event first 1 :: r →
      let i := k * 2 ^ 15 + first
      ∃ u, exec (.seasonMapUpdate stack) s = .next u ∧ (u.stack k).toStack = r ∧ u.slots = s.slots ∧
        (∀ a, u.byte a = if unitOf a = regionUnit i ∧ (event = 0 ∨ event = 4 ∨ event = 2 ∧ s.regionSeason i = 2) then 0#8 else s.byte a) ∧
        u.regionSeason i = (match event with
          | 0 => 3
          | 1 => 2
          | 2 => if s.regionSeason i = 0 then 0 else 3
          | _ => s.regionSeason i) ∧
        natBit (u.entry 0x0D i) 4 = (if event = 0 then true else if event = 1 then false else natBit (s.entry 0x0D i) 4) ∧
        natBit (u.entry 0x0D i) 2 = (if event = 2 then true else if event = 3 then false else natBit (s.entry 0x0D i) 2)) ∧
    (∃ u, exec (.capacityRequest stack) s = .next u ∧
      OnlyStack s u k { x with fromStack := x.fromStack ++ [.capRep (x.selfReport k)] }) ∧
    (∀ r, x.fromStack = [] → ∃ u, exec (.capacityReport stack r) s = .next u ∧ u.stack k =
        (if (r.height = 12#8 ∧ r.lgroups = 3#4 ∨ r.height = 16#8 ∧ r.lgroups = 4#4) ∧ r.channels = 32#6 ∧ r.pcs = 2#2 ∧ r.banks = 16#5 ∧
            r.rows = 16384#15 ∧ r.rowBytes = 1024#12 ∧ 128 ≤ r.rate.toNat ∧ r.keys = 1024#12 ∧ r.regions.toNat = 2048 * r.height.toNat
          then { x with report := some r } else { x with out := true }) ∧
      (∀ j, j ≠ k → u.stack j = s.stack j) ∧ u = { s with hbm := u.hbm, mgmt := u.mgmt } ∧
      (let mixed := ∃ i j a b, i < 16 ∧ j < 16 ∧ (u.stack i).accepted = true ∧ (u.stack j).accepted = true ∧
        (u.stack i).report = some a ∧ (u.stack j).report = some b ∧ a.height ≠ b.height
       (mixed ∧ s.mgmt.ready = false → u.mgmt = { s.mgmt with bootFail := true, bootStep := 4 }) ∧
        (¬ mixed ∨ s.mgmt.ready = true → u.mgmt = s.mgmt))) ∧
    (∀ (pc : BitVec 6) (oldest : BitVec 5) (again : BitVec 3),
      let c := (if k % 2 = 0 then 7 else 71) + pc.toNat
      let h := mget [] x.hist pc.toNat
      let sent := fun (c : HistCmd) => (c.op, c.key, c.data)
      natBit x.failedPcs pc.toNat = false → oldest.toNat < h.length → h.length ≤ 32 →
      (∀ c ∈ h, pcOf c.key = pc.toNat ∧ c.key % 64 = 0) → (∀ r ∈ x.queue pc.toNat, r.h.stk = stack ∧ pcOf r.key0 = pc.toNat) →
      ∃ u y, exec (.alert stack pc oldest again) s = .next u ∧ u = { s with hbm := u.hbm, devEvents := u.devEvents } ∧
        (mget 0 s.devEvents (k / 2 * 4096 + c) + 4 < 2 ^ 48 →
          mget 0 u.devEvents (k / 2 * 4096 + c) = mget 0 s.devEvents (k / 2 * 4096 + c) + min 4 (again.toNat + 1)) ∧
        u.stack k = y ∧ (∀ j, j ≠ k → u.stack j = s.stack j) ∧ (mget [] y.hist pc.toNat).map sent = h.map sent ∧
        (again.toNat < 4 → y = { x with hist := y.hist, rows := y.rows, deaf := y.deaf } ∧ natBit y.deaf pc.toNat = false) ∧
        (4 ≤ again.toNat → y.failedPcs = x.failedPcs + 2 ^ pc.toNat ∧ natBit y.deaf pc.toNat = true ∧ y.queue pc.toNat = [])) ∧
    (∀ (chan : BitVec 5) (temp : BitVec 8) (trains : Bool),
      let pcs := [2 * chan.toNat, 2 * chan.toNat + 1]
      (s.wakeWaits k chan.toNat = true → exec (.channelRetrain stack chan temp trains) s = .next s) ∧
      ((∀ t, mfind x.trainTemp chan.toNat = some t → t + 8 ≤ temp.toNat ∨ temp.toNat + 8 ≤ t) → s.wakeWaits k chan.toNat = false →
        (∀ p ∈ pcs, ∀ r ∈ x.queue p, r.h.stk = stack ∧ pcOf r.key0 = p) →
        ∃ u y, exec (.channelRetrain stack chan temp trains) s = .next u ∧ OnlyStack s u k y ∧
          mfind y.trainTemp chan.toNat = some temp.toNat ∧ (∀ p ∈ pcs, y.queue p = if trains then x.queue p else []) ∧
          ∀ p, natBit y.failedPcs p = (natBit x.failedPcs p || (!trains && decide (p = 2 * chan.toNat ∨ p = 2 * chan.toNat + 1))))) ∧
    (∃ u, exec (.flitCrcFail stack) s = .next u ∧ u = { s with devEvents := u.devEvents } ∧
      mget 0 u.devEvents (k / 2 * 4096 + 5) = min (mget 0 s.devEvents (k / 2 * 4096 + 5) + 1) (2 ^ 48 - 1)) ∧
    (∃ u, exec (.integrityTagFailure stack) s = .next u ∧ OnlyStack s u k { x with keys := x.keys + 1, linkUp := true }) ∧
    (∃ u, exec (.stackLinkProtocolError stack) s = .next u ∧ OnlyStack s u k { x with linkUp := true }) ∧
    (∃ u, exec (.stackRingLinkDown stack) s = .next u ∧ OnlyStack s u k { x with eDown := true })) ∧
  ((∀ (s : State) (key : Nat) (found : ScrubFind), s.scrubbed key = true → s.isFresh key = false →
    let n := max (s.upset key) (match found with | .clean => 0 | .correctable => 1 | .uncorrectable => 2)
    let x := s.stack (stackOf key)
    let quiet := isHbm key = true ∧ found ≠ .uncorrectable ∧ Config.undetected s.freeCtr (poisonUnit key) = true
    (s.poisoned key = false → n = 0 → exec (.scrub key found) s = .next s) ∧
    (s.poisoned key = false → n = 1 → isHbm key = true → ∃ u y, exec (.scrub key found) s = .next u ∧
      u = { s with hbm := u.hbm, upsets := u.upsets } ∧ u.upset key = 0 ∧ u.stack (stackOf key) = y ∧ y.corrections = x.corrections + 1 ∧
      (∀ l, mget (0, 0) x.scrubHits (rowNo key) = (2, l) → l ≠ s.dcc.toNat / 2 ^ 45 + 1 → mget 0 x.spareUsed (bankNo key) < 16 →
        (mfind y.rowMap (rowNo key)).isSome = true)) ∧
    (s.poisoned key = false → n = 1 → isHbm key = false → ∃ u, exec (.scrub key found) s = .next u ∧
      u = { s with devEvents := u.devEvents, upsets := u.upsets } ∧ u.upset key = 0 ∧
      mget 0 u.devEvents (tileOfSa key / 48 * 4096 + 3) = min (mget 0 s.devEvents (tileOfSa key / 48 * 4096 + 3) + 1) (2 ^ 48 - 1)) ∧
    (s.poisoned key = false → 2 ≤ n → quiet → ∃ u, exec (.scrub key found) s = .next u ∧ u.slots = s.slots ∧ u.hbm = s.hbm ∧
      (s.upset key ≠ 0 → u.upset key = 0) ∧
      ∀ a, u.byte a = if poisonUnit a = poisonUnit key ∧ isHbm a = true ∧ s.upset key ≠ 0 then (s.codeByte a (s.byte a)).1 else s.byte a) ∧
    (s.poisoned key = true ∨ 2 ≤ n ∧ ¬ quiet → ∃ u, exec (.scrub key found) s = .next u ∧ u.poisoned key = true ∧ SameMemory s u ∧
      u.slots = s.slots ∧ (isHbm key = true → (∃ l, (u.stack (stackOf key)).fromStack = l ++ [.poison (hdrOf 0 key)]) ∧
        (mget 0 x.spareUsed (bankNo key) < 16 → (mfind (u.stack (stackOf key)).rowMap (rowNo key)).isSome = true)))) ∧
  (∀ (s : State) (w : BitVec 16), ∃ u, exec (.powerWindow w) s = .next u ∧ u = { s with mgmt := {
      s.mgmt with
      powerNow := w.toNat
      clock := if s.mgmt.powerLimit < w.toNat then max 8 (s.mgmt.clock - 1)
        else if w.toNat * 100 < s.mgmt.powerLimit * 95 then min 16 (s.mgmt.clock + 1) else s.mgmt.clock } }) ∧
  (∀ (s : State) (die : BitVec 3) (ccw : Bool),
    let d := die.toNat
    let x := s.die d
    (∃ u, exec (.lockstepMismatch die) s = .next u ∧ OnlyDie s u d (if x.pair1 then { x with failed := true } else { x with pair1 := true })) ∧
    (∃ u, exec (.packageRingLinkDown die ccw) s = .next u ∧
      OnlyDie s u d { x with cwDown := x.cwDown || !ccw, ccwDown := x.ccwDown || ccw })) ∧
  (∀ (s : State) (die : BitVec 3) (tile : BitVec 6) (spare : Bool),
    let k := die.toNat * 48 + tile.toNat
    tile.toNat < 48 → (∀ i, i < 8 → (s.slot (k * 8 + i)).job.task = none) →
    (∀ j, j < 48 → (s.tile (die.toNat * 48 + j)).spareUsed ≠ some spare) →
    ∃ u, exec (.spareTileTakeover die tile spare) s = .next u ∧ u.tile k = { s.tile k with spareUsed := some spare } ∧
      (∀ j, j ≠ k → u.tile j = s.tile j) ∧ u = { s with tiles := u.tiles }))

/-- 22 R446, R449, R451, 15 R338, 14 R320: a request slot for another package goes on; one that comes back to its origin waits to leave again, and leaves
with its sequence number; one for which there is no room is sent on for a second pass, and after that back. An admitted write, read or enqueue that is
the next of its stream is performed, and answered with WACK, its data, or OK; a refused one with its fault. Rests on the model's choice or reading:
the order, codes and counts of log 45. -/
def Obligations.InboundRequests : Prop :=
  (∀ (s : State) (i : Instr) (j : BitVec 2) (r : RingSlot), slotOf i = some (j, r) →
    let k := j.toNat
    let x := s.station k
    let sends := fun (q : RingSlot) => ∃ u, exec i s = .next u ∧ OnlyStation s u k { x with sent := x.sent ++ [q] }
    (r.h.ret = true → r.h.srcNode.toNat ≠ s.ownNode → sends r) ∧
    (r.h.ret = true → r.h.srcNode.toNat = s.ownNode → s.tagReset r.h.qtag = false →
      ∃ u, exec i s = .next u ∧ OnlyStation s u k { x with returned := x.returned ++ [r] }) ∧
    (r.h.ret = false → r.h.dstNode.toNat ≠ s.ownNode → sends r) ∧
    (r.h.ret = false → r.h.dstNode.toNat = s.ownNode → x.accepts r.h.tenant.toNat = false →
      sends { r with h := { r.h with pass2 := true, ret := r.h.pass2 } })) ∧
  (∀ (s : State) (i : Instr) (j : BitVec 2) (r : RingSlot) (c : Nat) (t : Nat), slotOf i = some (j, r) → Reaches s j.toNat r →
    (r.op = .write → ∀ f, s.mmuBytes r.h 125 rW = .error f → f.code = c →
      ∃ u, exec i s = .next u ∧ Responds s u j.toNat r.h (.fault c) 0#512 0#2 ∧ u.mem = s.mem ∧ u.slots = s.slots) ∧
    (r.op = .read → ∀ f, s.mmuBytes r.h 126 rR = .error f → f.code = c →
      ∃ u, exec i s = .next u ∧ Responds s u j.toNat r.h (.fault c) 0#512 0#2 ∧ u.mem = s.mem ∧ u.slots = s.slots) ∧
    (r.op = .write → ∀ e bs, s.mmuBytes r.h 125 rW = .ok (e, bs) →
      let ks := bs.map fun b => s.vaKey b.2
      let v := s.touchAllFrom (.die j.toNat) 4096 ks
      ∃ u, exec i s = .next u ∧ Responds s u j.toNat r.h .wack 0#512 0#2 ∧
        WrittenAt (.die j.toNat) v u ks (fun n => BitVec.ofNat 8 (r.data.toNat / 256 ^ (((bs.map Prod.fst).getD n 0) % 64))) ∧
        ∀ b ∈ bs, r.poison.getLsbD (b.1 / 32) = true → v.takes (.die j.toNat) (s.vaKey b.2) = true → u.poisoned (s.vaKey b.2).1 = true) ∧
    (r.op = .read → ∀ e bs, s.mmuBytes r.h 126 rR = .ok (e, bs) →
      let ks := bs.map fun b => s.vaKey b.2
      let v := s.touchAllFrom (.die j.toNat) 4096 ks
      let got := fun (u : State) (b : Nat × Nat) => u.readKeyFrom (.die j.toNat) (s.vaKey b.2).2 (s.vaKey b.2).1
      let w := (v.noteReadsFrom (.die j.toNat) ks).heatAll (bs.map Prod.snd)
      ∃ u d f, exec i s = .next u ∧ Responds s u j.toNat r.h .data d f ∧ SameMemory v u ∧ u.slots = s.slots ∧
        (∀ b ∈ bs, BitVec.ofNat 8 (d.toNat / 256 ^ b.1) = (got w b).1) ∧
        ∀ n, n < 2 → (f.getLsbD n = true ↔ ∃ b ∈ bs, b.1 / 32 = n ∧ (got w b).2 = true)) ∧
    (r.op = .enqr →
      let h := r.handle.toNat
      let rec_ := s.entry 0x16 (queueKey h)
      (∀ f, s.mmuCheck r.h [r.h.offset.toNat] 125 = .error f →
        ∃ u, exec i s = .next u ∧ Responds s u j.toNat r.h (.outcome .denied) 0#512 0#2 ∧ u.mem = s.mem ∧ u.tab = s.tab) ∧
      (s.mmuCheck r.h [r.h.offset.toNat] 125 = .ok t →
        (s.queueStale h = true → ∃ u, exec i s = .next u ∧ Responds s u j.toNat r.h (.outcome .gone) 0#512 0#2 ∧ u.tab = s.tab) ∧
        (s.queueStale h = false → qTenant rec_ ≠ natBits t 123 116 →
          ∃ u, exec i s = .next u ∧ Responds s u j.toNat r.h (.outcome .denied) 0#512 0#2 ∧ u.tab = s.tab) ∧
        (s.queueStale h = false → qTenant rec_ = natBits t 123 116 →
          (qOcc rec_ = qCap rec_ → ∃ u, exec i s = .next u ∧ Responds s u j.toNat r.h (.outcome .full) 0#512 0#2 ∧ u.tab = s.tab) ∧
          (qOcc rec_ < qCap rec_ → ∃ u, exec i s = .next u ∧ Responds s u j.toNat r.h (.outcome .ok) 0#512 0#2 ∧
            qOcc (u.entry 0x16 (queueKey h)) = qOcc rec_ + 1)))))

/-- 22 R447, R450, R451, R452: a response to another package goes on; one to a request of this one frees its reservation, and serves the access that
waits; a returned allowance gives its VF a credit; a gone notice is kept; a drain token is counted at its origin and elsewhere goes on when nothing
sent before it is open; a slot that came back leaves again with its sequence number. 22 R442, R444, R448: a replay or a port's protocol error changes
no slot and no order; a port that fails is recorded, and the spare takes the place of the first one; a rack ring link that fails leaves the other
direction. Rests on the model's choice or reading: what log 45 says of responses, and replay below the model (log 21). -/
def Obligations.InboundResponses : Prop :=
  ((∀ (s : State) (i : Instr) (j : BitVec 2) (r : RingSlot), respOf i = some (j, r) →
    let k := j.toNat
    let x := s.station k
    (r.h.dstNode.toNat ≠ s.ownNode → ∃ u, exec i s = .next u ∧ OnlyStation s u k { x with sent := x.sent ++ [r] }) ∧
    (∀ q, r.h.dstNode.toNat = s.ownNode → x.reqs = [q] → q.id = r.h.reqId.toNat → q.sent = true → q.answered = false →
      answersTo q.slot.op r.op = true → q.live = false → x.tokens = [] →
      ∃ u, exec i s = .next u ∧ OnlyStation s u k { x with reqs := [], reserved := x.reserved - 1 }) ∧
    (∀ q seq d p, r.h.dstNode.toNat = s.ownNode → x.reqs = [q] → q.id = r.h.reqId.toNat → q.sent = true → q.answered = false →
      q.slot.op = .read → r = { op := .data, h := r.h, data := d, poison := p } → q.live = true → q.kind = .load seq → x.tokens = [] →
      let a := fun (b : LoadAcc) => if b.entry.seq = seq then b.answer q none d p else b
      ∃ u, exec i s = .next u ∧ u.station k = { x with reqs := [], reserved := x.reserved - 1 } ∧ u.mem = s.mem ∧
        u.slot q.who = Slot.placeLoads false (s.slot q.who).loads.length { s.slot q.who with loads := (s.slot q.who).loads.map a } ∧
        ∀ n, n ≠ q.who → u.slot n = s.slot n) ∧
    (∀ q c o, r.h.dstNode.toNat = s.ownNode → x.reqs = [q] → q.id = r.h.reqId.toNat → q.sent = true → q.answered = false →
      q.slot.op = .enqr → r.op = .outcome o → q.live = true → q.kind = .enqr c → x.tokens = [] →
      (s.slot q.who).y.csaBase.toNat = q.csa →
      ∃ u, exec i s = .next u ∧ u.station k = { x with reqs := [], reserved := x.reserved - 1 } ∧ u.mem = s.mem ∧
        u.slot q.who = { s.slot q.who with outcomes := (s.slot q.who).outcomes ++ [(c, o)] } ∧
        ∀ n, n ≠ q.who → u.slot n = s.slot n)) ∧
  (∀ (s : State) (j : BitVec 2) (h : SlotHdr),
    let k := j.toNat
    let x := s.station k
    (h.dstNode.toNat ≠ s.ownNode →
      (∃ u, exec (.slotGone j h) s = .next u ∧ OnlyStation s u k { x with sent := x.sent ++ [{ op := .gone, h := h, data := 0#512 }] }) ∧
      ∃ u, exec (.slotAllow j h) s = .next u ∧ OnlyStation s u k { x with sent := x.sent ++ [{ op := .allow, h := h, data := 0#512 }] }) ∧
    (h.dstNode.toNat = s.ownNode → ∃ u, exec (.slotGone j h) s = .next u ∧ ∃ y, OnlyStation s u k y ∧
      (h.srcNode.toNat, h.dvf.toNat, h.dgen.toNat) ∈ y.gone ∧ (x.gone.length ≤ 1024 → y.gone.length ≤ 1024)) ∧
    (∀ vf, h.dstNode.toNat = s.ownNode → x.owed = [(h.reqId.toNat, vf)] → x.reqs = [] →
      ∃ u, exec (.slotAllow j h) s = .next u ∧
        OnlyStation s u k { x with owed := [], credits := mput x.credits vf (mget 8 x.credits vf + 1) }) ∧
    (h.srcNode.toNat = s.ownNode → ∃ u, exec (.slotDrain j h) s = .next u ∧ OnlyStation s u k { x with drains := x.drains + 1 }) ∧
    (h.srcNode.toNat ≠ s.ownNode → x.reqs = [] → x.tokens = [] →
      ∃ u, exec (.slotDrain j h) s = .next u ∧ OnlyStation s u k { x with sent := x.sent ++ [{ op := .drain, h := h, data := 0#512 }] }) ∧
    (∀ r rest, x.returned = r :: rest → ∃ u, exec (.slotReinject j) s = .next u ∧
      OnlyStation s u k { x with returned := rest, sent := x.sent ++ [{ r with h := { r.h with pass2 := false, ret := false } }] }))) ∧
  (∀ (s : State) (j : BitVec 2) (p : BitVec 4) (n : BitVec 16) (ccw : Bool),
    let k := j.toNat
    let x := s.station k
    exec (.slotCrcReplay j p n) s = .next s ∧ exec (.slotProtocolError j p) s = .next s ∧
    (∃ u, exec (.rackRingLinkDown j ccw) s = .next u ∧ OnlyStation s u k { x with cwDown := x.cwDown || !ccw, ccwDown := x.ccwDown || ccw }) ∧
    (p.toNat < 9 → ∃ u y, exec (.zozanPortFailure j p) s = .next u ∧ OnlyStation s u k y ∧
      y = { x with failedPorts := y.failedPorts, spareFor := y.spareFor } ∧
      (∀ b, b < 9 → y.failedPorts.getLsbD b = (x.failedPorts.getLsbD b || decide (b = p.toNat))) ∧
      y.spareFor = (if p.toNat = 8 then none else if x.spareFor = none ∧ x.failedPorts.getLsbD 8 = false then some p else x.spareFor)))

/-- 07 R182: from every state whose memory list is canonical (addresses rising, no listed zero), a step that answers a next state answers one whose memory
list is canonical. -/
def Obligations.StepKeepsMemoryCanonical : Prop :=
  ∀ (s t : State), s.Inv → step s = .next t → t.Inv

/-- 04 R99, R100, R106, 07 R168, R182, R184, 18 R379: what reset leaves: every register at its reset value, fresh memory that reads zero and is canonical,
every granule free, every bank in winter, the cycle counter at 0. Rests on the model's choice or reading: LEVEL 0 before any placement and no poison
at reset (log 4). -/
def Obligations.ResetState : Prop :=
  State.reset.Inv ∧ State.reset.dcc = 0#64 ∧ (∀ k, State.reset.byte k = 0#8 ∧ State.reset.poisoned k = false) ∧
  (∀ n, let x := State.reset.slot n
    (∀ r, x.getS r = 0#64) ∧ (∀ r, x.getP r = decide (r = 0#3)) ∧ (∀ v r, x.getX v r = 0#64) ∧ (∀ r, x.getV r = 0#2048) ∧
    (∀ r, x.getK r = if r = 0#3 then BitVec.allOnes 64 else 0#64) ∧ (∀ r, x.getG r = decide (r = 7#3)) ∧
    (∀ e t, x.tagPending e t = false) ∧ x.y.level = 0#2 ∧ x.y.inTrap = false ∧ x.y.prevLevel = 0#2) ∧
  (∀ e ∈ resetValues, ∃ lvl, sysView State.reset e.1 0#5 = some (lvl, e.2)) ∧
  (∀ t b, (State.reset.tile t).bankFmt b = 0x0008#16 ∧ mget 2#2 (State.reset.tile t).season b = 2#2) ∧
  (∀ t g, (State.reset.tile t).granFree g = true)

/-- 01 R16, R26, 03 R66, R67, R70, R72, R73, R90, 05 R127: a step whose move is the dispatch of a slot, in its turn at its control core, executes the
instruction that the words at its program counter decode to, at the state after what falls due in this cycle and after the fetches; words that decode
to nothing are executed as a reserved encoding and a fetch that faults as that fault; a word that waits is not taken. A step whose move is the issue
of an engine's head executes that entry's instruction (for LD, ST and SY in the slot's turn; where engines are drawn, for the slot that holds the
engine), SY goes on with the entry that it executes, a step whose move is an event executes it, and errors in memory come
as moves; then the cycle counter rises. Out of turn nothing
moves. Which move comes next is the model's choice (log 3). Rests on the model's choice or reading: the words of an instruction fetched one after the
other (log 53), errors (log 62), turns (log 83). -/
def Obligations.StepExecutesDecoded : Prop :=
  ∀ (s : State) (n : Nat) (r : List Move), n < 3072 →
    let u : State := { ({ s with agenda := r } : State).settle with cur := n }
    let pc := u.me.pc
    let core := (List.range 4).map fun j => n / 4 * 4 + j
    let tile := (List.range 8).map fun j => n / 8 * 8 + j
    let word := fun (v : State) (x : Res) => step s = ticked (served u (n % 8 / 4) 2 (taken u v x))
    let fails := fun (v : State) (a : Word) => ∃ t f, v.readVa (.die (n / 384)) (v.issuer n) a.toNat 4 rX = (t, .error f) ∧
      word t (exec (.fetchFault (BitVec.ofNat 16 f.code) a) t)
    let refused := fun (v : State) (a : Word) => ∃ t f, v.readVa (.die (n / 384)) (v.issuer n) a.toNat 4 rX = (t, .error f)
    (s.agenda = .dispatch n :: r → ¬ Turn u (n % 8 / 4) 2 core State.takeWord ∨ u.me.dispatches = false → step s = ticked (.next u)) ∧
    (s.agenda = .dispatch n :: r → u.me.dispatches = true → Turn u (n % 8 / 4) 2 core State.takeWord →
      (refused u pc → fails u pc) ∧
      (∀ w v, Fetches u pc w v →
        (∀ e, wordsOf w = .error e ∨ wordsOf w = .ok 1 ∧ decodeWords w 0#32 0#32 = .error e →
          word v (exec (.reservedEncoding w) v)) ∧
        (∀ i, wordsOf w = .ok 1 → decodeWords w 0#32 0#32 = .ok i → word v (exec i v)) ∧
        (wordsOf w = .ok 2 ∨ wordsOf w = .ok 3 → refused v (pc + 4#64) → fails v (pc + 4#64)) ∧
        ∀ x v', Fetches v (pc + 4#64) x v' →
          (∀ i, wordsOf w = .ok 2 → decodeWords w x 0#32 = .ok i → word v' (exec i v')) ∧
          (wordsOf w = .ok 3 → refused v' (pc + 8#64) → fails v' (pc + 8#64)) ∧
          ∀ y v'' i, wordsOf w = .ok 3 → Fetches v' (pc + 8#64) y v'' → decodeWords w x y = .ok i → word v'' (exec i v''))) ∧
    (∀ en i, s.agenda = .issue n .sy :: r → u.me.e.sy.active = some en → en.cmd = .sy i → u.me.mayIssue .sy = true →
      step s = ticked (exec i { u with phase := .issue en })) ∧
    (∀ en l i, s.agenda = .issue n .sy :: r → u.me.e.sy.active = none → u.me.e.sy.entries = en :: l → en.cmd = .sy i →
      u.me.mayIssue .sy = true → Turn u 4 1 tile (fun v => v.issueFirst .sy) →
      step s = ticked (served u 4 1 (exec i { (u.upMe fun x => x.activate .sy en) with phase := .issue en }))) ∧
    (∀ e en l w i, s.agenda = .issue n e :: r → (u.me.eng e).active = none → (u.me.eng e).entries = en :: l → en.cmd = .eng w →
      u.me.mayIssue e = true → decodeEngine (BitVec.ofNat 3 (classOf e)) w = .ok i →
      (∀ arb, (e = .ld ∧ arb = 2) ∨ (e = .st ∧ arb = 3) → Turn u arb 1 tile (fun v => v.issueFirst e) →
        step s = ticked (served u arb 1 (exec i { u with phase := .issue en }))) ∧
      (e = .vx ∨ e = .mx ∨ e = .cp →
        (e = .mx ∧ (u.tile (n / 8)).stamped = true) ∨
          ((e = .mx → (u.tile (n / 8)).busy = none) ∧ ∃ q, (u.tile (n / 8)).holdOf e = some q ∧ q.slot = n) →
        step s = ticked (exec i { u with phase := .issue en }))) ∧
    (∀ i, s.agenda = .event n i :: r → step s = ticked (exec i u)) ∧
    (∀ unit errors, s.agenda = .upset unit errors :: r →
      let t : State := ({ s with agenda := r } : State).settle
      step s = ticked (.next { t with upsets := mput t.upsets unit errors })) ∧
    (∀ t : State, t.tick.dcc = if t.dcc = BitVec.allOnes 64 then t.dcc else t.dcc + 1#64)

/-- Words written out in the spec decode to the instructions that it gives for them. -/
def Obligations.DecodesSpecWords : Prop :=
  ∀ e ∈ specWords, decodeCode e.1 = .ok e.2

/-- 03 R69 to R73, R76 to R78, R90: decoding drops no bit: what decodes gives a well-formed instruction, whose encoding is the words or the engine word
that were decoded; every other word is refused. -/
def Obligations.EncodeDecode : Prop :=
  (∀ (w x y : W32) (i : Instr), decodeWords w x y = .ok i →
    i.wf = true ∧ ∃ n, wordsOf w = .ok n ∧ encode i = some (.words ([w, x, y].take n))) ∧
  (∀ (c : BitVec 3) (w : BitVec 80) (i : Instr), decodeEngine c w = .ok i → i.wf = true ∧ encode i = some (.engine c w))

/-- Decoding what the encoder writes for a well-formed instruction gives the instruction back. -/
def Obligations.DecodeEncode : Prop :=
  ∀ (i : Instr) (c : Code), i.wf = true → encode i = some c → decodeCode c = .ok i
end

