-- ==== Sys2Proof/Laws/State.lean ====
section
/-! SUPPORT. The small laws of the state: the sparse map, and one lemma per field for each named update of the state and of a
slot. -/
namespace Sys2Proof.Machine

/-! ### The sparse map -/

@[simp] theorem mget_nil {α : Type} (d : α) (i : Nat) : mget d [] i = d := rfl
@[simp] theorem mfind_nil {α : Type} (i : Nat) : mfind ([] : SMap α) i = none := rfl

/-- A key that was written reads as written. -/
@[simp] theorem mget_mput_same {α : Type} (d : α) (m : SMap α) (i : Nat) (x : α) : mget d (mput m i x) i = x := by
  induction m with
  | nil => simp [mput, mget]
  | cons e r ih =>
    obtain ⟨k, v⟩ := e
    simp only [mput]
    split
    · simp [mget]
    · split
      · simp [mget]
      · rename_i h; simp [mget, h, ih]

/-- Any other key reads as before. -/
theorem mget_mput_ne {α : Type} (d : α) (m : SMap α) {i j : Nat} (x : α) (h : j ≠ i) : mget d (mput m i x) j = mget d m j := by
  induction m with
  | nil => simp [mput, mget, h]
  | cons e r ih =>
    obtain ⟨k, v⟩ := e
    simp only [mput]
    split
    · simp [mget, h]
    · split
      · rename_i hk; subst hk; simp [mget, h]
      · simp [mget, ih]

theorem mget_mput {α : Type} (d : α) (m : SMap α) (i j : Nat) (x : α) :
    mget d (mput m i x) j = if j = i then x else mget d m j := by
  split
  · next h => subst h; simp
  · next h => exact mget_mput_ne d m x h

@[simp] theorem mfind_mput_same {α : Type} (m : SMap α) (i : Nat) (x : α) : mfind (mput m i x) i = some x := by
  induction m with
  | nil => simp [mput, mfind]
  | cons e r ih =>
    obtain ⟨k, v⟩ := e
    simp only [mput]
    split
    · simp [mfind]
    · split
      · simp [mfind]
      · rename_i h; simp [mfind, h, ih]

theorem mfind_mput_ne {α : Type} (m : SMap α) {i j : Nat} (x : α) (h : j ≠ i) : mfind (mput m i x) j = mfind m j := by
  induction m with
  | nil => simp [mput, mfind, h]
  | cons e r ih =>
    obtain ⟨k, v⟩ := e
    simp only [mput]
    split
    · simp [mfind, h]
    · split
      · rename_i hk; subst hk; simp [mfind, h]
      · simp [mfind, ih]

/-- Keys above a smaller bound. -/
theorem mabove_mono {α : Type} {b c : Nat} {m : SMap α} (h : mabove c m = true) (hb : b ≤ c) : mabove b m = true := by
  cases m with
  | nil => rfl
  | cons e r =>
    obtain ⟨k, v⟩ := e
    simp only [mabove, Bool.and_eq_true, decide_eq_true_eq] at *
    exact ⟨by omega, h.2⟩

/-- A write keeps every key above a bound that the written key is above. -/
theorem mabove_mput {α : Type} {b i : Nat} {m : SMap α} (x : α) (h : mabove b m = true) (hi : b < i) :
    mabove b (mput m i x) = true := by
  induction m generalizing b with
  | nil => simp [mput, mabove, hi]
  | cons e r ih =>
    obtain ⟨k, v⟩ := e
    simp only [mabove, Bool.and_eq_true, decide_eq_true_eq] at h
    simp only [mput]
    split
    · next hk => simp [mabove, hi, hk, h.2]
    · split
      · next hk => subst hk; simp [mabove, h.1, h.2]
      · next h1 h2 => simp only [mabove, Bool.and_eq_true, decide_eq_true_eq]; exact ⟨h.1, ih h.2 (by omega)⟩

/-- A write keeps the keys rising. -/
theorem mwf_mput {α : Type} {m : SMap α} (i : Nat) (x : α) (h : mwf m = true) : mwf (mput m i x) = true := by
  cases m with
  | nil => rfl
  | cons e r =>
    obtain ⟨k, v⟩ := e
    simp only [mwf] at h
    simp only [mput]
    split
    · next hk => simp [mwf, mabove, hk, h]
    · split
      · next hk => subst hk; simpa [mwf] using h
      · simp only [mwf]; exact mabove_mput x h (by omega)

/-! ### Parts of the package that were written -/

@[simp] theorem State.slot_setSlot (s : State) (n : Nat) (x : Slot) : (s.setSlot n x).slot n = x := mget_mput_same _ _ _ _
theorem State.slot_setSlot_ne (s : State) {n m : Nat} (x : Slot) (h : m ≠ n) : (s.setSlot n x).slot m = s.slot m :=
  mget_mput_ne _ _ _ h
@[simp] theorem State.me_setMe (s : State) (x : Slot) : (s.setMe x).me = x := mget_mput_same _ _ _ _
@[simp] theorem State.me_upMe (s : State) (f : Slot → Slot) : (s.upMe f).me = f s.me := mget_mput_same _ _ _ _
@[simp] theorem State.slot_upMe (s : State) (f : Slot → Slot) : (s.upMe f).slot s.cur = f s.me := mget_mput_same _ _ _ _
theorem State.slot_upMe_ne (s : State) {m : Nat} (f : Slot → Slot) (h : m ≠ s.cur) : (s.upMe f).slot m = s.slot m :=
  mget_mput_ne _ _ _ h
@[simp] theorem State.slot_upSlot (s : State) (n : Nat) (f : Slot → Slot) : (s.upSlot n f).slot n = f (s.slot n) :=
  mget_mput_same _ _ _ _
theorem State.slot_upSlot_ne (s : State) {n m : Nat} (f : Slot → Slot) (h : m ≠ n) : (s.upSlot n f).slot m = s.slot m :=
  mget_mput_ne _ _ _ h
@[simp] theorem State.tile_setTile (s : State) (n : Nat) (x : Tile) : (s.setTile n x).tile n = x := mget_mput_same _ _ _ _
theorem State.tile_setTile_ne (s : State) {n m : Nat} (x : Tile) (h : m ≠ n) : (s.setTile n x).tile m = s.tile m :=
  mget_mput_ne _ _ _ h
@[simp] theorem State.die_setDie (s : State) (n : Nat) (x : Die) : (s.setDie n x).die n = x := mget_mput_same _ _ _ _
@[simp] theorem State.stack_setStack (s : State) (n : Nat) (x : Stack) : (s.setStack n x).stack n = x := mget_mput_same _ _ _ _
@[simp] theorem State.station_setStation (s : State) (n : Nat) (x : Station) : (s.setStation n x).station n = x :=
  mget_mput_same _ _ _ _
@[simp] theorem State.future_setFuture (s : State) (n : Nat) (x : Future) : (s.setFuture n x).future n = x :=
  mget_mput_same _ _ _ _
@[simp] theorem State.team_setTeam (s : State) (n : Nat) (x : Team) : (s.setTeam n x).team n = x := mget_mput_same _ _ _ _
@[simp] theorem State.vf_setVf (s : State) (n : Nat) (x : Vf) : (s.setVf n x).vf n = x := mget_mput_same _ _ _ _
@[simp] theorem State.hostQ_setHostQ (s : State) (n : Nat) (x : HostQ) : (s.setHostQ n x).hostQ n = x := mget_mput_same _ _ _ _
@[simp] theorem State.model_setModel (s : State) (n : Nat) (x : Model) : (s.setModel n x).model n = x := mget_mput_same _ _ _ _
@[simp] theorem State.tabEntry_setTab (s : State) (c i v : Nat) : (s.setTab c i v).tabEntry c i = v := mget_mput_same _ _ _ _
@[simp] theorem State.entry_setEntry (s : State) {c : Nat} (i v : Nat) (h : c ≠ 1) : (s.setEntry c i v).entry c i = v := by
  simp [State.setEntry, State.entry, h]

/-! ### One lemma per field of the state for each update -/

@[simp] theorem State.setSlot_cur (s : State) (n : Nat) (x : Slot) : (s.setSlot n x).cur = s.cur := rfl
@[simp] theorem State.setSlot_phase (s : State) (n : Nat) (x : Slot) : (s.setSlot n x).phase = s.phase := rfl
@[simp] theorem State.setSlot_agenda (s : State) (n : Nat) (x : Slot) : (s.setSlot n x).agenda = s.agenda := rfl
@[simp] theorem State.setSlot_freeCtr (s : State) (n : Nat) (x : Slot) : (s.setSlot n x).freeCtr = s.freeCtr := rfl
@[simp] theorem State.setSlot_dcc (s : State) (n : Nat) (x : Slot) : (s.setSlot n x).dcc = s.dcc := rfl
@[simp] theorem State.setSlot_tiles (s : State) (n : Nat) (x : Slot) : (s.setSlot n x).tiles = s.tiles := rfl
@[simp] theorem State.setSlot_dies (s : State) (n : Nat) (x : Slot) : (s.setSlot n x).dies = s.dies := rfl
@[simp] theorem State.setSlot_hbm (s : State) (n : Nat) (x : Slot) : (s.setSlot n x).hbm = s.hbm := rfl
@[simp] theorem State.setSlot_stations (s : State) (n : Nat) (x : Slot) : (s.setSlot n x).stations = s.stations := rfl
@[simp] theorem State.setSlot_mem (s : State) (n : Nat) (x : Slot) : (s.setSlot n x).mem = s.mem := rfl
@[simp] theorem State.setSlot_used (s : State) (n : Nat) (x : Slot) : (s.setSlot n x).used = s.used := rfl
@[simp] theorem State.setSlot_poison (s : State) (n : Nat) (x : Slot) : (s.setSlot n x).poison = s.poison := rfl
@[simp] theorem State.setSlot_upsets (s : State) (n : Nat) (x : Slot) : (s.setSlot n x).upsets = s.upsets := rfl
@[simp] theorem State.setSlot_sealed (s : State) (n : Nat) (x : Slot) : (s.setSlot n x).sealed = s.sealed := rfl
@[simp] theorem State.setSlot_tab (s : State) (n : Nat) (x : Slot) : (s.setSlot n x).tab = s.tab := rfl
@[simp] theorem State.setSlot_pend (s : State) (n : Nat) (x : Slot) : (s.setSlot n x).pend = s.pend := rfl
@[simp] theorem State.setSlot_caches (s : State) (n : Nat) (x : Slot) : (s.setSlot n x).caches = s.caches := rfl
@[simp] theorem State.setSlot_pkgRing (s : State) (n : Nat) (x : Slot) : (s.setSlot n x).pkgRing = s.pkgRing := rfl
@[simp] theorem State.setSlot_regionUse (s : State) (n : Nat) (x : Slot) : (s.setSlot n x).regionUse = s.regionUse := rfl
@[simp] theorem State.setSlot_counters (s : State) (n : Nat) (x : Slot) : (s.setSlot n x).counters = s.counters := rfl
@[simp] theorem State.setSlot_ctrIssuer (s : State) (n : Nat) (x : Slot) : (s.setSlot n x).ctrIssuer = s.ctrIssuer := rfl
@[simp] theorem State.setSlot_ctxEvents (s : State) (n : Nat) (x : Slot) : (s.setSlot n x).ctxEvents = s.ctxEvents := rfl
@[simp] theorem State.setSlot_devEvents (s : State) (n : Nat) (x : Slot) : (s.setSlot n x).devEvents = s.devEvents := rfl
@[simp] theorem State.setSlot_futures (s : State) (n : Nat) (x : Slot) : (s.setSlot n x).futures = s.futures := rfl
@[simp] theorem State.setSlot_taskQ (s : State) (n : Nat) (x : Slot) : (s.setSlot n x).taskQ = s.taskQ := rfl
@[simp] theorem State.setSlot_tasks (s : State) (n : Nat) (x : Slot) : (s.setSlot n x).tasks = s.tasks := rfl
@[simp] theorem State.setSlot_teams (s : State) (n : Nat) (x : Slot) : (s.setSlot n x).teams = s.teams := rfl
@[simp] theorem State.setSlot_csa (s : State) (n : Nat) (x : Slot) : (s.setSlot n x).csa = s.csa := rfl
@[simp] theorem State.setSlot_launches (s : State) (n : Nat) (x : Slot) : (s.setSlot n x).launches = s.launches := rfl
@[simp] theorem State.setSlot_qdata (s : State) (n : Nat) (x : Slot) : (s.setSlot n x).qdata = s.qdata := rfl
@[simp] theorem State.setSlot_qActors (s : State) (n : Nat) (x : Slot) : (s.setSlot n x).qActors = s.qActors := rfl
@[simp] theorem State.setSlot_qSwaps (s : State) (n : Nat) (x : Slot) : (s.setSlot n x).qSwaps = s.qSwaps := rfl
@[simp] theorem State.setSlot_pieces (s : State) (n : Nat) (x : Slot) : (s.setSlot n x).pieces = s.pieces := rfl
@[simp] theorem State.setSlot_partials (s : State) (n : Nat) (x : Slot) : (s.setSlot n x).partials = s.partials := rfl
@[simp] theorem State.setSlot_sums (s : State) (n : Nat) (x : Slot) : (s.setSlot n x).sums = s.sums := rfl
@[simp] theorem State.setSlot_portA (s : State) (n : Nat) (x : Slot) : (s.setSlot n x).portA = s.portA := rfl
@[simp] theorem State.setSlot_portB (s : State) (n : Nat) (x : Slot) : (s.setSlot n x).portB = s.portB := rfl
@[simp] theorem State.setSlot_tieLoser (s : State) (n : Nat) (x : Slot) : (s.setSlot n x).tieLoser = s.tieLoser := rfl
@[simp] theorem State.setSlot_sems (s : State) (n : Nat) (x : Slot) : (s.setSlot n x).sems = s.sems := rfl
@[simp] theorem State.setSlot_vfs (s : State) (n : Nat) (x : Slot) : (s.setSlot n x).vfs = s.vfs := rfl
@[simp] theorem State.setSlot_hq (s : State) (n : Nat) (x : Slot) : (s.setSlot n x).hq = s.hq := rfl
@[simp] theorem State.setSlot_models (s : State) (n : Nat) (x : Slot) : (s.setSlot n x).models = s.models := rfl
@[simp] theorem State.setSlot_mgmt (s : State) (n : Nat) (x : Slot) : (s.setSlot n x).mgmt = s.mgmt := rfl
@[simp] theorem State.setSlot_answers (s : State) (n : Nat) (x : Slot) : (s.setSlot n x).answers = s.answers := rfl
@[simp] theorem State.setSlot_irqs (s : State) (n : Nat) (x : Slot) : (s.setSlot n x).irqs = s.irqs := rfl
@[simp] theorem State.setMe_cur (s : State) (x : Slot) : (s.setMe x).cur = s.cur := rfl
@[simp] theorem State.setMe_phase (s : State) (x : Slot) : (s.setMe x).phase = s.phase := rfl
@[simp] theorem State.setMe_agenda (s : State) (x : Slot) : (s.setMe x).agenda = s.agenda := rfl
@[simp] theorem State.setMe_freeCtr (s : State) (x : Slot) : (s.setMe x).freeCtr = s.freeCtr := rfl
@[simp] theorem State.setMe_dcc (s : State) (x : Slot) : (s.setMe x).dcc = s.dcc := rfl
@[simp] theorem State.setMe_tiles (s : State) (x : Slot) : (s.setMe x).tiles = s.tiles := rfl
@[simp] theorem State.setMe_dies (s : State) (x : Slot) : (s.setMe x).dies = s.dies := rfl
@[simp] theorem State.setMe_hbm (s : State) (x : Slot) : (s.setMe x).hbm = s.hbm := rfl
@[simp] theorem State.setMe_stations (s : State) (x : Slot) : (s.setMe x).stations = s.stations := rfl
@[simp] theorem State.setMe_mem (s : State) (x : Slot) : (s.setMe x).mem = s.mem := rfl
@[simp] theorem State.setMe_used (s : State) (x : Slot) : (s.setMe x).used = s.used := rfl
@[simp] theorem State.setMe_poison (s : State) (x : Slot) : (s.setMe x).poison = s.poison := rfl
@[simp] theorem State.setMe_upsets (s : State) (x : Slot) : (s.setMe x).upsets = s.upsets := rfl
@[simp] theorem State.setMe_sealed (s : State) (x : Slot) : (s.setMe x).sealed = s.sealed := rfl
@[simp] theorem State.setMe_tab (s : State) (x : Slot) : (s.setMe x).tab = s.tab := rfl
@[simp] theorem State.setMe_pend (s : State) (x : Slot) : (s.setMe x).pend = s.pend := rfl
@[simp] theorem State.setMe_caches (s : State) (x : Slot) : (s.setMe x).caches = s.caches := rfl
@[simp] theorem State.setMe_pkgRing (s : State) (x : Slot) : (s.setMe x).pkgRing = s.pkgRing := rfl
@[simp] theorem State.setMe_regionUse (s : State) (x : Slot) : (s.setMe x).regionUse = s.regionUse := rfl
@[simp] theorem State.setMe_counters (s : State) (x : Slot) : (s.setMe x).counters = s.counters := rfl
@[simp] theorem State.setMe_ctrIssuer (s : State) (x : Slot) : (s.setMe x).ctrIssuer = s.ctrIssuer := rfl
@[simp] theorem State.setMe_ctxEvents (s : State) (x : Slot) : (s.setMe x).ctxEvents = s.ctxEvents := rfl
@[simp] theorem State.setMe_devEvents (s : State) (x : Slot) : (s.setMe x).devEvents = s.devEvents := rfl
@[simp] theorem State.setMe_futures (s : State) (x : Slot) : (s.setMe x).futures = s.futures := rfl
@[simp] theorem State.setMe_taskQ (s : State) (x : Slot) : (s.setMe x).taskQ = s.taskQ := rfl
@[simp] theorem State.setMe_tasks (s : State) (x : Slot) : (s.setMe x).tasks = s.tasks := rfl
@[simp] theorem State.setMe_teams (s : State) (x : Slot) : (s.setMe x).teams = s.teams := rfl
@[simp] theorem State.setMe_csa (s : State) (x : Slot) : (s.setMe x).csa = s.csa := rfl
@[simp] theorem State.setMe_launches (s : State) (x : Slot) : (s.setMe x).launches = s.launches := rfl
@[simp] theorem State.setMe_qdata (s : State) (x : Slot) : (s.setMe x).qdata = s.qdata := rfl
@[simp] theorem State.setMe_qActors (s : State) (x : Slot) : (s.setMe x).qActors = s.qActors := rfl
@[simp] theorem State.setMe_qSwaps (s : State) (x : Slot) : (s.setMe x).qSwaps = s.qSwaps := rfl
@[simp] theorem State.setMe_pieces (s : State) (x : Slot) : (s.setMe x).pieces = s.pieces := rfl
@[simp] theorem State.setMe_partials (s : State) (x : Slot) : (s.setMe x).partials = s.partials := rfl
@[simp] theorem State.setMe_sums (s : State) (x : Slot) : (s.setMe x).sums = s.sums := rfl
@[simp] theorem State.setMe_portA (s : State) (x : Slot) : (s.setMe x).portA = s.portA := rfl
@[simp] theorem State.setMe_portB (s : State) (x : Slot) : (s.setMe x).portB = s.portB := rfl
@[simp] theorem State.setMe_tieLoser (s : State) (x : Slot) : (s.setMe x).tieLoser = s.tieLoser := rfl
@[simp] theorem State.setMe_sems (s : State) (x : Slot) : (s.setMe x).sems = s.sems := rfl
@[simp] theorem State.setMe_vfs (s : State) (x : Slot) : (s.setMe x).vfs = s.vfs := rfl
@[simp] theorem State.setMe_hq (s : State) (x : Slot) : (s.setMe x).hq = s.hq := rfl
@[simp] theorem State.setMe_models (s : State) (x : Slot) : (s.setMe x).models = s.models := rfl
@[simp] theorem State.setMe_mgmt (s : State) (x : Slot) : (s.setMe x).mgmt = s.mgmt := rfl
@[simp] theorem State.setMe_answers (s : State) (x : Slot) : (s.setMe x).answers = s.answers := rfl
@[simp] theorem State.setMe_irqs (s : State) (x : Slot) : (s.setMe x).irqs = s.irqs := rfl
@[simp] theorem State.upMe_cur (s : State) (f : Slot → Slot) : (s.upMe f).cur = s.cur := rfl
@[simp] theorem State.upMe_phase (s : State) (f : Slot → Slot) : (s.upMe f).phase = s.phase := rfl
@[simp] theorem State.upMe_agenda (s : State) (f : Slot → Slot) : (s.upMe f).agenda = s.agenda := rfl
@[simp] theorem State.upMe_freeCtr (s : State) (f : Slot → Slot) : (s.upMe f).freeCtr = s.freeCtr := rfl
@[simp] theorem State.upMe_dcc (s : State) (f : Slot → Slot) : (s.upMe f).dcc = s.dcc := rfl
@[simp] theorem State.upMe_tiles (s : State) (f : Slot → Slot) : (s.upMe f).tiles = s.tiles := rfl
@[simp] theorem State.upMe_dies (s : State) (f : Slot → Slot) : (s.upMe f).dies = s.dies := rfl
@[simp] theorem State.upMe_hbm (s : State) (f : Slot → Slot) : (s.upMe f).hbm = s.hbm := rfl
@[simp] theorem State.upMe_stations (s : State) (f : Slot → Slot) : (s.upMe f).stations = s.stations := rfl
@[simp] theorem State.upMe_mem (s : State) (f : Slot → Slot) : (s.upMe f).mem = s.mem := rfl
@[simp] theorem State.upMe_used (s : State) (f : Slot → Slot) : (s.upMe f).used = s.used := rfl
@[simp] theorem State.upMe_poison (s : State) (f : Slot → Slot) : (s.upMe f).poison = s.poison := rfl
@[simp] theorem State.upMe_upsets (s : State) (f : Slot → Slot) : (s.upMe f).upsets = s.upsets := rfl
@[simp] theorem State.upMe_sealed (s : State) (f : Slot → Slot) : (s.upMe f).sealed = s.sealed := rfl
@[simp] theorem State.upMe_tab (s : State) (f : Slot → Slot) : (s.upMe f).tab = s.tab := rfl
@[simp] theorem State.upMe_pend (s : State) (f : Slot → Slot) : (s.upMe f).pend = s.pend := rfl
@[simp] theorem State.upMe_caches (s : State) (f : Slot → Slot) : (s.upMe f).caches = s.caches := rfl
@[simp] theorem State.upMe_pkgRing (s : State) (f : Slot → Slot) : (s.upMe f).pkgRing = s.pkgRing := rfl
@[simp] theorem State.upMe_regionUse (s : State) (f : Slot → Slot) : (s.upMe f).regionUse = s.regionUse := rfl
@[simp] theorem State.upMe_counters (s : State) (f : Slot → Slot) : (s.upMe f).counters = s.counters := rfl
@[simp] theorem State.upMe_ctrIssuer (s : State) (f : Slot → Slot) : (s.upMe f).ctrIssuer = s.ctrIssuer := rfl
@[simp] theorem State.upMe_ctxEvents (s : State) (f : Slot → Slot) : (s.upMe f).ctxEvents = s.ctxEvents := rfl
@[simp] theorem State.upMe_devEvents (s : State) (f : Slot → Slot) : (s.upMe f).devEvents = s.devEvents := rfl
@[simp] theorem State.upMe_futures (s : State) (f : Slot → Slot) : (s.upMe f).futures = s.futures := rfl
@[simp] theorem State.upMe_taskQ (s : State) (f : Slot → Slot) : (s.upMe f).taskQ = s.taskQ := rfl
@[simp] theorem State.upMe_tasks (s : State) (f : Slot → Slot) : (s.upMe f).tasks = s.tasks := rfl
@[simp] theorem State.upMe_teams (s : State) (f : Slot → Slot) : (s.upMe f).teams = s.teams := rfl
@[simp] theorem State.upMe_csa (s : State) (f : Slot → Slot) : (s.upMe f).csa = s.csa := rfl
@[simp] theorem State.upMe_launches (s : State) (f : Slot → Slot) : (s.upMe f).launches = s.launches := rfl
@[simp] theorem State.upMe_qdata (s : State) (f : Slot → Slot) : (s.upMe f).qdata = s.qdata := rfl
@[simp] theorem State.upMe_qActors (s : State) (f : Slot → Slot) : (s.upMe f).qActors = s.qActors := rfl
@[simp] theorem State.upMe_qSwaps (s : State) (f : Slot → Slot) : (s.upMe f).qSwaps = s.qSwaps := rfl
@[simp] theorem State.upMe_pieces (s : State) (f : Slot → Slot) : (s.upMe f).pieces = s.pieces := rfl
@[simp] theorem State.upMe_partials (s : State) (f : Slot → Slot) : (s.upMe f).partials = s.partials := rfl
@[simp] theorem State.upMe_sums (s : State) (f : Slot → Slot) : (s.upMe f).sums = s.sums := rfl
@[simp] theorem State.upMe_portA (s : State) (f : Slot → Slot) : (s.upMe f).portA = s.portA := rfl
@[simp] theorem State.upMe_portB (s : State) (f : Slot → Slot) : (s.upMe f).portB = s.portB := rfl
@[simp] theorem State.upMe_tieLoser (s : State) (f : Slot → Slot) : (s.upMe f).tieLoser = s.tieLoser := rfl
@[simp] theorem State.upMe_sems (s : State) (f : Slot → Slot) : (s.upMe f).sems = s.sems := rfl
@[simp] theorem State.upMe_vfs (s : State) (f : Slot → Slot) : (s.upMe f).vfs = s.vfs := rfl
@[simp] theorem State.upMe_hq (s : State) (f : Slot → Slot) : (s.upMe f).hq = s.hq := rfl
@[simp] theorem State.upMe_models (s : State) (f : Slot → Slot) : (s.upMe f).models = s.models := rfl
@[simp] theorem State.upMe_mgmt (s : State) (f : Slot → Slot) : (s.upMe f).mgmt = s.mgmt := rfl
@[simp] theorem State.upMe_answers (s : State) (f : Slot → Slot) : (s.upMe f).answers = s.answers := rfl
@[simp] theorem State.upMe_irqs (s : State) (f : Slot → Slot) : (s.upMe f).irqs = s.irqs := rfl
@[simp] theorem State.upSlot_cur (s : State) (n : Nat) (f : Slot → Slot) : (s.upSlot n f).cur = s.cur := rfl
@[simp] theorem State.upSlot_phase (s : State) (n : Nat) (f : Slot → Slot) : (s.upSlot n f).phase = s.phase := rfl
@[simp] theorem State.upSlot_agenda (s : State) (n : Nat) (f : Slot → Slot) : (s.upSlot n f).agenda = s.agenda := rfl
@[simp] theorem State.upSlot_freeCtr (s : State) (n : Nat) (f : Slot → Slot) : (s.upSlot n f).freeCtr = s.freeCtr := rfl
@[simp] theorem State.upSlot_dcc (s : State) (n : Nat) (f : Slot → Slot) : (s.upSlot n f).dcc = s.dcc := rfl
@[simp] theorem State.upSlot_tiles (s : State) (n : Nat) (f : Slot → Slot) : (s.upSlot n f).tiles = s.tiles := rfl
@[simp] theorem State.upSlot_dies (s : State) (n : Nat) (f : Slot → Slot) : (s.upSlot n f).dies = s.dies := rfl
@[simp] theorem State.upSlot_hbm (s : State) (n : Nat) (f : Slot → Slot) : (s.upSlot n f).hbm = s.hbm := rfl
@[simp] theorem State.upSlot_stations (s : State) (n : Nat) (f : Slot → Slot) : (s.upSlot n f).stations = s.stations := rfl
@[simp] theorem State.upSlot_mem (s : State) (n : Nat) (f : Slot → Slot) : (s.upSlot n f).mem = s.mem := rfl
@[simp] theorem State.upSlot_used (s : State) (n : Nat) (f : Slot → Slot) : (s.upSlot n f).used = s.used := rfl
@[simp] theorem State.upSlot_poison (s : State) (n : Nat) (f : Slot → Slot) : (s.upSlot n f).poison = s.poison := rfl
@[simp] theorem State.upSlot_upsets (s : State) (n : Nat) (f : Slot → Slot) : (s.upSlot n f).upsets = s.upsets := rfl
@[simp] theorem State.upSlot_sealed (s : State) (n : Nat) (f : Slot → Slot) : (s.upSlot n f).sealed = s.sealed := rfl
@[simp] theorem State.upSlot_tab (s : State) (n : Nat) (f : Slot → Slot) : (s.upSlot n f).tab = s.tab := rfl
@[simp] theorem State.upSlot_pend (s : State) (n : Nat) (f : Slot → Slot) : (s.upSlot n f).pend = s.pend := rfl
@[simp] theorem State.upSlot_caches (s : State) (n : Nat) (f : Slot → Slot) : (s.upSlot n f).caches = s.caches := rfl
@[simp] theorem State.upSlot_pkgRing (s : State) (n : Nat) (f : Slot → Slot) : (s.upSlot n f).pkgRing = s.pkgRing := rfl
@[simp] theorem State.upSlot_regionUse (s : State) (n : Nat) (f : Slot → Slot) : (s.upSlot n f).regionUse = s.regionUse := rfl
@[simp] theorem State.upSlot_counters (s : State) (n : Nat) (f : Slot → Slot) : (s.upSlot n f).counters = s.counters := rfl
@[simp] theorem State.upSlot_ctrIssuer (s : State) (n : Nat) (f : Slot → Slot) : (s.upSlot n f).ctrIssuer = s.ctrIssuer := rfl
@[simp] theorem State.upSlot_ctxEvents (s : State) (n : Nat) (f : Slot → Slot) : (s.upSlot n f).ctxEvents = s.ctxEvents := rfl
@[simp] theorem State.upSlot_devEvents (s : State) (n : Nat) (f : Slot → Slot) : (s.upSlot n f).devEvents = s.devEvents := rfl
@[simp] theorem State.upSlot_futures (s : State) (n : Nat) (f : Slot → Slot) : (s.upSlot n f).futures = s.futures := rfl
@[simp] theorem State.upSlot_taskQ (s : State) (n : Nat) (f : Slot → Slot) : (s.upSlot n f).taskQ = s.taskQ := rfl
@[simp] theorem State.upSlot_tasks (s : State) (n : Nat) (f : Slot → Slot) : (s.upSlot n f).tasks = s.tasks := rfl
@[simp] theorem State.upSlot_teams (s : State) (n : Nat) (f : Slot → Slot) : (s.upSlot n f).teams = s.teams := rfl
@[simp] theorem State.upSlot_csa (s : State) (n : Nat) (f : Slot → Slot) : (s.upSlot n f).csa = s.csa := rfl
@[simp] theorem State.upSlot_launches (s : State) (n : Nat) (f : Slot → Slot) : (s.upSlot n f).launches = s.launches := rfl
@[simp] theorem State.upSlot_qdata (s : State) (n : Nat) (f : Slot → Slot) : (s.upSlot n f).qdata = s.qdata := rfl
@[simp] theorem State.upSlot_qActors (s : State) (n : Nat) (f : Slot → Slot) : (s.upSlot n f).qActors = s.qActors := rfl
@[simp] theorem State.upSlot_qSwaps (s : State) (n : Nat) (f : Slot → Slot) : (s.upSlot n f).qSwaps = s.qSwaps := rfl
@[simp] theorem State.upSlot_pieces (s : State) (n : Nat) (f : Slot → Slot) : (s.upSlot n f).pieces = s.pieces := rfl
@[simp] theorem State.upSlot_partials (s : State) (n : Nat) (f : Slot → Slot) : (s.upSlot n f).partials = s.partials := rfl
@[simp] theorem State.upSlot_sums (s : State) (n : Nat) (f : Slot → Slot) : (s.upSlot n f).sums = s.sums := rfl
@[simp] theorem State.upSlot_portA (s : State) (n : Nat) (f : Slot → Slot) : (s.upSlot n f).portA = s.portA := rfl
@[simp] theorem State.upSlot_portB (s : State) (n : Nat) (f : Slot → Slot) : (s.upSlot n f).portB = s.portB := rfl
@[simp] theorem State.upSlot_tieLoser (s : State) (n : Nat) (f : Slot → Slot) : (s.upSlot n f).tieLoser = s.tieLoser := rfl
@[simp] theorem State.upSlot_sems (s : State) (n : Nat) (f : Slot → Slot) : (s.upSlot n f).sems = s.sems := rfl
@[simp] theorem State.upSlot_vfs (s : State) (n : Nat) (f : Slot → Slot) : (s.upSlot n f).vfs = s.vfs := rfl
@[simp] theorem State.upSlot_hq (s : State) (n : Nat) (f : Slot → Slot) : (s.upSlot n f).hq = s.hq := rfl
@[simp] theorem State.upSlot_models (s : State) (n : Nat) (f : Slot → Slot) : (s.upSlot n f).models = s.models := rfl
@[simp] theorem State.upSlot_mgmt (s : State) (n : Nat) (f : Slot → Slot) : (s.upSlot n f).mgmt = s.mgmt := rfl
@[simp] theorem State.upSlot_answers (s : State) (n : Nat) (f : Slot → Slot) : (s.upSlot n f).answers = s.answers := rfl
@[simp] theorem State.upSlot_irqs (s : State) (n : Nat) (f : Slot → Slot) : (s.upSlot n f).irqs = s.irqs := rfl
@[simp] theorem State.setTile_cur (s : State) (n : Nat) (x : Tile) : (s.setTile n x).cur = s.cur := rfl
@[simp] theorem State.setTile_phase (s : State) (n : Nat) (x : Tile) : (s.setTile n x).phase = s.phase := rfl
@[simp] theorem State.setTile_agenda (s : State) (n : Nat) (x : Tile) : (s.setTile n x).agenda = s.agenda := rfl
@[simp] theorem State.setTile_freeCtr (s : State) (n : Nat) (x : Tile) : (s.setTile n x).freeCtr = s.freeCtr := rfl
@[simp] theorem State.setTile_dcc (s : State) (n : Nat) (x : Tile) : (s.setTile n x).dcc = s.dcc := rfl
@[simp] theorem State.setTile_slots (s : State) (n : Nat) (x : Tile) : (s.setTile n x).slots = s.slots := rfl
@[simp] theorem State.setTile_dies (s : State) (n : Nat) (x : Tile) : (s.setTile n x).dies = s.dies := rfl
@[simp] theorem State.setTile_hbm (s : State) (n : Nat) (x : Tile) : (s.setTile n x).hbm = s.hbm := rfl
@[simp] theorem State.setTile_stations (s : State) (n : Nat) (x : Tile) : (s.setTile n x).stations = s.stations := rfl
@[simp] theorem State.setTile_mem (s : State) (n : Nat) (x : Tile) : (s.setTile n x).mem = s.mem := rfl
@[simp] theorem State.setTile_used (s : State) (n : Nat) (x : Tile) : (s.setTile n x).used = s.used := rfl
@[simp] theorem State.setTile_poison (s : State) (n : Nat) (x : Tile) : (s.setTile n x).poison = s.poison := rfl
@[simp] theorem State.setTile_upsets (s : State) (n : Nat) (x : Tile) : (s.setTile n x).upsets = s.upsets := rfl
@[simp] theorem State.setTile_sealed (s : State) (n : Nat) (x : Tile) : (s.setTile n x).sealed = s.sealed := rfl
@[simp] theorem State.setTile_tab (s : State) (n : Nat) (x : Tile) : (s.setTile n x).tab = s.tab := rfl
@[simp] theorem State.setTile_pend (s : State) (n : Nat) (x : Tile) : (s.setTile n x).pend = s.pend := rfl
@[simp] theorem State.setTile_caches (s : State) (n : Nat) (x : Tile) : (s.setTile n x).caches = s.caches := rfl
@[simp] theorem State.setTile_pkgRing (s : State) (n : Nat) (x : Tile) : (s.setTile n x).pkgRing = s.pkgRing := rfl
@[simp] theorem State.setTile_regionUse (s : State) (n : Nat) (x : Tile) : (s.setTile n x).regionUse = s.regionUse := rfl
@[simp] theorem State.setTile_counters (s : State) (n : Nat) (x : Tile) : (s.setTile n x).counters = s.counters := rfl
@[simp] theorem State.setTile_ctrIssuer (s : State) (n : Nat) (x : Tile) : (s.setTile n x).ctrIssuer = s.ctrIssuer := rfl
@[simp] theorem State.setTile_ctxEvents (s : State) (n : Nat) (x : Tile) : (s.setTile n x).ctxEvents = s.ctxEvents := rfl
@[simp] theorem State.setTile_devEvents (s : State) (n : Nat) (x : Tile) : (s.setTile n x).devEvents = s.devEvents := rfl
@[simp] theorem State.setTile_futures (s : State) (n : Nat) (x : Tile) : (s.setTile n x).futures = s.futures := rfl
@[simp] theorem State.setTile_taskQ (s : State) (n : Nat) (x : Tile) : (s.setTile n x).taskQ = s.taskQ := rfl
@[simp] theorem State.setTile_tasks (s : State) (n : Nat) (x : Tile) : (s.setTile n x).tasks = s.tasks := rfl
@[simp] theorem State.setTile_teams (s : State) (n : Nat) (x : Tile) : (s.setTile n x).teams = s.teams := rfl
@[simp] theorem State.setTile_csa (s : State) (n : Nat) (x : Tile) : (s.setTile n x).csa = s.csa := rfl
@[simp] theorem State.setTile_launches (s : State) (n : Nat) (x : Tile) : (s.setTile n x).launches = s.launches := rfl
@[simp] theorem State.setTile_qdata (s : State) (n : Nat) (x : Tile) : (s.setTile n x).qdata = s.qdata := rfl
@[simp] theorem State.setTile_qActors (s : State) (n : Nat) (x : Tile) : (s.setTile n x).qActors = s.qActors := rfl
@[simp] theorem State.setTile_qSwaps (s : State) (n : Nat) (x : Tile) : (s.setTile n x).qSwaps = s.qSwaps := rfl
@[simp] theorem State.setTile_pieces (s : State) (n : Nat) (x : Tile) : (s.setTile n x).pieces = s.pieces := rfl
@[simp] theorem State.setTile_partials (s : State) (n : Nat) (x : Tile) : (s.setTile n x).partials = s.partials := rfl
@[simp] theorem State.setTile_sums (s : State) (n : Nat) (x : Tile) : (s.setTile n x).sums = s.sums := rfl
@[simp] theorem State.setTile_portA (s : State) (n : Nat) (x : Tile) : (s.setTile n x).portA = s.portA := rfl
@[simp] theorem State.setTile_portB (s : State) (n : Nat) (x : Tile) : (s.setTile n x).portB = s.portB := rfl
@[simp] theorem State.setTile_tieLoser (s : State) (n : Nat) (x : Tile) : (s.setTile n x).tieLoser = s.tieLoser := rfl
@[simp] theorem State.setTile_sems (s : State) (n : Nat) (x : Tile) : (s.setTile n x).sems = s.sems := rfl
@[simp] theorem State.setTile_vfs (s : State) (n : Nat) (x : Tile) : (s.setTile n x).vfs = s.vfs := rfl
@[simp] theorem State.setTile_hq (s : State) (n : Nat) (x : Tile) : (s.setTile n x).hq = s.hq := rfl
@[simp] theorem State.setTile_models (s : State) (n : Nat) (x : Tile) : (s.setTile n x).models = s.models := rfl
@[simp] theorem State.setTile_mgmt (s : State) (n : Nat) (x : Tile) : (s.setTile n x).mgmt = s.mgmt := rfl
@[simp] theorem State.setTile_answers (s : State) (n : Nat) (x : Tile) : (s.setTile n x).answers = s.answers := rfl
@[simp] theorem State.setTile_irqs (s : State) (n : Nat) (x : Tile) : (s.setTile n x).irqs = s.irqs := rfl
@[simp] theorem State.setDie_cur (s : State) (n : Nat) (x : Die) : (s.setDie n x).cur = s.cur := rfl
@[simp] theorem State.setDie_phase (s : State) (n : Nat) (x : Die) : (s.setDie n x).phase = s.phase := rfl
@[simp] theorem State.setDie_agenda (s : State) (n : Nat) (x : Die) : (s.setDie n x).agenda = s.agenda := rfl
@[simp] theorem State.setDie_freeCtr (s : State) (n : Nat) (x : Die) : (s.setDie n x).freeCtr = s.freeCtr := rfl
@[simp] theorem State.setDie_dcc (s : State) (n : Nat) (x : Die) : (s.setDie n x).dcc = s.dcc := rfl
@[simp] theorem State.setDie_slots (s : State) (n : Nat) (x : Die) : (s.setDie n x).slots = s.slots := rfl
@[simp] theorem State.setDie_tiles (s : State) (n : Nat) (x : Die) : (s.setDie n x).tiles = s.tiles := rfl
@[simp] theorem State.setDie_hbm (s : State) (n : Nat) (x : Die) : (s.setDie n x).hbm = s.hbm := rfl
@[simp] theorem State.setDie_stations (s : State) (n : Nat) (x : Die) : (s.setDie n x).stations = s.stations := rfl
@[simp] theorem State.setDie_mem (s : State) (n : Nat) (x : Die) : (s.setDie n x).mem = s.mem := rfl
@[simp] theorem State.setDie_used (s : State) (n : Nat) (x : Die) : (s.setDie n x).used = s.used := rfl
@[simp] theorem State.setDie_poison (s : State) (n : Nat) (x : Die) : (s.setDie n x).poison = s.poison := rfl
@[simp] theorem State.setDie_upsets (s : State) (n : Nat) (x : Die) : (s.setDie n x).upsets = s.upsets := rfl
@[simp] theorem State.setDie_sealed (s : State) (n : Nat) (x : Die) : (s.setDie n x).sealed = s.sealed := rfl
@[simp] theorem State.setDie_tab (s : State) (n : Nat) (x : Die) : (s.setDie n x).tab = s.tab := rfl
@[simp] theorem State.setDie_pend (s : State) (n : Nat) (x : Die) : (s.setDie n x).pend = s.pend := rfl
@[simp] theorem State.setDie_caches (s : State) (n : Nat) (x : Die) : (s.setDie n x).caches = s.caches := rfl
@[simp] theorem State.setDie_pkgRing (s : State) (n : Nat) (x : Die) : (s.setDie n x).pkgRing = s.pkgRing := rfl
@[simp] theorem State.setDie_regionUse (s : State) (n : Nat) (x : Die) : (s.setDie n x).regionUse = s.regionUse := rfl
@[simp] theorem State.setDie_counters (s : State) (n : Nat) (x : Die) : (s.setDie n x).counters = s.counters := rfl
@[simp] theorem State.setDie_ctrIssuer (s : State) (n : Nat) (x : Die) : (s.setDie n x).ctrIssuer = s.ctrIssuer := rfl
@[simp] theorem State.setDie_ctxEvents (s : State) (n : Nat) (x : Die) : (s.setDie n x).ctxEvents = s.ctxEvents := rfl
@[simp] theorem State.setDie_devEvents (s : State) (n : Nat) (x : Die) : (s.setDie n x).devEvents = s.devEvents := rfl
@[simp] theorem State.setDie_futures (s : State) (n : Nat) (x : Die) : (s.setDie n x).futures = s.futures := rfl
@[simp] theorem State.setDie_taskQ (s : State) (n : Nat) (x : Die) : (s.setDie n x).taskQ = s.taskQ := rfl
@[simp] theorem State.setDie_tasks (s : State) (n : Nat) (x : Die) : (s.setDie n x).tasks = s.tasks := rfl
@[simp] theorem State.setDie_teams (s : State) (n : Nat) (x : Die) : (s.setDie n x).teams = s.teams := rfl
@[simp] theorem State.setDie_csa (s : State) (n : Nat) (x : Die) : (s.setDie n x).csa = s.csa := rfl
@[simp] theorem State.setDie_launches (s : State) (n : Nat) (x : Die) : (s.setDie n x).launches = s.launches := rfl
@[simp] theorem State.setDie_qdata (s : State) (n : Nat) (x : Die) : (s.setDie n x).qdata = s.qdata := rfl
@[simp] theorem State.setDie_qActors (s : State) (n : Nat) (x : Die) : (s.setDie n x).qActors = s.qActors := rfl
@[simp] theorem State.setDie_qSwaps (s : State) (n : Nat) (x : Die) : (s.setDie n x).qSwaps = s.qSwaps := rfl
@[simp] theorem State.setDie_pieces (s : State) (n : Nat) (x : Die) : (s.setDie n x).pieces = s.pieces := rfl
@[simp] theorem State.setDie_partials (s : State) (n : Nat) (x : Die) : (s.setDie n x).partials = s.partials := rfl
@[simp] theorem State.setDie_sums (s : State) (n : Nat) (x : Die) : (s.setDie n x).sums = s.sums := rfl
@[simp] theorem State.setDie_portA (s : State) (n : Nat) (x : Die) : (s.setDie n x).portA = s.portA := rfl
@[simp] theorem State.setDie_portB (s : State) (n : Nat) (x : Die) : (s.setDie n x).portB = s.portB := rfl
@[simp] theorem State.setDie_tieLoser (s : State) (n : Nat) (x : Die) : (s.setDie n x).tieLoser = s.tieLoser := rfl
@[simp] theorem State.setDie_sems (s : State) (n : Nat) (x : Die) : (s.setDie n x).sems = s.sems := rfl
@[simp] theorem State.setDie_vfs (s : State) (n : Nat) (x : Die) : (s.setDie n x).vfs = s.vfs := rfl
@[simp] theorem State.setDie_hq (s : State) (n : Nat) (x : Die) : (s.setDie n x).hq = s.hq := rfl
@[simp] theorem State.setDie_models (s : State) (n : Nat) (x : Die) : (s.setDie n x).models = s.models := rfl
@[simp] theorem State.setDie_mgmt (s : State) (n : Nat) (x : Die) : (s.setDie n x).mgmt = s.mgmt := rfl
@[simp] theorem State.setDie_answers (s : State) (n : Nat) (x : Die) : (s.setDie n x).answers = s.answers := rfl
@[simp] theorem State.setDie_irqs (s : State) (n : Nat) (x : Die) : (s.setDie n x).irqs = s.irqs := rfl
@[simp] theorem State.setStack_cur (s : State) (n : Nat) (x : Stack) : (s.setStack n x).cur = s.cur := rfl
@[simp] theorem State.setStack_phase (s : State) (n : Nat) (x : Stack) : (s.setStack n x).phase = s.phase := rfl
@[simp] theorem State.setStack_agenda (s : State) (n : Nat) (x : Stack) : (s.setStack n x).agenda = s.agenda := rfl
@[simp] theorem State.setStack_freeCtr (s : State) (n : Nat) (x : Stack) : (s.setStack n x).freeCtr = s.freeCtr := rfl
@[simp] theorem State.setStack_dcc (s : State) (n : Nat) (x : Stack) : (s.setStack n x).dcc = s.dcc := rfl
@[simp] theorem State.setStack_slots (s : State) (n : Nat) (x : Stack) : (s.setStack n x).slots = s.slots := rfl
@[simp] theorem State.setStack_tiles (s : State) (n : Nat) (x : Stack) : (s.setStack n x).tiles = s.tiles := rfl
@[simp] theorem State.setStack_dies (s : State) (n : Nat) (x : Stack) : (s.setStack n x).dies = s.dies := rfl
@[simp] theorem State.setStack_stations (s : State) (n : Nat) (x : Stack) : (s.setStack n x).stations = s.stations := rfl
@[simp] theorem State.setStack_mem (s : State) (n : Nat) (x : Stack) : (s.setStack n x).mem = s.mem := rfl
@[simp] theorem State.setStack_used (s : State) (n : Nat) (x : Stack) : (s.setStack n x).used = s.used := rfl
@[simp] theorem State.setStack_poison (s : State) (n : Nat) (x : Stack) : (s.setStack n x).poison = s.poison := rfl
@[simp] theorem State.setStack_upsets (s : State) (n : Nat) (x : Stack) : (s.setStack n x).upsets = s.upsets := rfl
@[simp] theorem State.setStack_sealed (s : State) (n : Nat) (x : Stack) : (s.setStack n x).sealed = s.sealed := rfl
@[simp] theorem State.setStack_tab (s : State) (n : Nat) (x : Stack) : (s.setStack n x).tab = s.tab := rfl
@[simp] theorem State.setStack_pend (s : State) (n : Nat) (x : Stack) : (s.setStack n x).pend = s.pend := rfl
@[simp] theorem State.setStack_caches (s : State) (n : Nat) (x : Stack) : (s.setStack n x).caches = s.caches := rfl
@[simp] theorem State.setStack_pkgRing (s : State) (n : Nat) (x : Stack) : (s.setStack n x).pkgRing = s.pkgRing := rfl
@[simp] theorem State.setStack_regionUse (s : State) (n : Nat) (x : Stack) : (s.setStack n x).regionUse = s.regionUse := rfl
@[simp] theorem State.setStack_counters (s : State) (n : Nat) (x : Stack) : (s.setStack n x).counters = s.counters := rfl
@[simp] theorem State.setStack_ctrIssuer (s : State) (n : Nat) (x : Stack) : (s.setStack n x).ctrIssuer = s.ctrIssuer := rfl
@[simp] theorem State.setStack_ctxEvents (s : State) (n : Nat) (x : Stack) : (s.setStack n x).ctxEvents = s.ctxEvents := rfl
@[simp] theorem State.setStack_devEvents (s : State) (n : Nat) (x : Stack) : (s.setStack n x).devEvents = s.devEvents := rfl
@[simp] theorem State.setStack_futures (s : State) (n : Nat) (x : Stack) : (s.setStack n x).futures = s.futures := rfl
@[simp] theorem State.setStack_taskQ (s : State) (n : Nat) (x : Stack) : (s.setStack n x).taskQ = s.taskQ := rfl
@[simp] theorem State.setStack_tasks (s : State) (n : Nat) (x : Stack) : (s.setStack n x).tasks = s.tasks := rfl
@[simp] theorem State.setStack_teams (s : State) (n : Nat) (x : Stack) : (s.setStack n x).teams = s.teams := rfl
@[simp] theorem State.setStack_csa (s : State) (n : Nat) (x : Stack) : (s.setStack n x).csa = s.csa := rfl
@[simp] theorem State.setStack_launches (s : State) (n : Nat) (x : Stack) : (s.setStack n x).launches = s.launches := rfl
@[simp] theorem State.setStack_qdata (s : State) (n : Nat) (x : Stack) : (s.setStack n x).qdata = s.qdata := rfl
@[simp] theorem State.setStack_qActors (s : State) (n : Nat) (x : Stack) : (s.setStack n x).qActors = s.qActors := rfl
@[simp] theorem State.setStack_qSwaps (s : State) (n : Nat) (x : Stack) : (s.setStack n x).qSwaps = s.qSwaps := rfl
@[simp] theorem State.setStack_pieces (s : State) (n : Nat) (x : Stack) : (s.setStack n x).pieces = s.pieces := rfl
@[simp] theorem State.setStack_partials (s : State) (n : Nat) (x : Stack) : (s.setStack n x).partials = s.partials := rfl
@[simp] theorem State.setStack_sums (s : State) (n : Nat) (x : Stack) : (s.setStack n x).sums = s.sums := rfl
@[simp] theorem State.setStack_portA (s : State) (n : Nat) (x : Stack) : (s.setStack n x).portA = s.portA := rfl
@[simp] theorem State.setStack_portB (s : State) (n : Nat) (x : Stack) : (s.setStack n x).portB = s.portB := rfl
@[simp] theorem State.setStack_tieLoser (s : State) (n : Nat) (x : Stack) : (s.setStack n x).tieLoser = s.tieLoser := rfl
@[simp] theorem State.setStack_sems (s : State) (n : Nat) (x : Stack) : (s.setStack n x).sems = s.sems := rfl
@[simp] theorem State.setStack_vfs (s : State) (n : Nat) (x : Stack) : (s.setStack n x).vfs = s.vfs := rfl
@[simp] theorem State.setStack_hq (s : State) (n : Nat) (x : Stack) : (s.setStack n x).hq = s.hq := rfl
@[simp] theorem State.setStack_models (s : State) (n : Nat) (x : Stack) : (s.setStack n x).models = s.models := rfl
@[simp] theorem State.setStack_mgmt (s : State) (n : Nat) (x : Stack) : (s.setStack n x).mgmt = s.mgmt := rfl
@[simp] theorem State.setStack_answers (s : State) (n : Nat) (x : Stack) : (s.setStack n x).answers = s.answers := rfl
@[simp] theorem State.setStack_irqs (s : State) (n : Nat) (x : Stack) : (s.setStack n x).irqs = s.irqs := rfl
@[simp] theorem State.setStation_cur (s : State) (n : Nat) (x : Station) : (s.setStation n x).cur = s.cur := rfl
@[simp] theorem State.setStation_phase (s : State) (n : Nat) (x : Station) : (s.setStation n x).phase = s.phase := rfl
@[simp] theorem State.setStation_agenda (s : State) (n : Nat) (x : Station) : (s.setStation n x).agenda = s.agenda := rfl
@[simp] theorem State.setStation_freeCtr (s : State) (n : Nat) (x : Station) : (s.setStation n x).freeCtr = s.freeCtr := rfl
@[simp] theorem State.setStation_dcc (s : State) (n : Nat) (x : Station) : (s.setStation n x).dcc = s.dcc := rfl
@[simp] theorem State.setStation_slots (s : State) (n : Nat) (x : Station) : (s.setStation n x).slots = s.slots := rfl
@[simp] theorem State.setStation_tiles (s : State) (n : Nat) (x : Station) : (s.setStation n x).tiles = s.tiles := rfl
@[simp] theorem State.setStation_dies (s : State) (n : Nat) (x : Station) : (s.setStation n x).dies = s.dies := rfl
@[simp] theorem State.setStation_hbm (s : State) (n : Nat) (x : Station) : (s.setStation n x).hbm = s.hbm := rfl
@[simp] theorem State.setStation_mem (s : State) (n : Nat) (x : Station) : (s.setStation n x).mem = s.mem := rfl
@[simp] theorem State.setStation_used (s : State) (n : Nat) (x : Station) : (s.setStation n x).used = s.used := rfl
@[simp] theorem State.setStation_poison (s : State) (n : Nat) (x : Station) : (s.setStation n x).poison = s.poison := rfl
@[simp] theorem State.setStation_upsets (s : State) (n : Nat) (x : Station) : (s.setStation n x).upsets = s.upsets := rfl
@[simp] theorem State.setStation_sealed (s : State) (n : Nat) (x : Station) : (s.setStation n x).sealed = s.sealed := rfl
@[simp] theorem State.setStation_tab (s : State) (n : Nat) (x : Station) : (s.setStation n x).tab = s.tab := rfl
@[simp] theorem State.setStation_pend (s : State) (n : Nat) (x : Station) : (s.setStation n x).pend = s.pend := rfl
@[simp] theorem State.setStation_caches (s : State) (n : Nat) (x : Station) : (s.setStation n x).caches = s.caches := rfl
@[simp] theorem State.setStation_pkgRing (s : State) (n : Nat) (x : Station) : (s.setStation n x).pkgRing = s.pkgRing := rfl
@[simp] theorem State.setStation_regionUse (s : State) (n : Nat) (x : Station) : (s.setStation n x).regionUse = s.regionUse := rfl
@[simp] theorem State.setStation_counters (s : State) (n : Nat) (x : Station) : (s.setStation n x).counters = s.counters := rfl
@[simp] theorem State.setStation_ctrIssuer (s : State) (n : Nat) (x : Station) : (s.setStation n x).ctrIssuer = s.ctrIssuer := rfl
@[simp] theorem State.setStation_ctxEvents (s : State) (n : Nat) (x : Station) : (s.setStation n x).ctxEvents = s.ctxEvents := rfl
@[simp] theorem State.setStation_devEvents (s : State) (n : Nat) (x : Station) : (s.setStation n x).devEvents = s.devEvents := rfl
@[simp] theorem State.setStation_futures (s : State) (n : Nat) (x : Station) : (s.setStation n x).futures = s.futures := rfl
@[simp] theorem State.setStation_taskQ (s : State) (n : Nat) (x : Station) : (s.setStation n x).taskQ = s.taskQ := rfl
@[simp] theorem State.setStation_tasks (s : State) (n : Nat) (x : Station) : (s.setStation n x).tasks = s.tasks := rfl
@[simp] theorem State.setStation_teams (s : State) (n : Nat) (x : Station) : (s.setStation n x).teams = s.teams := rfl
@[simp] theorem State.setStation_csa (s : State) (n : Nat) (x : Station) : (s.setStation n x).csa = s.csa := rfl
@[simp] theorem State.setStation_launches (s : State) (n : Nat) (x : Station) : (s.setStation n x).launches = s.launches := rfl
@[simp] theorem State.setStation_qdata (s : State) (n : Nat) (x : Station) : (s.setStation n x).qdata = s.qdata := rfl
@[simp] theorem State.setStation_qActors (s : State) (n : Nat) (x : Station) : (s.setStation n x).qActors = s.qActors := rfl
@[simp] theorem State.setStation_qSwaps (s : State) (n : Nat) (x : Station) : (s.setStation n x).qSwaps = s.qSwaps := rfl
@[simp] theorem State.setStation_pieces (s : State) (n : Nat) (x : Station) : (s.setStation n x).pieces = s.pieces := rfl
@[simp] theorem State.setStation_partials (s : State) (n : Nat) (x : Station) : (s.setStation n x).partials = s.partials := rfl
@[simp] theorem State.setStation_sums (s : State) (n : Nat) (x : Station) : (s.setStation n x).sums = s.sums := rfl
@[simp] theorem State.setStation_portA (s : State) (n : Nat) (x : Station) : (s.setStation n x).portA = s.portA := rfl
@[simp] theorem State.setStation_portB (s : State) (n : Nat) (x : Station) : (s.setStation n x).portB = s.portB := rfl
@[simp] theorem State.setStation_tieLoser (s : State) (n : Nat) (x : Station) : (s.setStation n x).tieLoser = s.tieLoser := rfl
@[simp] theorem State.setStation_sems (s : State) (n : Nat) (x : Station) : (s.setStation n x).sems = s.sems := rfl
@[simp] theorem State.setStation_vfs (s : State) (n : Nat) (x : Station) : (s.setStation n x).vfs = s.vfs := rfl
@[simp] theorem State.setStation_hq (s : State) (n : Nat) (x : Station) : (s.setStation n x).hq = s.hq := rfl
@[simp] theorem State.setStation_models (s : State) (n : Nat) (x : Station) : (s.setStation n x).models = s.models := rfl
@[simp] theorem State.setStation_mgmt (s : State) (n : Nat) (x : Station) : (s.setStation n x).mgmt = s.mgmt := rfl
@[simp] theorem State.setStation_answers (s : State) (n : Nat) (x : Station) : (s.setStation n x).answers = s.answers := rfl
@[simp] theorem State.setStation_irqs (s : State) (n : Nat) (x : Station) : (s.setStation n x).irqs = s.irqs := rfl
@[simp] theorem State.clearPoison_cur (s : State) (k : Nat) : (s.clearPoison k).cur = s.cur := rfl
@[simp] theorem State.clearPoison_phase (s : State) (k : Nat) : (s.clearPoison k).phase = s.phase := rfl
@[simp] theorem State.clearPoison_agenda (s : State) (k : Nat) : (s.clearPoison k).agenda = s.agenda := rfl
@[simp] theorem State.clearPoison_freeCtr (s : State) (k : Nat) : (s.clearPoison k).freeCtr = s.freeCtr := rfl
@[simp] theorem State.clearPoison_dcc (s : State) (k : Nat) : (s.clearPoison k).dcc = s.dcc := rfl
@[simp] theorem State.clearPoison_slots (s : State) (k : Nat) : (s.clearPoison k).slots = s.slots := rfl
@[simp] theorem State.clearPoison_tiles (s : State) (k : Nat) : (s.clearPoison k).tiles = s.tiles := rfl
@[simp] theorem State.clearPoison_dies (s : State) (k : Nat) : (s.clearPoison k).dies = s.dies := rfl
@[simp] theorem State.clearPoison_hbm (s : State) (k : Nat) : (s.clearPoison k).hbm = s.hbm := rfl
@[simp] theorem State.clearPoison_stations (s : State) (k : Nat) : (s.clearPoison k).stations = s.stations := rfl
@[simp] theorem State.clearPoison_mem (s : State) (k : Nat) : (s.clearPoison k).mem = s.mem := rfl
@[simp] theorem State.clearPoison_used (s : State) (k : Nat) : (s.clearPoison k).used = s.used := rfl
@[simp] theorem State.clearPoison_upsets (s : State) (k : Nat) : (s.clearPoison k).upsets = s.upsets := rfl
@[simp] theorem State.clearPoison_sealed (s : State) (k : Nat) : (s.clearPoison k).sealed = s.sealed := rfl
@[simp] theorem State.clearPoison_tab (s : State) (k : Nat) : (s.clearPoison k).tab = s.tab := rfl
@[simp] theorem State.clearPoison_pend (s : State) (k : Nat) : (s.clearPoison k).pend = s.pend := rfl
@[simp] theorem State.clearPoison_caches (s : State) (k : Nat) : (s.clearPoison k).caches = s.caches := rfl
@[simp] theorem State.clearPoison_pkgRing (s : State) (k : Nat) : (s.clearPoison k).pkgRing = s.pkgRing := rfl
@[simp] theorem State.clearPoison_regionUse (s : State) (k : Nat) : (s.clearPoison k).regionUse = s.regionUse := rfl
@[simp] theorem State.clearPoison_counters (s : State) (k : Nat) : (s.clearPoison k).counters = s.counters := rfl
@[simp] theorem State.clearPoison_ctrIssuer (s : State) (k : Nat) : (s.clearPoison k).ctrIssuer = s.ctrIssuer := rfl
@[simp] theorem State.clearPoison_ctxEvents (s : State) (k : Nat) : (s.clearPoison k).ctxEvents = s.ctxEvents := rfl
@[simp] theorem State.clearPoison_devEvents (s : State) (k : Nat) : (s.clearPoison k).devEvents = s.devEvents := rfl
@[simp] theorem State.clearPoison_futures (s : State) (k : Nat) : (s.clearPoison k).futures = s.futures := rfl
@[simp] theorem State.clearPoison_taskQ (s : State) (k : Nat) : (s.clearPoison k).taskQ = s.taskQ := rfl
@[simp] theorem State.clearPoison_tasks (s : State) (k : Nat) : (s.clearPoison k).tasks = s.tasks := rfl
@[simp] theorem State.clearPoison_teams (s : State) (k : Nat) : (s.clearPoison k).teams = s.teams := rfl
@[simp] theorem State.clearPoison_csa (s : State) (k : Nat) : (s.clearPoison k).csa = s.csa := rfl
@[simp] theorem State.clearPoison_launches (s : State) (k : Nat) : (s.clearPoison k).launches = s.launches := rfl
@[simp] theorem State.clearPoison_qdata (s : State) (k : Nat) : (s.clearPoison k).qdata = s.qdata := rfl
@[simp] theorem State.clearPoison_qActors (s : State) (k : Nat) : (s.clearPoison k).qActors = s.qActors := rfl
@[simp] theorem State.clearPoison_qSwaps (s : State) (k : Nat) : (s.clearPoison k).qSwaps = s.qSwaps := rfl
@[simp] theorem State.clearPoison_pieces (s : State) (k : Nat) : (s.clearPoison k).pieces = s.pieces := rfl
@[simp] theorem State.clearPoison_partials (s : State) (k : Nat) : (s.clearPoison k).partials = s.partials := rfl
@[simp] theorem State.clearPoison_sums (s : State) (k : Nat) : (s.clearPoison k).sums = s.sums := rfl
@[simp] theorem State.clearPoison_portA (s : State) (k : Nat) : (s.clearPoison k).portA = s.portA := rfl
@[simp] theorem State.clearPoison_portB (s : State) (k : Nat) : (s.clearPoison k).portB = s.portB := rfl
@[simp] theorem State.clearPoison_tieLoser (s : State) (k : Nat) : (s.clearPoison k).tieLoser = s.tieLoser := rfl
@[simp] theorem State.clearPoison_sems (s : State) (k : Nat) : (s.clearPoison k).sems = s.sems := rfl
@[simp] theorem State.clearPoison_vfs (s : State) (k : Nat) : (s.clearPoison k).vfs = s.vfs := rfl
@[simp] theorem State.clearPoison_hq (s : State) (k : Nat) : (s.clearPoison k).hq = s.hq := rfl
@[simp] theorem State.clearPoison_models (s : State) (k : Nat) : (s.clearPoison k).models = s.models := rfl
@[simp] theorem State.clearPoison_mgmt (s : State) (k : Nat) : (s.clearPoison k).mgmt = s.mgmt := rfl
@[simp] theorem State.clearPoison_answers (s : State) (k : Nat) : (s.clearPoison k).answers = s.answers := rfl
@[simp] theorem State.clearPoison_irqs (s : State) (k : Nat) : (s.clearPoison k).irqs = s.irqs := rfl
@[simp] theorem State.setTab_cur (s : State) (c i v : Nat) : (s.setTab c i v).cur = s.cur := rfl
@[simp] theorem State.setTab_phase (s : State) (c i v : Nat) : (s.setTab c i v).phase = s.phase := rfl
@[simp] theorem State.setTab_agenda (s : State) (c i v : Nat) : (s.setTab c i v).agenda = s.agenda := rfl
@[simp] theorem State.setTab_freeCtr (s : State) (c i v : Nat) : (s.setTab c i v).freeCtr = s.freeCtr := rfl
@[simp] theorem State.setTab_dcc (s : State) (c i v : Nat) : (s.setTab c i v).dcc = s.dcc := rfl
@[simp] theorem State.setTab_slots (s : State) (c i v : Nat) : (s.setTab c i v).slots = s.slots := rfl
@[simp] theorem State.setTab_tiles (s : State) (c i v : Nat) : (s.setTab c i v).tiles = s.tiles := rfl
@[simp] theorem State.setTab_dies (s : State) (c i v : Nat) : (s.setTab c i v).dies = s.dies := rfl
@[simp] theorem State.setTab_hbm (s : State) (c i v : Nat) : (s.setTab c i v).hbm = s.hbm := rfl
@[simp] theorem State.setTab_stations (s : State) (c i v : Nat) : (s.setTab c i v).stations = s.stations := rfl
@[simp] theorem State.setTab_mem (s : State) (c i v : Nat) : (s.setTab c i v).mem = s.mem := rfl
@[simp] theorem State.setTab_used (s : State) (c i v : Nat) : (s.setTab c i v).used = s.used := rfl
@[simp] theorem State.setTab_poison (s : State) (c i v : Nat) : (s.setTab c i v).poison = s.poison := rfl
@[simp] theorem State.setTab_upsets (s : State) (c i v : Nat) : (s.setTab c i v).upsets = s.upsets := rfl
@[simp] theorem State.setTab_sealed (s : State) (c i v : Nat) : (s.setTab c i v).sealed = s.sealed := rfl
@[simp] theorem State.setTab_pend (s : State) (c i v : Nat) : (s.setTab c i v).pend = s.pend := rfl
@[simp] theorem State.setTab_caches (s : State) (c i v : Nat) : (s.setTab c i v).caches = s.caches := rfl
@[simp] theorem State.setTab_pkgRing (s : State) (c i v : Nat) : (s.setTab c i v).pkgRing = s.pkgRing := rfl
@[simp] theorem State.setTab_regionUse (s : State) (c i v : Nat) : (s.setTab c i v).regionUse = s.regionUse := rfl
@[simp] theorem State.setTab_counters (s : State) (c i v : Nat) : (s.setTab c i v).counters = s.counters := rfl
@[simp] theorem State.setTab_ctrIssuer (s : State) (c i v : Nat) : (s.setTab c i v).ctrIssuer = s.ctrIssuer := rfl
@[simp] theorem State.setTab_ctxEvents (s : State) (c i v : Nat) : (s.setTab c i v).ctxEvents = s.ctxEvents := rfl
@[simp] theorem State.setTab_devEvents (s : State) (c i v : Nat) : (s.setTab c i v).devEvents = s.devEvents := rfl
@[simp] theorem State.setTab_futures (s : State) (c i v : Nat) : (s.setTab c i v).futures = s.futures := rfl
@[simp] theorem State.setTab_taskQ (s : State) (c i v : Nat) : (s.setTab c i v).taskQ = s.taskQ := rfl
@[simp] theorem State.setTab_tasks (s : State) (c i v : Nat) : (s.setTab c i v).tasks = s.tasks := rfl
@[simp] theorem State.setTab_teams (s : State) (c i v : Nat) : (s.setTab c i v).teams = s.teams := rfl
@[simp] theorem State.setTab_csa (s : State) (c i v : Nat) : (s.setTab c i v).csa = s.csa := rfl
@[simp] theorem State.setTab_launches (s : State) (c i v : Nat) : (s.setTab c i v).launches = s.launches := rfl
@[simp] theorem State.setTab_qdata (s : State) (c i v : Nat) : (s.setTab c i v).qdata = s.qdata := rfl
@[simp] theorem State.setTab_qActors (s : State) (c i v : Nat) : (s.setTab c i v).qActors = s.qActors := rfl
@[simp] theorem State.setTab_qSwaps (s : State) (c i v : Nat) : (s.setTab c i v).qSwaps = s.qSwaps := rfl
@[simp] theorem State.setTab_pieces (s : State) (c i v : Nat) : (s.setTab c i v).pieces = s.pieces := rfl
@[simp] theorem State.setTab_partials (s : State) (c i v : Nat) : (s.setTab c i v).partials = s.partials := rfl
@[simp] theorem State.setTab_sums (s : State) (c i v : Nat) : (s.setTab c i v).sums = s.sums := rfl
@[simp] theorem State.setTab_portA (s : State) (c i v : Nat) : (s.setTab c i v).portA = s.portA := rfl
@[simp] theorem State.setTab_portB (s : State) (c i v : Nat) : (s.setTab c i v).portB = s.portB := rfl
@[simp] theorem State.setTab_tieLoser (s : State) (c i v : Nat) : (s.setTab c i v).tieLoser = s.tieLoser := rfl
@[simp] theorem State.setTab_sems (s : State) (c i v : Nat) : (s.setTab c i v).sems = s.sems := rfl
@[simp] theorem State.setTab_vfs (s : State) (c i v : Nat) : (s.setTab c i v).vfs = s.vfs := rfl
@[simp] theorem State.setTab_hq (s : State) (c i v : Nat) : (s.setTab c i v).hq = s.hq := rfl
@[simp] theorem State.setTab_models (s : State) (c i v : Nat) : (s.setTab c i v).models = s.models := rfl
@[simp] theorem State.setTab_mgmt (s : State) (c i v : Nat) : (s.setTab c i v).mgmt = s.mgmt := rfl
@[simp] theorem State.setTab_answers (s : State) (c i v : Nat) : (s.setTab c i v).answers = s.answers := rfl
@[simp] theorem State.setTab_irqs (s : State) (c i v : Nat) : (s.setTab c i v).irqs = s.irqs := rfl
@[simp] theorem State.countCtx_cur (s : State) (c i : Nat) : (s.countCtx c i).cur = s.cur := rfl
@[simp] theorem State.countCtx_phase (s : State) (c i : Nat) : (s.countCtx c i).phase = s.phase := rfl
@[simp] theorem State.countCtx_agenda (s : State) (c i : Nat) : (s.countCtx c i).agenda = s.agenda := rfl
@[simp] theorem State.countCtx_freeCtr (s : State) (c i : Nat) : (s.countCtx c i).freeCtr = s.freeCtr := rfl
@[simp] theorem State.countCtx_dcc (s : State) (c i : Nat) : (s.countCtx c i).dcc = s.dcc := rfl
@[simp] theorem State.countCtx_slots (s : State) (c i : Nat) : (s.countCtx c i).slots = s.slots := rfl
@[simp] theorem State.countCtx_tiles (s : State) (c i : Nat) : (s.countCtx c i).tiles = s.tiles := rfl
@[simp] theorem State.countCtx_dies (s : State) (c i : Nat) : (s.countCtx c i).dies = s.dies := rfl
@[simp] theorem State.countCtx_hbm (s : State) (c i : Nat) : (s.countCtx c i).hbm = s.hbm := rfl
@[simp] theorem State.countCtx_stations (s : State) (c i : Nat) : (s.countCtx c i).stations = s.stations := rfl
@[simp] theorem State.countCtx_mem (s : State) (c i : Nat) : (s.countCtx c i).mem = s.mem := rfl
@[simp] theorem State.countCtx_used (s : State) (c i : Nat) : (s.countCtx c i).used = s.used := rfl
@[simp] theorem State.countCtx_poison (s : State) (c i : Nat) : (s.countCtx c i).poison = s.poison := rfl
@[simp] theorem State.countCtx_upsets (s : State) (c i : Nat) : (s.countCtx c i).upsets = s.upsets := rfl
@[simp] theorem State.countCtx_sealed (s : State) (c i : Nat) : (s.countCtx c i).sealed = s.sealed := rfl
@[simp] theorem State.countCtx_tab (s : State) (c i : Nat) : (s.countCtx c i).tab = s.tab := rfl
@[simp] theorem State.countCtx_pend (s : State) (c i : Nat) : (s.countCtx c i).pend = s.pend := rfl
@[simp] theorem State.countCtx_caches (s : State) (c i : Nat) : (s.countCtx c i).caches = s.caches := rfl
@[simp] theorem State.countCtx_pkgRing (s : State) (c i : Nat) : (s.countCtx c i).pkgRing = s.pkgRing := rfl
@[simp] theorem State.countCtx_regionUse (s : State) (c i : Nat) : (s.countCtx c i).regionUse = s.regionUse := rfl
@[simp] theorem State.countCtx_counters (s : State) (c i : Nat) : (s.countCtx c i).counters = s.counters := rfl
@[simp] theorem State.countCtx_ctrIssuer (s : State) (c i : Nat) : (s.countCtx c i).ctrIssuer = s.ctrIssuer := rfl
@[simp] theorem State.countCtx_devEvents (s : State) (c i : Nat) : (s.countCtx c i).devEvents = s.devEvents := rfl
@[simp] theorem State.countCtx_futures (s : State) (c i : Nat) : (s.countCtx c i).futures = s.futures := rfl
@[simp] theorem State.countCtx_taskQ (s : State) (c i : Nat) : (s.countCtx c i).taskQ = s.taskQ := rfl
@[simp] theorem State.countCtx_tasks (s : State) (c i : Nat) : (s.countCtx c i).tasks = s.tasks := rfl
@[simp] theorem State.countCtx_teams (s : State) (c i : Nat) : (s.countCtx c i).teams = s.teams := rfl
@[simp] theorem State.countCtx_csa (s : State) (c i : Nat) : (s.countCtx c i).csa = s.csa := rfl
@[simp] theorem State.countCtx_launches (s : State) (c i : Nat) : (s.countCtx c i).launches = s.launches := rfl
@[simp] theorem State.countCtx_qdata (s : State) (c i : Nat) : (s.countCtx c i).qdata = s.qdata := rfl
@[simp] theorem State.countCtx_qActors (s : State) (c i : Nat) : (s.countCtx c i).qActors = s.qActors := rfl
@[simp] theorem State.countCtx_qSwaps (s : State) (c i : Nat) : (s.countCtx c i).qSwaps = s.qSwaps := rfl
@[simp] theorem State.countCtx_pieces (s : State) (c i : Nat) : (s.countCtx c i).pieces = s.pieces := rfl
@[simp] theorem State.countCtx_partials (s : State) (c i : Nat) : (s.countCtx c i).partials = s.partials := rfl
@[simp] theorem State.countCtx_sums (s : State) (c i : Nat) : (s.countCtx c i).sums = s.sums := rfl
@[simp] theorem State.countCtx_portA (s : State) (c i : Nat) : (s.countCtx c i).portA = s.portA := rfl
@[simp] theorem State.countCtx_portB (s : State) (c i : Nat) : (s.countCtx c i).portB = s.portB := rfl
@[simp] theorem State.countCtx_tieLoser (s : State) (c i : Nat) : (s.countCtx c i).tieLoser = s.tieLoser := rfl
@[simp] theorem State.countCtx_sems (s : State) (c i : Nat) : (s.countCtx c i).sems = s.sems := rfl
@[simp] theorem State.countCtx_vfs (s : State) (c i : Nat) : (s.countCtx c i).vfs = s.vfs := rfl
@[simp] theorem State.countCtx_hq (s : State) (c i : Nat) : (s.countCtx c i).hq = s.hq := rfl
@[simp] theorem State.countCtx_models (s : State) (c i : Nat) : (s.countCtx c i).models = s.models := rfl
@[simp] theorem State.countCtx_mgmt (s : State) (c i : Nat) : (s.countCtx c i).mgmt = s.mgmt := rfl
@[simp] theorem State.countCtx_answers (s : State) (c i : Nat) : (s.countCtx c i).answers = s.answers := rfl
@[simp] theorem State.countCtx_irqs (s : State) (c i : Nat) : (s.countCtx c i).irqs = s.irqs := rfl
@[simp] theorem State.countDev_cur (s : State) (c i : Nat) : (s.countDev c i).cur = s.cur := rfl
@[simp] theorem State.countDev_phase (s : State) (c i : Nat) : (s.countDev c i).phase = s.phase := rfl
@[simp] theorem State.countDev_agenda (s : State) (c i : Nat) : (s.countDev c i).agenda = s.agenda := rfl
@[simp] theorem State.countDev_freeCtr (s : State) (c i : Nat) : (s.countDev c i).freeCtr = s.freeCtr := rfl
@[simp] theorem State.countDev_dcc (s : State) (c i : Nat) : (s.countDev c i).dcc = s.dcc := rfl
@[simp] theorem State.countDev_slots (s : State) (c i : Nat) : (s.countDev c i).slots = s.slots := rfl
@[simp] theorem State.countDev_tiles (s : State) (c i : Nat) : (s.countDev c i).tiles = s.tiles := rfl
@[simp] theorem State.countDev_dies (s : State) (c i : Nat) : (s.countDev c i).dies = s.dies := rfl
@[simp] theorem State.countDev_hbm (s : State) (c i : Nat) : (s.countDev c i).hbm = s.hbm := rfl
@[simp] theorem State.countDev_stations (s : State) (c i : Nat) : (s.countDev c i).stations = s.stations := rfl
@[simp] theorem State.countDev_mem (s : State) (c i : Nat) : (s.countDev c i).mem = s.mem := rfl
@[simp] theorem State.countDev_used (s : State) (c i : Nat) : (s.countDev c i).used = s.used := rfl
@[simp] theorem State.countDev_poison (s : State) (c i : Nat) : (s.countDev c i).poison = s.poison := rfl
@[simp] theorem State.countDev_upsets (s : State) (c i : Nat) : (s.countDev c i).upsets = s.upsets := rfl
@[simp] theorem State.countDev_sealed (s : State) (c i : Nat) : (s.countDev c i).sealed = s.sealed := rfl
@[simp] theorem State.countDev_tab (s : State) (c i : Nat) : (s.countDev c i).tab = s.tab := rfl
@[simp] theorem State.countDev_pend (s : State) (c i : Nat) : (s.countDev c i).pend = s.pend := rfl
@[simp] theorem State.countDev_caches (s : State) (c i : Nat) : (s.countDev c i).caches = s.caches := rfl
@[simp] theorem State.countDev_pkgRing (s : State) (c i : Nat) : (s.countDev c i).pkgRing = s.pkgRing := rfl
@[simp] theorem State.countDev_regionUse (s : State) (c i : Nat) : (s.countDev c i).regionUse = s.regionUse := rfl
@[simp] theorem State.countDev_counters (s : State) (c i : Nat) : (s.countDev c i).counters = s.counters := rfl
@[simp] theorem State.countDev_ctrIssuer (s : State) (c i : Nat) : (s.countDev c i).ctrIssuer = s.ctrIssuer := rfl
@[simp] theorem State.countDev_ctxEvents (s : State) (c i : Nat) : (s.countDev c i).ctxEvents = s.ctxEvents := rfl
@[simp] theorem State.countDev_futures (s : State) (c i : Nat) : (s.countDev c i).futures = s.futures := rfl
@[simp] theorem State.countDev_taskQ (s : State) (c i : Nat) : (s.countDev c i).taskQ = s.taskQ := rfl
@[simp] theorem State.countDev_tasks (s : State) (c i : Nat) : (s.countDev c i).tasks = s.tasks := rfl
@[simp] theorem State.countDev_teams (s : State) (c i : Nat) : (s.countDev c i).teams = s.teams := rfl
@[simp] theorem State.countDev_csa (s : State) (c i : Nat) : (s.countDev c i).csa = s.csa := rfl
@[simp] theorem State.countDev_launches (s : State) (c i : Nat) : (s.countDev c i).launches = s.launches := rfl
@[simp] theorem State.countDev_qdata (s : State) (c i : Nat) : (s.countDev c i).qdata = s.qdata := rfl
@[simp] theorem State.countDev_qActors (s : State) (c i : Nat) : (s.countDev c i).qActors = s.qActors := rfl
@[simp] theorem State.countDev_qSwaps (s : State) (c i : Nat) : (s.countDev c i).qSwaps = s.qSwaps := rfl
@[simp] theorem State.countDev_pieces (s : State) (c i : Nat) : (s.countDev c i).pieces = s.pieces := rfl
@[simp] theorem State.countDev_partials (s : State) (c i : Nat) : (s.countDev c i).partials = s.partials := rfl
@[simp] theorem State.countDev_sums (s : State) (c i : Nat) : (s.countDev c i).sums = s.sums := rfl
@[simp] theorem State.countDev_portA (s : State) (c i : Nat) : (s.countDev c i).portA = s.portA := rfl
@[simp] theorem State.countDev_portB (s : State) (c i : Nat) : (s.countDev c i).portB = s.portB := rfl
@[simp] theorem State.countDev_tieLoser (s : State) (c i : Nat) : (s.countDev c i).tieLoser = s.tieLoser := rfl
@[simp] theorem State.countDev_sems (s : State) (c i : Nat) : (s.countDev c i).sems = s.sems := rfl
@[simp] theorem State.countDev_vfs (s : State) (c i : Nat) : (s.countDev c i).vfs = s.vfs := rfl
@[simp] theorem State.countDev_hq (s : State) (c i : Nat) : (s.countDev c i).hq = s.hq := rfl
@[simp] theorem State.countDev_models (s : State) (c i : Nat) : (s.countDev c i).models = s.models := rfl
@[simp] theorem State.countDev_mgmt (s : State) (c i : Nat) : (s.countDev c i).mgmt = s.mgmt := rfl
@[simp] theorem State.countDev_answers (s : State) (c i : Nat) : (s.countDev c i).answers = s.answers := rfl
@[simp] theorem State.countDev_irqs (s : State) (c i : Nat) : (s.countDev c i).irqs = s.irqs := rfl
@[simp] theorem State.setFuture_cur (s : State) (n : Nat) (x : Future) : (s.setFuture n x).cur = s.cur := rfl
@[simp] theorem State.setFuture_phase (s : State) (n : Nat) (x : Future) : (s.setFuture n x).phase = s.phase := rfl
@[simp] theorem State.setFuture_agenda (s : State) (n : Nat) (x : Future) : (s.setFuture n x).agenda = s.agenda := rfl
@[simp] theorem State.setFuture_freeCtr (s : State) (n : Nat) (x : Future) : (s.setFuture n x).freeCtr = s.freeCtr := rfl
@[simp] theorem State.setFuture_dcc (s : State) (n : Nat) (x : Future) : (s.setFuture n x).dcc = s.dcc := rfl
@[simp] theorem State.setFuture_slots (s : State) (n : Nat) (x : Future) : (s.setFuture n x).slots = s.slots := rfl
@[simp] theorem State.setFuture_tiles (s : State) (n : Nat) (x : Future) : (s.setFuture n x).tiles = s.tiles := rfl
@[simp] theorem State.setFuture_dies (s : State) (n : Nat) (x : Future) : (s.setFuture n x).dies = s.dies := rfl
@[simp] theorem State.setFuture_hbm (s : State) (n : Nat) (x : Future) : (s.setFuture n x).hbm = s.hbm := rfl
@[simp] theorem State.setFuture_stations (s : State) (n : Nat) (x : Future) : (s.setFuture n x).stations = s.stations := rfl
@[simp] theorem State.setFuture_mem (s : State) (n : Nat) (x : Future) : (s.setFuture n x).mem = s.mem := rfl
@[simp] theorem State.setFuture_used (s : State) (n : Nat) (x : Future) : (s.setFuture n x).used = s.used := rfl
@[simp] theorem State.setFuture_poison (s : State) (n : Nat) (x : Future) : (s.setFuture n x).poison = s.poison := rfl
@[simp] theorem State.setFuture_upsets (s : State) (n : Nat) (x : Future) : (s.setFuture n x).upsets = s.upsets := rfl
@[simp] theorem State.setFuture_sealed (s : State) (n : Nat) (x : Future) : (s.setFuture n x).sealed = s.sealed := rfl
@[simp] theorem State.setFuture_tab (s : State) (n : Nat) (x : Future) : (s.setFuture n x).tab = s.tab := rfl
@[simp] theorem State.setFuture_pend (s : State) (n : Nat) (x : Future) : (s.setFuture n x).pend = s.pend := rfl
@[simp] theorem State.setFuture_caches (s : State) (n : Nat) (x : Future) : (s.setFuture n x).caches = s.caches := rfl
@[simp] theorem State.setFuture_pkgRing (s : State) (n : Nat) (x : Future) : (s.setFuture n x).pkgRing = s.pkgRing := rfl
@[simp] theorem State.setFuture_regionUse (s : State) (n : Nat) (x : Future) : (s.setFuture n x).regionUse = s.regionUse := rfl
@[simp] theorem State.setFuture_counters (s : State) (n : Nat) (x : Future) : (s.setFuture n x).counters = s.counters := rfl
@[simp] theorem State.setFuture_ctrIssuer (s : State) (n : Nat) (x : Future) : (s.setFuture n x).ctrIssuer = s.ctrIssuer := rfl
@[simp] theorem State.setFuture_ctxEvents (s : State) (n : Nat) (x : Future) : (s.setFuture n x).ctxEvents = s.ctxEvents := rfl
@[simp] theorem State.setFuture_devEvents (s : State) (n : Nat) (x : Future) : (s.setFuture n x).devEvents = s.devEvents := rfl
@[simp] theorem State.setFuture_taskQ (s : State) (n : Nat) (x : Future) : (s.setFuture n x).taskQ = s.taskQ := rfl
@[simp] theorem State.setFuture_tasks (s : State) (n : Nat) (x : Future) : (s.setFuture n x).tasks = s.tasks := rfl
@[simp] theorem State.setFuture_teams (s : State) (n : Nat) (x : Future) : (s.setFuture n x).teams = s.teams := rfl
@[simp] theorem State.setFuture_csa (s : State) (n : Nat) (x : Future) : (s.setFuture n x).csa = s.csa := rfl
@[simp] theorem State.setFuture_launches (s : State) (n : Nat) (x : Future) : (s.setFuture n x).launches = s.launches := rfl
@[simp] theorem State.setFuture_qdata (s : State) (n : Nat) (x : Future) : (s.setFuture n x).qdata = s.qdata := rfl
@[simp] theorem State.setFuture_qActors (s : State) (n : Nat) (x : Future) : (s.setFuture n x).qActors = s.qActors := rfl
@[simp] theorem State.setFuture_qSwaps (s : State) (n : Nat) (x : Future) : (s.setFuture n x).qSwaps = s.qSwaps := rfl
@[simp] theorem State.setFuture_pieces (s : State) (n : Nat) (x : Future) : (s.setFuture n x).pieces = s.pieces := rfl
@[simp] theorem State.setFuture_partials (s : State) (n : Nat) (x : Future) : (s.setFuture n x).partials = s.partials := rfl
@[simp] theorem State.setFuture_sums (s : State) (n : Nat) (x : Future) : (s.setFuture n x).sums = s.sums := rfl
@[simp] theorem State.setFuture_portA (s : State) (n : Nat) (x : Future) : (s.setFuture n x).portA = s.portA := rfl
@[simp] theorem State.setFuture_portB (s : State) (n : Nat) (x : Future) : (s.setFuture n x).portB = s.portB := rfl
@[simp] theorem State.setFuture_tieLoser (s : State) (n : Nat) (x : Future) : (s.setFuture n x).tieLoser = s.tieLoser := rfl
@[simp] theorem State.setFuture_sems (s : State) (n : Nat) (x : Future) : (s.setFuture n x).sems = s.sems := rfl
@[simp] theorem State.setFuture_vfs (s : State) (n : Nat) (x : Future) : (s.setFuture n x).vfs = s.vfs := rfl
@[simp] theorem State.setFuture_hq (s : State) (n : Nat) (x : Future) : (s.setFuture n x).hq = s.hq := rfl
@[simp] theorem State.setFuture_models (s : State) (n : Nat) (x : Future) : (s.setFuture n x).models = s.models := rfl
@[simp] theorem State.setFuture_mgmt (s : State) (n : Nat) (x : Future) : (s.setFuture n x).mgmt = s.mgmt := rfl
@[simp] theorem State.setFuture_answers (s : State) (n : Nat) (x : Future) : (s.setFuture n x).answers = s.answers := rfl
@[simp] theorem State.setFuture_irqs (s : State) (n : Nat) (x : Future) : (s.setFuture n x).irqs = s.irqs := rfl
@[simp] theorem State.setTask_cur (s : State) (n : Nat) (x : Task) : (s.setTask n x).cur = s.cur := rfl
@[simp] theorem State.setTask_phase (s : State) (n : Nat) (x : Task) : (s.setTask n x).phase = s.phase := rfl
@[simp] theorem State.setTask_agenda (s : State) (n : Nat) (x : Task) : (s.setTask n x).agenda = s.agenda := rfl
@[simp] theorem State.setTask_freeCtr (s : State) (n : Nat) (x : Task) : (s.setTask n x).freeCtr = s.freeCtr := rfl
@[simp] theorem State.setTask_dcc (s : State) (n : Nat) (x : Task) : (s.setTask n x).dcc = s.dcc := rfl
@[simp] theorem State.setTask_slots (s : State) (n : Nat) (x : Task) : (s.setTask n x).slots = s.slots := rfl
@[simp] theorem State.setTask_tiles (s : State) (n : Nat) (x : Task) : (s.setTask n x).tiles = s.tiles := rfl
@[simp] theorem State.setTask_dies (s : State) (n : Nat) (x : Task) : (s.setTask n x).dies = s.dies := rfl
@[simp] theorem State.setTask_hbm (s : State) (n : Nat) (x : Task) : (s.setTask n x).hbm = s.hbm := rfl
@[simp] theorem State.setTask_stations (s : State) (n : Nat) (x : Task) : (s.setTask n x).stations = s.stations := rfl
@[simp] theorem State.setTask_mem (s : State) (n : Nat) (x : Task) : (s.setTask n x).mem = s.mem := rfl
@[simp] theorem State.setTask_used (s : State) (n : Nat) (x : Task) : (s.setTask n x).used = s.used := rfl
@[simp] theorem State.setTask_poison (s : State) (n : Nat) (x : Task) : (s.setTask n x).poison = s.poison := rfl
@[simp] theorem State.setTask_upsets (s : State) (n : Nat) (x : Task) : (s.setTask n x).upsets = s.upsets := rfl
@[simp] theorem State.setTask_sealed (s : State) (n : Nat) (x : Task) : (s.setTask n x).sealed = s.sealed := rfl
@[simp] theorem State.setTask_tab (s : State) (n : Nat) (x : Task) : (s.setTask n x).tab = s.tab := rfl
@[simp] theorem State.setTask_pend (s : State) (n : Nat) (x : Task) : (s.setTask n x).pend = s.pend := rfl
@[simp] theorem State.setTask_caches (s : State) (n : Nat) (x : Task) : (s.setTask n x).caches = s.caches := rfl
@[simp] theorem State.setTask_pkgRing (s : State) (n : Nat) (x : Task) : (s.setTask n x).pkgRing = s.pkgRing := rfl
@[simp] theorem State.setTask_regionUse (s : State) (n : Nat) (x : Task) : (s.setTask n x).regionUse = s.regionUse := rfl
@[simp] theorem State.setTask_counters (s : State) (n : Nat) (x : Task) : (s.setTask n x).counters = s.counters := rfl
@[simp] theorem State.setTask_ctrIssuer (s : State) (n : Nat) (x : Task) : (s.setTask n x).ctrIssuer = s.ctrIssuer := rfl
@[simp] theorem State.setTask_ctxEvents (s : State) (n : Nat) (x : Task) : (s.setTask n x).ctxEvents = s.ctxEvents := rfl
@[simp] theorem State.setTask_devEvents (s : State) (n : Nat) (x : Task) : (s.setTask n x).devEvents = s.devEvents := rfl
@[simp] theorem State.setTask_futures (s : State) (n : Nat) (x : Task) : (s.setTask n x).futures = s.futures := rfl
@[simp] theorem State.setTask_taskQ (s : State) (n : Nat) (x : Task) : (s.setTask n x).taskQ = s.taskQ := rfl
@[simp] theorem State.setTask_teams (s : State) (n : Nat) (x : Task) : (s.setTask n x).teams = s.teams := rfl
@[simp] theorem State.setTask_csa (s : State) (n : Nat) (x : Task) : (s.setTask n x).csa = s.csa := rfl
@[simp] theorem State.setTask_launches (s : State) (n : Nat) (x : Task) : (s.setTask n x).launches = s.launches := rfl
@[simp] theorem State.setTask_qdata (s : State) (n : Nat) (x : Task) : (s.setTask n x).qdata = s.qdata := rfl
@[simp] theorem State.setTask_qActors (s : State) (n : Nat) (x : Task) : (s.setTask n x).qActors = s.qActors := rfl
@[simp] theorem State.setTask_qSwaps (s : State) (n : Nat) (x : Task) : (s.setTask n x).qSwaps = s.qSwaps := rfl
@[simp] theorem State.setTask_pieces (s : State) (n : Nat) (x : Task) : (s.setTask n x).pieces = s.pieces := rfl
@[simp] theorem State.setTask_partials (s : State) (n : Nat) (x : Task) : (s.setTask n x).partials = s.partials := rfl
@[simp] theorem State.setTask_sums (s : State) (n : Nat) (x : Task) : (s.setTask n x).sums = s.sums := rfl
@[simp] theorem State.setTask_portA (s : State) (n : Nat) (x : Task) : (s.setTask n x).portA = s.portA := rfl
@[simp] theorem State.setTask_portB (s : State) (n : Nat) (x : Task) : (s.setTask n x).portB = s.portB := rfl
@[simp] theorem State.setTask_tieLoser (s : State) (n : Nat) (x : Task) : (s.setTask n x).tieLoser = s.tieLoser := rfl
@[simp] theorem State.setTask_sems (s : State) (n : Nat) (x : Task) : (s.setTask n x).sems = s.sems := rfl
@[simp] theorem State.setTask_vfs (s : State) (n : Nat) (x : Task) : (s.setTask n x).vfs = s.vfs := rfl
@[simp] theorem State.setTask_hq (s : State) (n : Nat) (x : Task) : (s.setTask n x).hq = s.hq := rfl
@[simp] theorem State.setTask_models (s : State) (n : Nat) (x : Task) : (s.setTask n x).models = s.models := rfl
@[simp] theorem State.setTask_mgmt (s : State) (n : Nat) (x : Task) : (s.setTask n x).mgmt = s.mgmt := rfl
@[simp] theorem State.setTask_answers (s : State) (n : Nat) (x : Task) : (s.setTask n x).answers = s.answers := rfl
@[simp] theorem State.setTask_irqs (s : State) (n : Nat) (x : Task) : (s.setTask n x).irqs = s.irqs := rfl
@[simp] theorem State.setTeam_cur (s : State) (n : Nat) (x : Team) : (s.setTeam n x).cur = s.cur := rfl
@[simp] theorem State.setTeam_phase (s : State) (n : Nat) (x : Team) : (s.setTeam n x).phase = s.phase := rfl
@[simp] theorem State.setTeam_agenda (s : State) (n : Nat) (x : Team) : (s.setTeam n x).agenda = s.agenda := rfl
@[simp] theorem State.setTeam_freeCtr (s : State) (n : Nat) (x : Team) : (s.setTeam n x).freeCtr = s.freeCtr := rfl
@[simp] theorem State.setTeam_dcc (s : State) (n : Nat) (x : Team) : (s.setTeam n x).dcc = s.dcc := rfl
@[simp] theorem State.setTeam_slots (s : State) (n : Nat) (x : Team) : (s.setTeam n x).slots = s.slots := rfl
@[simp] theorem State.setTeam_tiles (s : State) (n : Nat) (x : Team) : (s.setTeam n x).tiles = s.tiles := rfl
@[simp] theorem State.setTeam_dies (s : State) (n : Nat) (x : Team) : (s.setTeam n x).dies = s.dies := rfl
@[simp] theorem State.setTeam_hbm (s : State) (n : Nat) (x : Team) : (s.setTeam n x).hbm = s.hbm := rfl
@[simp] theorem State.setTeam_stations (s : State) (n : Nat) (x : Team) : (s.setTeam n x).stations = s.stations := rfl
@[simp] theorem State.setTeam_mem (s : State) (n : Nat) (x : Team) : (s.setTeam n x).mem = s.mem := rfl
@[simp] theorem State.setTeam_used (s : State) (n : Nat) (x : Team) : (s.setTeam n x).used = s.used := rfl
@[simp] theorem State.setTeam_poison (s : State) (n : Nat) (x : Team) : (s.setTeam n x).poison = s.poison := rfl
@[simp] theorem State.setTeam_upsets (s : State) (n : Nat) (x : Team) : (s.setTeam n x).upsets = s.upsets := rfl
@[simp] theorem State.setTeam_sealed (s : State) (n : Nat) (x : Team) : (s.setTeam n x).sealed = s.sealed := rfl
@[simp] theorem State.setTeam_tab (s : State) (n : Nat) (x : Team) : (s.setTeam n x).tab = s.tab := rfl
@[simp] theorem State.setTeam_pend (s : State) (n : Nat) (x : Team) : (s.setTeam n x).pend = s.pend := rfl
@[simp] theorem State.setTeam_caches (s : State) (n : Nat) (x : Team) : (s.setTeam n x).caches = s.caches := rfl
@[simp] theorem State.setTeam_pkgRing (s : State) (n : Nat) (x : Team) : (s.setTeam n x).pkgRing = s.pkgRing := rfl
@[simp] theorem State.setTeam_regionUse (s : State) (n : Nat) (x : Team) : (s.setTeam n x).regionUse = s.regionUse := rfl
@[simp] theorem State.setTeam_counters (s : State) (n : Nat) (x : Team) : (s.setTeam n x).counters = s.counters := rfl
@[simp] theorem State.setTeam_ctrIssuer (s : State) (n : Nat) (x : Team) : (s.setTeam n x).ctrIssuer = s.ctrIssuer := rfl
@[simp] theorem State.setTeam_ctxEvents (s : State) (n : Nat) (x : Team) : (s.setTeam n x).ctxEvents = s.ctxEvents := rfl
@[simp] theorem State.setTeam_devEvents (s : State) (n : Nat) (x : Team) : (s.setTeam n x).devEvents = s.devEvents := rfl
@[simp] theorem State.setTeam_futures (s : State) (n : Nat) (x : Team) : (s.setTeam n x).futures = s.futures := rfl
@[simp] theorem State.setTeam_taskQ (s : State) (n : Nat) (x : Team) : (s.setTeam n x).taskQ = s.taskQ := rfl
@[simp] theorem State.setTeam_tasks (s : State) (n : Nat) (x : Team) : (s.setTeam n x).tasks = s.tasks := rfl
@[simp] theorem State.setTeam_csa (s : State) (n : Nat) (x : Team) : (s.setTeam n x).csa = s.csa := rfl
@[simp] theorem State.setTeam_launches (s : State) (n : Nat) (x : Team) : (s.setTeam n x).launches = s.launches := rfl
@[simp] theorem State.setTeam_qdata (s : State) (n : Nat) (x : Team) : (s.setTeam n x).qdata = s.qdata := rfl
@[simp] theorem State.setTeam_qActors (s : State) (n : Nat) (x : Team) : (s.setTeam n x).qActors = s.qActors := rfl
@[simp] theorem State.setTeam_qSwaps (s : State) (n : Nat) (x : Team) : (s.setTeam n x).qSwaps = s.qSwaps := rfl
@[simp] theorem State.setTeam_pieces (s : State) (n : Nat) (x : Team) : (s.setTeam n x).pieces = s.pieces := rfl
@[simp] theorem State.setTeam_partials (s : State) (n : Nat) (x : Team) : (s.setTeam n x).partials = s.partials := rfl
@[simp] theorem State.setTeam_sums (s : State) (n : Nat) (x : Team) : (s.setTeam n x).sums = s.sums := rfl
@[simp] theorem State.setTeam_portA (s : State) (n : Nat) (x : Team) : (s.setTeam n x).portA = s.portA := rfl
@[simp] theorem State.setTeam_portB (s : State) (n : Nat) (x : Team) : (s.setTeam n x).portB = s.portB := rfl
@[simp] theorem State.setTeam_tieLoser (s : State) (n : Nat) (x : Team) : (s.setTeam n x).tieLoser = s.tieLoser := rfl
@[simp] theorem State.setTeam_sems (s : State) (n : Nat) (x : Team) : (s.setTeam n x).sems = s.sems := rfl
@[simp] theorem State.setTeam_vfs (s : State) (n : Nat) (x : Team) : (s.setTeam n x).vfs = s.vfs := rfl
@[simp] theorem State.setTeam_hq (s : State) (n : Nat) (x : Team) : (s.setTeam n x).hq = s.hq := rfl
@[simp] theorem State.setTeam_models (s : State) (n : Nat) (x : Team) : (s.setTeam n x).models = s.models := rfl
@[simp] theorem State.setTeam_mgmt (s : State) (n : Nat) (x : Team) : (s.setTeam n x).mgmt = s.mgmt := rfl
@[simp] theorem State.setTeam_answers (s : State) (n : Nat) (x : Team) : (s.setTeam n x).answers = s.answers := rfl
@[simp] theorem State.setTeam_irqs (s : State) (n : Nat) (x : Team) : (s.setTeam n x).irqs = s.irqs := rfl
@[simp] theorem State.setCounter_cur (s : State) (c i : Nat) (w : Word) : (s.setCounter c i w).cur = s.cur := rfl
@[simp] theorem State.setCounter_phase (s : State) (c i : Nat) (w : Word) : (s.setCounter c i w).phase = s.phase := rfl
@[simp] theorem State.setCounter_agenda (s : State) (c i : Nat) (w : Word) : (s.setCounter c i w).agenda = s.agenda := rfl
@[simp] theorem State.setCounter_freeCtr (s : State) (c i : Nat) (w : Word) : (s.setCounter c i w).freeCtr = s.freeCtr := rfl
@[simp] theorem State.setCounter_dcc (s : State) (c i : Nat) (w : Word) : (s.setCounter c i w).dcc = s.dcc := rfl
@[simp] theorem State.setCounter_slots (s : State) (c i : Nat) (w : Word) : (s.setCounter c i w).slots = s.slots := rfl
@[simp] theorem State.setCounter_tiles (s : State) (c i : Nat) (w : Word) : (s.setCounter c i w).tiles = s.tiles := rfl
@[simp] theorem State.setCounter_dies (s : State) (c i : Nat) (w : Word) : (s.setCounter c i w).dies = s.dies := rfl
@[simp] theorem State.setCounter_hbm (s : State) (c i : Nat) (w : Word) : (s.setCounter c i w).hbm = s.hbm := rfl
@[simp] theorem State.setCounter_stations (s : State) (c i : Nat) (w : Word) : (s.setCounter c i w).stations = s.stations := rfl
@[simp] theorem State.setCounter_mem (s : State) (c i : Nat) (w : Word) : (s.setCounter c i w).mem = s.mem := rfl
@[simp] theorem State.setCounter_used (s : State) (c i : Nat) (w : Word) : (s.setCounter c i w).used = s.used := rfl
@[simp] theorem State.setCounter_poison (s : State) (c i : Nat) (w : Word) : (s.setCounter c i w).poison = s.poison := rfl
@[simp] theorem State.setCounter_upsets (s : State) (c i : Nat) (w : Word) : (s.setCounter c i w).upsets = s.upsets := rfl
@[simp] theorem State.setCounter_sealed (s : State) (c i : Nat) (w : Word) : (s.setCounter c i w).sealed = s.sealed := rfl
@[simp] theorem State.setCounter_tab (s : State) (c i : Nat) (w : Word) : (s.setCounter c i w).tab = s.tab := rfl
@[simp] theorem State.setCounter_pend (s : State) (c i : Nat) (w : Word) : (s.setCounter c i w).pend = s.pend := rfl
@[simp] theorem State.setCounter_caches (s : State) (c i : Nat) (w : Word) : (s.setCounter c i w).caches = s.caches := rfl
@[simp] theorem State.setCounter_pkgRing (s : State) (c i : Nat) (w : Word) : (s.setCounter c i w).pkgRing = s.pkgRing := rfl
@[simp] theorem State.setCounter_regionUse (s : State) (c i : Nat) (w : Word) : (s.setCounter c i w).regionUse = s.regionUse := rfl
@[simp] theorem State.setCounter_ctrIssuer (s : State) (c i : Nat) (w : Word) : (s.setCounter c i w).ctrIssuer = s.ctrIssuer := rfl
@[simp] theorem State.setCounter_ctxEvents (s : State) (c i : Nat) (w : Word) : (s.setCounter c i w).ctxEvents = s.ctxEvents := rfl
@[simp] theorem State.setCounter_devEvents (s : State) (c i : Nat) (w : Word) : (s.setCounter c i w).devEvents = s.devEvents := rfl
@[simp] theorem State.setCounter_futures (s : State) (c i : Nat) (w : Word) : (s.setCounter c i w).futures = s.futures := rfl
@[simp] theorem State.setCounter_taskQ (s : State) (c i : Nat) (w : Word) : (s.setCounter c i w).taskQ = s.taskQ := rfl
@[simp] theorem State.setCounter_tasks (s : State) (c i : Nat) (w : Word) : (s.setCounter c i w).tasks = s.tasks := rfl
@[simp] theorem State.setCounter_teams (s : State) (c i : Nat) (w : Word) : (s.setCounter c i w).teams = s.teams := rfl
@[simp] theorem State.setCounter_csa (s : State) (c i : Nat) (w : Word) : (s.setCounter c i w).csa = s.csa := rfl
@[simp] theorem State.setCounter_launches (s : State) (c i : Nat) (w : Word) : (s.setCounter c i w).launches = s.launches := rfl
@[simp] theorem State.setCounter_qdata (s : State) (c i : Nat) (w : Word) : (s.setCounter c i w).qdata = s.qdata := rfl
@[simp] theorem State.setCounter_qActors (s : State) (c i : Nat) (w : Word) : (s.setCounter c i w).qActors = s.qActors := rfl
@[simp] theorem State.setCounter_qSwaps (s : State) (c i : Nat) (w : Word) : (s.setCounter c i w).qSwaps = s.qSwaps := rfl
@[simp] theorem State.setCounter_pieces (s : State) (c i : Nat) (w : Word) : (s.setCounter c i w).pieces = s.pieces := rfl
@[simp] theorem State.setCounter_partials (s : State) (c i : Nat) (w : Word) : (s.setCounter c i w).partials = s.partials := rfl
@[simp] theorem State.setCounter_sums (s : State) (c i : Nat) (w : Word) : (s.setCounter c i w).sums = s.sums := rfl
@[simp] theorem State.setCounter_portA (s : State) (c i : Nat) (w : Word) : (s.setCounter c i w).portA = s.portA := rfl
@[simp] theorem State.setCounter_portB (s : State) (c i : Nat) (w : Word) : (s.setCounter c i w).portB = s.portB := rfl
@[simp] theorem State.setCounter_tieLoser (s : State) (c i : Nat) (w : Word) : (s.setCounter c i w).tieLoser = s.tieLoser := rfl
@[simp] theorem State.setCounter_sems (s : State) (c i : Nat) (w : Word) : (s.setCounter c i w).sems = s.sems := rfl
@[simp] theorem State.setCounter_vfs (s : State) (c i : Nat) (w : Word) : (s.setCounter c i w).vfs = s.vfs := rfl
@[simp] theorem State.setCounter_hq (s : State) (c i : Nat) (w : Word) : (s.setCounter c i w).hq = s.hq := rfl
@[simp] theorem State.setCounter_models (s : State) (c i : Nat) (w : Word) : (s.setCounter c i w).models = s.models := rfl
@[simp] theorem State.setCounter_mgmt (s : State) (c i : Nat) (w : Word) : (s.setCounter c i w).mgmt = s.mgmt := rfl
@[simp] theorem State.setCounter_answers (s : State) (c i : Nat) (w : Word) : (s.setCounter c i w).answers = s.answers := rfl
@[simp] theorem State.setCounter_irqs (s : State) (c i : Nat) (w : Word) : (s.setCounter c i w).irqs = s.irqs := rfl
@[simp] theorem State.setVf_cur (s : State) (n : Nat) (x : Vf) : (s.setVf n x).cur = s.cur := rfl
@[simp] theorem State.setVf_phase (s : State) (n : Nat) (x : Vf) : (s.setVf n x).phase = s.phase := rfl
@[simp] theorem State.setVf_agenda (s : State) (n : Nat) (x : Vf) : (s.setVf n x).agenda = s.agenda := rfl
@[simp] theorem State.setVf_freeCtr (s : State) (n : Nat) (x : Vf) : (s.setVf n x).freeCtr = s.freeCtr := rfl
@[simp] theorem State.setVf_dcc (s : State) (n : Nat) (x : Vf) : (s.setVf n x).dcc = s.dcc := rfl
@[simp] theorem State.setVf_slots (s : State) (n : Nat) (x : Vf) : (s.setVf n x).slots = s.slots := rfl
@[simp] theorem State.setVf_tiles (s : State) (n : Nat) (x : Vf) : (s.setVf n x).tiles = s.tiles := rfl
@[simp] theorem State.setVf_dies (s : State) (n : Nat) (x : Vf) : (s.setVf n x).dies = s.dies := rfl
@[simp] theorem State.setVf_hbm (s : State) (n : Nat) (x : Vf) : (s.setVf n x).hbm = s.hbm := rfl
@[simp] theorem State.setVf_stations (s : State) (n : Nat) (x : Vf) : (s.setVf n x).stations = s.stations := rfl
@[simp] theorem State.setVf_mem (s : State) (n : Nat) (x : Vf) : (s.setVf n x).mem = s.mem := rfl
@[simp] theorem State.setVf_used (s : State) (n : Nat) (x : Vf) : (s.setVf n x).used = s.used := rfl
@[simp] theorem State.setVf_poison (s : State) (n : Nat) (x : Vf) : (s.setVf n x).poison = s.poison := rfl
@[simp] theorem State.setVf_upsets (s : State) (n : Nat) (x : Vf) : (s.setVf n x).upsets = s.upsets := rfl
@[simp] theorem State.setVf_sealed (s : State) (n : Nat) (x : Vf) : (s.setVf n x).sealed = s.sealed := rfl
@[simp] theorem State.setVf_tab (s : State) (n : Nat) (x : Vf) : (s.setVf n x).tab = s.tab := rfl
@[simp] theorem State.setVf_pend (s : State) (n : Nat) (x : Vf) : (s.setVf n x).pend = s.pend := rfl
@[simp] theorem State.setVf_caches (s : State) (n : Nat) (x : Vf) : (s.setVf n x).caches = s.caches := rfl
@[simp] theorem State.setVf_pkgRing (s : State) (n : Nat) (x : Vf) : (s.setVf n x).pkgRing = s.pkgRing := rfl
@[simp] theorem State.setVf_regionUse (s : State) (n : Nat) (x : Vf) : (s.setVf n x).regionUse = s.regionUse := rfl
@[simp] theorem State.setVf_counters (s : State) (n : Nat) (x : Vf) : (s.setVf n x).counters = s.counters := rfl
@[simp] theorem State.setVf_ctrIssuer (s : State) (n : Nat) (x : Vf) : (s.setVf n x).ctrIssuer = s.ctrIssuer := rfl
@[simp] theorem State.setVf_ctxEvents (s : State) (n : Nat) (x : Vf) : (s.setVf n x).ctxEvents = s.ctxEvents := rfl
@[simp] theorem State.setVf_devEvents (s : State) (n : Nat) (x : Vf) : (s.setVf n x).devEvents = s.devEvents := rfl
@[simp] theorem State.setVf_futures (s : State) (n : Nat) (x : Vf) : (s.setVf n x).futures = s.futures := rfl
@[simp] theorem State.setVf_taskQ (s : State) (n : Nat) (x : Vf) : (s.setVf n x).taskQ = s.taskQ := rfl
@[simp] theorem State.setVf_tasks (s : State) (n : Nat) (x : Vf) : (s.setVf n x).tasks = s.tasks := rfl
@[simp] theorem State.setVf_teams (s : State) (n : Nat) (x : Vf) : (s.setVf n x).teams = s.teams := rfl
@[simp] theorem State.setVf_csa (s : State) (n : Nat) (x : Vf) : (s.setVf n x).csa = s.csa := rfl
@[simp] theorem State.setVf_launches (s : State) (n : Nat) (x : Vf) : (s.setVf n x).launches = s.launches := rfl
@[simp] theorem State.setVf_qdata (s : State) (n : Nat) (x : Vf) : (s.setVf n x).qdata = s.qdata := rfl
@[simp] theorem State.setVf_qActors (s : State) (n : Nat) (x : Vf) : (s.setVf n x).qActors = s.qActors := rfl
@[simp] theorem State.setVf_qSwaps (s : State) (n : Nat) (x : Vf) : (s.setVf n x).qSwaps = s.qSwaps := rfl
@[simp] theorem State.setVf_pieces (s : State) (n : Nat) (x : Vf) : (s.setVf n x).pieces = s.pieces := rfl
@[simp] theorem State.setVf_partials (s : State) (n : Nat) (x : Vf) : (s.setVf n x).partials = s.partials := rfl
@[simp] theorem State.setVf_sums (s : State) (n : Nat) (x : Vf) : (s.setVf n x).sums = s.sums := rfl
@[simp] theorem State.setVf_portA (s : State) (n : Nat) (x : Vf) : (s.setVf n x).portA = s.portA := rfl
@[simp] theorem State.setVf_portB (s : State) (n : Nat) (x : Vf) : (s.setVf n x).portB = s.portB := rfl
@[simp] theorem State.setVf_tieLoser (s : State) (n : Nat) (x : Vf) : (s.setVf n x).tieLoser = s.tieLoser := rfl
@[simp] theorem State.setVf_sems (s : State) (n : Nat) (x : Vf) : (s.setVf n x).sems = s.sems := rfl
@[simp] theorem State.setVf_hq (s : State) (n : Nat) (x : Vf) : (s.setVf n x).hq = s.hq := rfl
@[simp] theorem State.setVf_models (s : State) (n : Nat) (x : Vf) : (s.setVf n x).models = s.models := rfl
@[simp] theorem State.setVf_mgmt (s : State) (n : Nat) (x : Vf) : (s.setVf n x).mgmt = s.mgmt := rfl
@[simp] theorem State.setVf_answers (s : State) (n : Nat) (x : Vf) : (s.setVf n x).answers = s.answers := rfl
@[simp] theorem State.setVf_irqs (s : State) (n : Nat) (x : Vf) : (s.setVf n x).irqs = s.irqs := rfl
@[simp] theorem State.setHostQ_cur (s : State) (n : Nat) (x : HostQ) : (s.setHostQ n x).cur = s.cur := rfl
@[simp] theorem State.setHostQ_phase (s : State) (n : Nat) (x : HostQ) : (s.setHostQ n x).phase = s.phase := rfl
@[simp] theorem State.setHostQ_agenda (s : State) (n : Nat) (x : HostQ) : (s.setHostQ n x).agenda = s.agenda := rfl
@[simp] theorem State.setHostQ_freeCtr (s : State) (n : Nat) (x : HostQ) : (s.setHostQ n x).freeCtr = s.freeCtr := rfl
@[simp] theorem State.setHostQ_dcc (s : State) (n : Nat) (x : HostQ) : (s.setHostQ n x).dcc = s.dcc := rfl
@[simp] theorem State.setHostQ_slots (s : State) (n : Nat) (x : HostQ) : (s.setHostQ n x).slots = s.slots := rfl
@[simp] theorem State.setHostQ_tiles (s : State) (n : Nat) (x : HostQ) : (s.setHostQ n x).tiles = s.tiles := rfl
@[simp] theorem State.setHostQ_dies (s : State) (n : Nat) (x : HostQ) : (s.setHostQ n x).dies = s.dies := rfl
@[simp] theorem State.setHostQ_hbm (s : State) (n : Nat) (x : HostQ) : (s.setHostQ n x).hbm = s.hbm := rfl
@[simp] theorem State.setHostQ_stations (s : State) (n : Nat) (x : HostQ) : (s.setHostQ n x).stations = s.stations := rfl
@[simp] theorem State.setHostQ_mem (s : State) (n : Nat) (x : HostQ) : (s.setHostQ n x).mem = s.mem := rfl
@[simp] theorem State.setHostQ_used (s : State) (n : Nat) (x : HostQ) : (s.setHostQ n x).used = s.used := rfl
@[simp] theorem State.setHostQ_poison (s : State) (n : Nat) (x : HostQ) : (s.setHostQ n x).poison = s.poison := rfl
@[simp] theorem State.setHostQ_upsets (s : State) (n : Nat) (x : HostQ) : (s.setHostQ n x).upsets = s.upsets := rfl
@[simp] theorem State.setHostQ_sealed (s : State) (n : Nat) (x : HostQ) : (s.setHostQ n x).sealed = s.sealed := rfl
@[simp] theorem State.setHostQ_tab (s : State) (n : Nat) (x : HostQ) : (s.setHostQ n x).tab = s.tab := rfl
@[simp] theorem State.setHostQ_pend (s : State) (n : Nat) (x : HostQ) : (s.setHostQ n x).pend = s.pend := rfl
@[simp] theorem State.setHostQ_caches (s : State) (n : Nat) (x : HostQ) : (s.setHostQ n x).caches = s.caches := rfl
@[simp] theorem State.setHostQ_pkgRing (s : State) (n : Nat) (x : HostQ) : (s.setHostQ n x).pkgRing = s.pkgRing := rfl
@[simp] theorem State.setHostQ_regionUse (s : State) (n : Nat) (x : HostQ) : (s.setHostQ n x).regionUse = s.regionUse := rfl
@[simp] theorem State.setHostQ_counters (s : State) (n : Nat) (x : HostQ) : (s.setHostQ n x).counters = s.counters := rfl
@[simp] theorem State.setHostQ_ctrIssuer (s : State) (n : Nat) (x : HostQ) : (s.setHostQ n x).ctrIssuer = s.ctrIssuer := rfl
@[simp] theorem State.setHostQ_ctxEvents (s : State) (n : Nat) (x : HostQ) : (s.setHostQ n x).ctxEvents = s.ctxEvents := rfl
@[simp] theorem State.setHostQ_devEvents (s : State) (n : Nat) (x : HostQ) : (s.setHostQ n x).devEvents = s.devEvents := rfl
@[simp] theorem State.setHostQ_futures (s : State) (n : Nat) (x : HostQ) : (s.setHostQ n x).futures = s.futures := rfl
@[simp] theorem State.setHostQ_taskQ (s : State) (n : Nat) (x : HostQ) : (s.setHostQ n x).taskQ = s.taskQ := rfl
@[simp] theorem State.setHostQ_tasks (s : State) (n : Nat) (x : HostQ) : (s.setHostQ n x).tasks = s.tasks := rfl
@[simp] theorem State.setHostQ_teams (s : State) (n : Nat) (x : HostQ) : (s.setHostQ n x).teams = s.teams := rfl
@[simp] theorem State.setHostQ_csa (s : State) (n : Nat) (x : HostQ) : (s.setHostQ n x).csa = s.csa := rfl
@[simp] theorem State.setHostQ_launches (s : State) (n : Nat) (x : HostQ) : (s.setHostQ n x).launches = s.launches := rfl
@[simp] theorem State.setHostQ_qdata (s : State) (n : Nat) (x : HostQ) : (s.setHostQ n x).qdata = s.qdata := rfl
@[simp] theorem State.setHostQ_qActors (s : State) (n : Nat) (x : HostQ) : (s.setHostQ n x).qActors = s.qActors := rfl
@[simp] theorem State.setHostQ_qSwaps (s : State) (n : Nat) (x : HostQ) : (s.setHostQ n x).qSwaps = s.qSwaps := rfl
@[simp] theorem State.setHostQ_pieces (s : State) (n : Nat) (x : HostQ) : (s.setHostQ n x).pieces = s.pieces := rfl
@[simp] theorem State.setHostQ_partials (s : State) (n : Nat) (x : HostQ) : (s.setHostQ n x).partials = s.partials := rfl
@[simp] theorem State.setHostQ_sums (s : State) (n : Nat) (x : HostQ) : (s.setHostQ n x).sums = s.sums := rfl
@[simp] theorem State.setHostQ_portA (s : State) (n : Nat) (x : HostQ) : (s.setHostQ n x).portA = s.portA := rfl
@[simp] theorem State.setHostQ_portB (s : State) (n : Nat) (x : HostQ) : (s.setHostQ n x).portB = s.portB := rfl
@[simp] theorem State.setHostQ_tieLoser (s : State) (n : Nat) (x : HostQ) : (s.setHostQ n x).tieLoser = s.tieLoser := rfl
@[simp] theorem State.setHostQ_sems (s : State) (n : Nat) (x : HostQ) : (s.setHostQ n x).sems = s.sems := rfl
@[simp] theorem State.setHostQ_vfs (s : State) (n : Nat) (x : HostQ) : (s.setHostQ n x).vfs = s.vfs := rfl
@[simp] theorem State.setHostQ_models (s : State) (n : Nat) (x : HostQ) : (s.setHostQ n x).models = s.models := rfl
@[simp] theorem State.setHostQ_mgmt (s : State) (n : Nat) (x : HostQ) : (s.setHostQ n x).mgmt = s.mgmt := rfl
@[simp] theorem State.setHostQ_answers (s : State) (n : Nat) (x : HostQ) : (s.setHostQ n x).answers = s.answers := rfl
@[simp] theorem State.setHostQ_irqs (s : State) (n : Nat) (x : HostQ) : (s.setHostQ n x).irqs = s.irqs := rfl
@[simp] theorem State.setModel_cur (s : State) (n : Nat) (x : Model) : (s.setModel n x).cur = s.cur := rfl
@[simp] theorem State.setModel_phase (s : State) (n : Nat) (x : Model) : (s.setModel n x).phase = s.phase := rfl
@[simp] theorem State.setModel_agenda (s : State) (n : Nat) (x : Model) : (s.setModel n x).agenda = s.agenda := rfl
@[simp] theorem State.setModel_freeCtr (s : State) (n : Nat) (x : Model) : (s.setModel n x).freeCtr = s.freeCtr := rfl
@[simp] theorem State.setModel_dcc (s : State) (n : Nat) (x : Model) : (s.setModel n x).dcc = s.dcc := rfl
@[simp] theorem State.setModel_slots (s : State) (n : Nat) (x : Model) : (s.setModel n x).slots = s.slots := rfl
@[simp] theorem State.setModel_tiles (s : State) (n : Nat) (x : Model) : (s.setModel n x).tiles = s.tiles := rfl
@[simp] theorem State.setModel_dies (s : State) (n : Nat) (x : Model) : (s.setModel n x).dies = s.dies := rfl
@[simp] theorem State.setModel_hbm (s : State) (n : Nat) (x : Model) : (s.setModel n x).hbm = s.hbm := rfl
@[simp] theorem State.setModel_stations (s : State) (n : Nat) (x : Model) : (s.setModel n x).stations = s.stations := rfl
@[simp] theorem State.setModel_mem (s : State) (n : Nat) (x : Model) : (s.setModel n x).mem = s.mem := rfl
@[simp] theorem State.setModel_used (s : State) (n : Nat) (x : Model) : (s.setModel n x).used = s.used := rfl
@[simp] theorem State.setModel_poison (s : State) (n : Nat) (x : Model) : (s.setModel n x).poison = s.poison := rfl
@[simp] theorem State.setModel_upsets (s : State) (n : Nat) (x : Model) : (s.setModel n x).upsets = s.upsets := rfl
@[simp] theorem State.setModel_sealed (s : State) (n : Nat) (x : Model) : (s.setModel n x).sealed = s.sealed := rfl
@[simp] theorem State.setModel_tab (s : State) (n : Nat) (x : Model) : (s.setModel n x).tab = s.tab := rfl
@[simp] theorem State.setModel_pend (s : State) (n : Nat) (x : Model) : (s.setModel n x).pend = s.pend := rfl
@[simp] theorem State.setModel_caches (s : State) (n : Nat) (x : Model) : (s.setModel n x).caches = s.caches := rfl
@[simp] theorem State.setModel_pkgRing (s : State) (n : Nat) (x : Model) : (s.setModel n x).pkgRing = s.pkgRing := rfl
@[simp] theorem State.setModel_regionUse (s : State) (n : Nat) (x : Model) : (s.setModel n x).regionUse = s.regionUse := rfl
@[simp] theorem State.setModel_counters (s : State) (n : Nat) (x : Model) : (s.setModel n x).counters = s.counters := rfl
@[simp] theorem State.setModel_ctrIssuer (s : State) (n : Nat) (x : Model) : (s.setModel n x).ctrIssuer = s.ctrIssuer := rfl
@[simp] theorem State.setModel_ctxEvents (s : State) (n : Nat) (x : Model) : (s.setModel n x).ctxEvents = s.ctxEvents := rfl
@[simp] theorem State.setModel_devEvents (s : State) (n : Nat) (x : Model) : (s.setModel n x).devEvents = s.devEvents := rfl
@[simp] theorem State.setModel_futures (s : State) (n : Nat) (x : Model) : (s.setModel n x).futures = s.futures := rfl
@[simp] theorem State.setModel_taskQ (s : State) (n : Nat) (x : Model) : (s.setModel n x).taskQ = s.taskQ := rfl
@[simp] theorem State.setModel_tasks (s : State) (n : Nat) (x : Model) : (s.setModel n x).tasks = s.tasks := rfl
@[simp] theorem State.setModel_teams (s : State) (n : Nat) (x : Model) : (s.setModel n x).teams = s.teams := rfl
@[simp] theorem State.setModel_csa (s : State) (n : Nat) (x : Model) : (s.setModel n x).csa = s.csa := rfl
@[simp] theorem State.setModel_launches (s : State) (n : Nat) (x : Model) : (s.setModel n x).launches = s.launches := rfl
@[simp] theorem State.setModel_qdata (s : State) (n : Nat) (x : Model) : (s.setModel n x).qdata = s.qdata := rfl
@[simp] theorem State.setModel_qActors (s : State) (n : Nat) (x : Model) : (s.setModel n x).qActors = s.qActors := rfl
@[simp] theorem State.setModel_qSwaps (s : State) (n : Nat) (x : Model) : (s.setModel n x).qSwaps = s.qSwaps := rfl
@[simp] theorem State.setModel_pieces (s : State) (n : Nat) (x : Model) : (s.setModel n x).pieces = s.pieces := rfl
@[simp] theorem State.setModel_partials (s : State) (n : Nat) (x : Model) : (s.setModel n x).partials = s.partials := rfl
@[simp] theorem State.setModel_sums (s : State) (n : Nat) (x : Model) : (s.setModel n x).sums = s.sums := rfl
@[simp] theorem State.setModel_portA (s : State) (n : Nat) (x : Model) : (s.setModel n x).portA = s.portA := rfl
@[simp] theorem State.setModel_portB (s : State) (n : Nat) (x : Model) : (s.setModel n x).portB = s.portB := rfl
@[simp] theorem State.setModel_tieLoser (s : State) (n : Nat) (x : Model) : (s.setModel n x).tieLoser = s.tieLoser := rfl
@[simp] theorem State.setModel_sems (s : State) (n : Nat) (x : Model) : (s.setModel n x).sems = s.sems := rfl
@[simp] theorem State.setModel_vfs (s : State) (n : Nat) (x : Model) : (s.setModel n x).vfs = s.vfs := rfl
@[simp] theorem State.setModel_hq (s : State) (n : Nat) (x : Model) : (s.setModel n x).hq = s.hq := rfl
@[simp] theorem State.setModel_mgmt (s : State) (n : Nat) (x : Model) : (s.setModel n x).mgmt = s.mgmt := rfl
@[simp] theorem State.setModel_answers (s : State) (n : Nat) (x : Model) : (s.setModel n x).answers = s.answers := rfl
@[simp] theorem State.setModel_irqs (s : State) (n : Nat) (x : Model) : (s.setModel n x).irqs = s.irqs := rfl
@[simp] theorem State.upStack_cur (s : State) (k : Nat) (f : Stack → Stack) : (s.upStack k f).cur = s.cur := rfl
@[simp] theorem State.upStack_phase (s : State) (k : Nat) (f : Stack → Stack) : (s.upStack k f).phase = s.phase := rfl
@[simp] theorem State.upStack_agenda (s : State) (k : Nat) (f : Stack → Stack) : (s.upStack k f).agenda = s.agenda := rfl
@[simp] theorem State.upStack_freeCtr (s : State) (k : Nat) (f : Stack → Stack) : (s.upStack k f).freeCtr = s.freeCtr := rfl
@[simp] theorem State.upStack_dcc (s : State) (k : Nat) (f : Stack → Stack) : (s.upStack k f).dcc = s.dcc := rfl
@[simp] theorem State.upStack_slots (s : State) (k : Nat) (f : Stack → Stack) : (s.upStack k f).slots = s.slots := rfl
@[simp] theorem State.upStack_tiles (s : State) (k : Nat) (f : Stack → Stack) : (s.upStack k f).tiles = s.tiles := rfl
@[simp] theorem State.upStack_dies (s : State) (k : Nat) (f : Stack → Stack) : (s.upStack k f).dies = s.dies := rfl
@[simp] theorem State.upStack_stations (s : State) (k : Nat) (f : Stack → Stack) : (s.upStack k f).stations = s.stations := rfl
@[simp] theorem State.upStack_mem (s : State) (k : Nat) (f : Stack → Stack) : (s.upStack k f).mem = s.mem := rfl
@[simp] theorem State.upStack_used (s : State) (k : Nat) (f : Stack → Stack) : (s.upStack k f).used = s.used := rfl
@[simp] theorem State.upStack_poison (s : State) (k : Nat) (f : Stack → Stack) : (s.upStack k f).poison = s.poison := rfl
@[simp] theorem State.upStack_upsets (s : State) (k : Nat) (f : Stack → Stack) : (s.upStack k f).upsets = s.upsets := rfl
@[simp] theorem State.upStack_sealed (s : State) (k : Nat) (f : Stack → Stack) : (s.upStack k f).sealed = s.sealed := rfl
@[simp] theorem State.upStack_tab (s : State) (k : Nat) (f : Stack → Stack) : (s.upStack k f).tab = s.tab := rfl
@[simp] theorem State.upStack_pend (s : State) (k : Nat) (f : Stack → Stack) : (s.upStack k f).pend = s.pend := rfl
@[simp] theorem State.upStack_caches (s : State) (k : Nat) (f : Stack → Stack) : (s.upStack k f).caches = s.caches := rfl
@[simp] theorem State.upStack_pkgRing (s : State) (k : Nat) (f : Stack → Stack) : (s.upStack k f).pkgRing = s.pkgRing := rfl
@[simp] theorem State.upStack_regionUse (s : State) (k : Nat) (f : Stack → Stack) : (s.upStack k f).regionUse = s.regionUse := rfl
@[simp] theorem State.upStack_counters (s : State) (k : Nat) (f : Stack → Stack) : (s.upStack k f).counters = s.counters := rfl
@[simp] theorem State.upStack_ctrIssuer (s : State) (k : Nat) (f : Stack → Stack) : (s.upStack k f).ctrIssuer = s.ctrIssuer := rfl
@[simp] theorem State.upStack_ctxEvents (s : State) (k : Nat) (f : Stack → Stack) : (s.upStack k f).ctxEvents = s.ctxEvents := rfl
@[simp] theorem State.upStack_devEvents (s : State) (k : Nat) (f : Stack → Stack) : (s.upStack k f).devEvents = s.devEvents := rfl
@[simp] theorem State.upStack_futures (s : State) (k : Nat) (f : Stack → Stack) : (s.upStack k f).futures = s.futures := rfl
@[simp] theorem State.upStack_taskQ (s : State) (k : Nat) (f : Stack → Stack) : (s.upStack k f).taskQ = s.taskQ := rfl
@[simp] theorem State.upStack_tasks (s : State) (k : Nat) (f : Stack → Stack) : (s.upStack k f).tasks = s.tasks := rfl
@[simp] theorem State.upStack_teams (s : State) (k : Nat) (f : Stack → Stack) : (s.upStack k f).teams = s.teams := rfl
@[simp] theorem State.upStack_csa (s : State) (k : Nat) (f : Stack → Stack) : (s.upStack k f).csa = s.csa := rfl
@[simp] theorem State.upStack_launches (s : State) (k : Nat) (f : Stack → Stack) : (s.upStack k f).launches = s.launches := rfl
@[simp] theorem State.upStack_qdata (s : State) (k : Nat) (f : Stack → Stack) : (s.upStack k f).qdata = s.qdata := rfl
@[simp] theorem State.upStack_qActors (s : State) (k : Nat) (f : Stack → Stack) : (s.upStack k f).qActors = s.qActors := rfl
@[simp] theorem State.upStack_qSwaps (s : State) (k : Nat) (f : Stack → Stack) : (s.upStack k f).qSwaps = s.qSwaps := rfl
@[simp] theorem State.upStack_pieces (s : State) (k : Nat) (f : Stack → Stack) : (s.upStack k f).pieces = s.pieces := rfl
@[simp] theorem State.upStack_partials (s : State) (k : Nat) (f : Stack → Stack) : (s.upStack k f).partials = s.partials := rfl
@[simp] theorem State.upStack_sums (s : State) (k : Nat) (f : Stack → Stack) : (s.upStack k f).sums = s.sums := rfl
@[simp] theorem State.upStack_portA (s : State) (k : Nat) (f : Stack → Stack) : (s.upStack k f).portA = s.portA := rfl
@[simp] theorem State.upStack_portB (s : State) (k : Nat) (f : Stack → Stack) : (s.upStack k f).portB = s.portB := rfl
@[simp] theorem State.upStack_tieLoser (s : State) (k : Nat) (f : Stack → Stack) : (s.upStack k f).tieLoser = s.tieLoser := rfl
@[simp] theorem State.upStack_sems (s : State) (k : Nat) (f : Stack → Stack) : (s.upStack k f).sems = s.sems := rfl
@[simp] theorem State.upStack_vfs (s : State) (k : Nat) (f : Stack → Stack) : (s.upStack k f).vfs = s.vfs := rfl
@[simp] theorem State.upStack_hq (s : State) (k : Nat) (f : Stack → Stack) : (s.upStack k f).hq = s.hq := rfl
@[simp] theorem State.upStack_models (s : State) (k : Nat) (f : Stack → Stack) : (s.upStack k f).models = s.models := rfl
@[simp] theorem State.upStack_mgmt (s : State) (k : Nat) (f : Stack → Stack) : (s.upStack k f).mgmt = s.mgmt := rfl
@[simp] theorem State.upStack_answers (s : State) (k : Nat) (f : Stack → Stack) : (s.upStack k f).answers = s.answers := rfl
@[simp] theorem State.upStack_irqs (s : State) (k : Nat) (f : Stack → Stack) : (s.upStack k f).irqs = s.irqs := rfl
@[simp] theorem State.upStation_cur (s : State) (k : Nat) (f : Station → Station) : (s.upStation k f).cur = s.cur := rfl
@[simp] theorem State.upStation_phase (s : State) (k : Nat) (f : Station → Station) : (s.upStation k f).phase = s.phase := rfl
@[simp] theorem State.upStation_agenda (s : State) (k : Nat) (f : Station → Station) : (s.upStation k f).agenda = s.agenda := rfl
@[simp] theorem State.upStation_freeCtr (s : State) (k : Nat) (f : Station → Station) : (s.upStation k f).freeCtr = s.freeCtr := rfl
@[simp] theorem State.upStation_dcc (s : State) (k : Nat) (f : Station → Station) : (s.upStation k f).dcc = s.dcc := rfl
@[simp] theorem State.upStation_slots (s : State) (k : Nat) (f : Station → Station) : (s.upStation k f).slots = s.slots := rfl
@[simp] theorem State.upStation_tiles (s : State) (k : Nat) (f : Station → Station) : (s.upStation k f).tiles = s.tiles := rfl
@[simp] theorem State.upStation_dies (s : State) (k : Nat) (f : Station → Station) : (s.upStation k f).dies = s.dies := rfl
@[simp] theorem State.upStation_hbm (s : State) (k : Nat) (f : Station → Station) : (s.upStation k f).hbm = s.hbm := rfl
@[simp] theorem State.upStation_mem (s : State) (k : Nat) (f : Station → Station) : (s.upStation k f).mem = s.mem := rfl
@[simp] theorem State.upStation_used (s : State) (k : Nat) (f : Station → Station) : (s.upStation k f).used = s.used := rfl
@[simp] theorem State.upStation_poison (s : State) (k : Nat) (f : Station → Station) : (s.upStation k f).poison = s.poison := rfl
@[simp] theorem State.upStation_upsets (s : State) (k : Nat) (f : Station → Station) : (s.upStation k f).upsets = s.upsets := rfl
@[simp] theorem State.upStation_sealed (s : State) (k : Nat) (f : Station → Station) : (s.upStation k f).sealed = s.sealed := rfl
@[simp] theorem State.upStation_tab (s : State) (k : Nat) (f : Station → Station) : (s.upStation k f).tab = s.tab := rfl
@[simp] theorem State.upStation_pend (s : State) (k : Nat) (f : Station → Station) : (s.upStation k f).pend = s.pend := rfl
@[simp] theorem State.upStation_caches (s : State) (k : Nat) (f : Station → Station) : (s.upStation k f).caches = s.caches := rfl
@[simp] theorem State.upStation_pkgRing (s : State) (k : Nat) (f : Station → Station) : (s.upStation k f).pkgRing = s.pkgRing := rfl
@[simp] theorem State.upStation_regionUse (s : State) (k : Nat) (f : Station → Station) : (s.upStation k f).regionUse = s.regionUse := rfl
@[simp] theorem State.upStation_counters (s : State) (k : Nat) (f : Station → Station) : (s.upStation k f).counters = s.counters := rfl
@[simp] theorem State.upStation_ctrIssuer (s : State) (k : Nat) (f : Station → Station) : (s.upStation k f).ctrIssuer = s.ctrIssuer := rfl
@[simp] theorem State.upStation_ctxEvents (s : State) (k : Nat) (f : Station → Station) : (s.upStation k f).ctxEvents = s.ctxEvents := rfl
@[simp] theorem State.upStation_devEvents (s : State) (k : Nat) (f : Station → Station) : (s.upStation k f).devEvents = s.devEvents := rfl
@[simp] theorem State.upStation_futures (s : State) (k : Nat) (f : Station → Station) : (s.upStation k f).futures = s.futures := rfl
@[simp] theorem State.upStation_taskQ (s : State) (k : Nat) (f : Station → Station) : (s.upStation k f).taskQ = s.taskQ := rfl
@[simp] theorem State.upStation_tasks (s : State) (k : Nat) (f : Station → Station) : (s.upStation k f).tasks = s.tasks := rfl
@[simp] theorem State.upStation_teams (s : State) (k : Nat) (f : Station → Station) : (s.upStation k f).teams = s.teams := rfl
@[simp] theorem State.upStation_csa (s : State) (k : Nat) (f : Station → Station) : (s.upStation k f).csa = s.csa := rfl
@[simp] theorem State.upStation_launches (s : State) (k : Nat) (f : Station → Station) : (s.upStation k f).launches = s.launches := rfl
@[simp] theorem State.upStation_qdata (s : State) (k : Nat) (f : Station → Station) : (s.upStation k f).qdata = s.qdata := rfl
@[simp] theorem State.upStation_qActors (s : State) (k : Nat) (f : Station → Station) : (s.upStation k f).qActors = s.qActors := rfl
@[simp] theorem State.upStation_qSwaps (s : State) (k : Nat) (f : Station → Station) : (s.upStation k f).qSwaps = s.qSwaps := rfl
@[simp] theorem State.upStation_pieces (s : State) (k : Nat) (f : Station → Station) : (s.upStation k f).pieces = s.pieces := rfl
@[simp] theorem State.upStation_partials (s : State) (k : Nat) (f : Station → Station) : (s.upStation k f).partials = s.partials := rfl
@[simp] theorem State.upStation_sums (s : State) (k : Nat) (f : Station → Station) : (s.upStation k f).sums = s.sums := rfl
@[simp] theorem State.upStation_portA (s : State) (k : Nat) (f : Station → Station) : (s.upStation k f).portA = s.portA := rfl
@[simp] theorem State.upStation_portB (s : State) (k : Nat) (f : Station → Station) : (s.upStation k f).portB = s.portB := rfl
@[simp] theorem State.upStation_tieLoser (s : State) (k : Nat) (f : Station → Station) : (s.upStation k f).tieLoser = s.tieLoser := rfl
@[simp] theorem State.upStation_sems (s : State) (k : Nat) (f : Station → Station) : (s.upStation k f).sems = s.sems := rfl
@[simp] theorem State.upStation_vfs (s : State) (k : Nat) (f : Station → Station) : (s.upStation k f).vfs = s.vfs := rfl
@[simp] theorem State.upStation_hq (s : State) (k : Nat) (f : Station → Station) : (s.upStation k f).hq = s.hq := rfl
@[simp] theorem State.upStation_models (s : State) (k : Nat) (f : Station → Station) : (s.upStation k f).models = s.models := rfl
@[simp] theorem State.upStation_mgmt (s : State) (k : Nat) (f : Station → Station) : (s.upStation k f).mgmt = s.mgmt := rfl
@[simp] theorem State.upStation_answers (s : State) (k : Nat) (f : Station → Station) : (s.upStation k f).answers = s.answers := rfl
@[simp] theorem State.upStation_irqs (s : State) (k : Nat) (f : Station → Station) : (s.upStation k f).irqs = s.irqs := rfl
@[simp] theorem State.upVf_cur (s : State) (k : Nat) (f : Vf → Vf) : (s.upVf k f).cur = s.cur := rfl
@[simp] theorem State.upVf_phase (s : State) (k : Nat) (f : Vf → Vf) : (s.upVf k f).phase = s.phase := rfl
@[simp] theorem State.upVf_agenda (s : State) (k : Nat) (f : Vf → Vf) : (s.upVf k f).agenda = s.agenda := rfl
@[simp] theorem State.upVf_freeCtr (s : State) (k : Nat) (f : Vf → Vf) : (s.upVf k f).freeCtr = s.freeCtr := rfl
@[simp] theorem State.upVf_dcc (s : State) (k : Nat) (f : Vf → Vf) : (s.upVf k f).dcc = s.dcc := rfl
@[simp] theorem State.upVf_slots (s : State) (k : Nat) (f : Vf → Vf) : (s.upVf k f).slots = s.slots := rfl
@[simp] theorem State.upVf_tiles (s : State) (k : Nat) (f : Vf → Vf) : (s.upVf k f).tiles = s.tiles := rfl
@[simp] theorem State.upVf_dies (s : State) (k : Nat) (f : Vf → Vf) : (s.upVf k f).dies = s.dies := rfl
@[simp] theorem State.upVf_hbm (s : State) (k : Nat) (f : Vf → Vf) : (s.upVf k f).hbm = s.hbm := rfl
@[simp] theorem State.upVf_stations (s : State) (k : Nat) (f : Vf → Vf) : (s.upVf k f).stations = s.stations := rfl
@[simp] theorem State.upVf_mem (s : State) (k : Nat) (f : Vf → Vf) : (s.upVf k f).mem = s.mem := rfl
@[simp] theorem State.upVf_used (s : State) (k : Nat) (f : Vf → Vf) : (s.upVf k f).used = s.used := rfl
@[simp] theorem State.upVf_poison (s : State) (k : Nat) (f : Vf → Vf) : (s.upVf k f).poison = s.poison := rfl
@[simp] theorem State.upVf_upsets (s : State) (k : Nat) (f : Vf → Vf) : (s.upVf k f).upsets = s.upsets := rfl
@[simp] theorem State.upVf_sealed (s : State) (k : Nat) (f : Vf → Vf) : (s.upVf k f).sealed = s.sealed := rfl
@[simp] theorem State.upVf_tab (s : State) (k : Nat) (f : Vf → Vf) : (s.upVf k f).tab = s.tab := rfl
@[simp] theorem State.upVf_pend (s : State) (k : Nat) (f : Vf → Vf) : (s.upVf k f).pend = s.pend := rfl
@[simp] theorem State.upVf_caches (s : State) (k : Nat) (f : Vf → Vf) : (s.upVf k f).caches = s.caches := rfl
@[simp] theorem State.upVf_pkgRing (s : State) (k : Nat) (f : Vf → Vf) : (s.upVf k f).pkgRing = s.pkgRing := rfl
@[simp] theorem State.upVf_regionUse (s : State) (k : Nat) (f : Vf → Vf) : (s.upVf k f).regionUse = s.regionUse := rfl
@[simp] theorem State.upVf_counters (s : State) (k : Nat) (f : Vf → Vf) : (s.upVf k f).counters = s.counters := rfl
@[simp] theorem State.upVf_ctrIssuer (s : State) (k : Nat) (f : Vf → Vf) : (s.upVf k f).ctrIssuer = s.ctrIssuer := rfl
@[simp] theorem State.upVf_ctxEvents (s : State) (k : Nat) (f : Vf → Vf) : (s.upVf k f).ctxEvents = s.ctxEvents := rfl
@[simp] theorem State.upVf_devEvents (s : State) (k : Nat) (f : Vf → Vf) : (s.upVf k f).devEvents = s.devEvents := rfl
@[simp] theorem State.upVf_futures (s : State) (k : Nat) (f : Vf → Vf) : (s.upVf k f).futures = s.futures := rfl
@[simp] theorem State.upVf_taskQ (s : State) (k : Nat) (f : Vf → Vf) : (s.upVf k f).taskQ = s.taskQ := rfl
@[simp] theorem State.upVf_tasks (s : State) (k : Nat) (f : Vf → Vf) : (s.upVf k f).tasks = s.tasks := rfl
@[simp] theorem State.upVf_teams (s : State) (k : Nat) (f : Vf → Vf) : (s.upVf k f).teams = s.teams := rfl
@[simp] theorem State.upVf_csa (s : State) (k : Nat) (f : Vf → Vf) : (s.upVf k f).csa = s.csa := rfl
@[simp] theorem State.upVf_launches (s : State) (k : Nat) (f : Vf → Vf) : (s.upVf k f).launches = s.launches := rfl
@[simp] theorem State.upVf_qdata (s : State) (k : Nat) (f : Vf → Vf) : (s.upVf k f).qdata = s.qdata := rfl
@[simp] theorem State.upVf_qActors (s : State) (k : Nat) (f : Vf → Vf) : (s.upVf k f).qActors = s.qActors := rfl
@[simp] theorem State.upVf_qSwaps (s : State) (k : Nat) (f : Vf → Vf) : (s.upVf k f).qSwaps = s.qSwaps := rfl
@[simp] theorem State.upVf_pieces (s : State) (k : Nat) (f : Vf → Vf) : (s.upVf k f).pieces = s.pieces := rfl
@[simp] theorem State.upVf_partials (s : State) (k : Nat) (f : Vf → Vf) : (s.upVf k f).partials = s.partials := rfl
@[simp] theorem State.upVf_sums (s : State) (k : Nat) (f : Vf → Vf) : (s.upVf k f).sums = s.sums := rfl
@[simp] theorem State.upVf_portA (s : State) (k : Nat) (f : Vf → Vf) : (s.upVf k f).portA = s.portA := rfl
@[simp] theorem State.upVf_portB (s : State) (k : Nat) (f : Vf → Vf) : (s.upVf k f).portB = s.portB := rfl
@[simp] theorem State.upVf_tieLoser (s : State) (k : Nat) (f : Vf → Vf) : (s.upVf k f).tieLoser = s.tieLoser := rfl
@[simp] theorem State.upVf_sems (s : State) (k : Nat) (f : Vf → Vf) : (s.upVf k f).sems = s.sems := rfl
@[simp] theorem State.upVf_hq (s : State) (k : Nat) (f : Vf → Vf) : (s.upVf k f).hq = s.hq := rfl
@[simp] theorem State.upVf_models (s : State) (k : Nat) (f : Vf → Vf) : (s.upVf k f).models = s.models := rfl
@[simp] theorem State.upVf_mgmt (s : State) (k : Nat) (f : Vf → Vf) : (s.upVf k f).mgmt = s.mgmt := rfl
@[simp] theorem State.upVf_answers (s : State) (k : Nat) (f : Vf → Vf) : (s.upVf k f).answers = s.answers := rfl
@[simp] theorem State.upVf_irqs (s : State) (k : Nat) (f : Vf → Vf) : (s.upVf k f).irqs = s.irqs := rfl
@[simp] theorem State.upHostQ_cur (s : State) (k : Nat) (f : HostQ → HostQ) : (s.upHostQ k f).cur = s.cur := rfl
@[simp] theorem State.upHostQ_phase (s : State) (k : Nat) (f : HostQ → HostQ) : (s.upHostQ k f).phase = s.phase := rfl
@[simp] theorem State.upHostQ_agenda (s : State) (k : Nat) (f : HostQ → HostQ) : (s.upHostQ k f).agenda = s.agenda := rfl
@[simp] theorem State.upHostQ_freeCtr (s : State) (k : Nat) (f : HostQ → HostQ) : (s.upHostQ k f).freeCtr = s.freeCtr := rfl
@[simp] theorem State.upHostQ_dcc (s : State) (k : Nat) (f : HostQ → HostQ) : (s.upHostQ k f).dcc = s.dcc := rfl
@[simp] theorem State.upHostQ_slots (s : State) (k : Nat) (f : HostQ → HostQ) : (s.upHostQ k f).slots = s.slots := rfl
@[simp] theorem State.upHostQ_tiles (s : State) (k : Nat) (f : HostQ → HostQ) : (s.upHostQ k f).tiles = s.tiles := rfl
@[simp] theorem State.upHostQ_dies (s : State) (k : Nat) (f : HostQ → HostQ) : (s.upHostQ k f).dies = s.dies := rfl
@[simp] theorem State.upHostQ_hbm (s : State) (k : Nat) (f : HostQ → HostQ) : (s.upHostQ k f).hbm = s.hbm := rfl
@[simp] theorem State.upHostQ_stations (s : State) (k : Nat) (f : HostQ → HostQ) : (s.upHostQ k f).stations = s.stations := rfl
@[simp] theorem State.upHostQ_mem (s : State) (k : Nat) (f : HostQ → HostQ) : (s.upHostQ k f).mem = s.mem := rfl
@[simp] theorem State.upHostQ_used (s : State) (k : Nat) (f : HostQ → HostQ) : (s.upHostQ k f).used = s.used := rfl
@[simp] theorem State.upHostQ_poison (s : State) (k : Nat) (f : HostQ → HostQ) : (s.upHostQ k f).poison = s.poison := rfl
@[simp] theorem State.upHostQ_upsets (s : State) (k : Nat) (f : HostQ → HostQ) : (s.upHostQ k f).upsets = s.upsets := rfl
@[simp] theorem State.upHostQ_sealed (s : State) (k : Nat) (f : HostQ → HostQ) : (s.upHostQ k f).sealed = s.sealed := rfl
@[simp] theorem State.upHostQ_tab (s : State) (k : Nat) (f : HostQ → HostQ) : (s.upHostQ k f).tab = s.tab := rfl
@[simp] theorem State.upHostQ_pend (s : State) (k : Nat) (f : HostQ → HostQ) : (s.upHostQ k f).pend = s.pend := rfl
@[simp] theorem State.upHostQ_caches (s : State) (k : Nat) (f : HostQ → HostQ) : (s.upHostQ k f).caches = s.caches := rfl
@[simp] theorem State.upHostQ_pkgRing (s : State) (k : Nat) (f : HostQ → HostQ) : (s.upHostQ k f).pkgRing = s.pkgRing := rfl
@[simp] theorem State.upHostQ_regionUse (s : State) (k : Nat) (f : HostQ → HostQ) : (s.upHostQ k f).regionUse = s.regionUse := rfl
@[simp] theorem State.upHostQ_counters (s : State) (k : Nat) (f : HostQ → HostQ) : (s.upHostQ k f).counters = s.counters := rfl
@[simp] theorem State.upHostQ_ctrIssuer (s : State) (k : Nat) (f : HostQ → HostQ) : (s.upHostQ k f).ctrIssuer = s.ctrIssuer := rfl
@[simp] theorem State.upHostQ_ctxEvents (s : State) (k : Nat) (f : HostQ → HostQ) : (s.upHostQ k f).ctxEvents = s.ctxEvents := rfl
@[simp] theorem State.upHostQ_devEvents (s : State) (k : Nat) (f : HostQ → HostQ) : (s.upHostQ k f).devEvents = s.devEvents := rfl
@[simp] theorem State.upHostQ_futures (s : State) (k : Nat) (f : HostQ → HostQ) : (s.upHostQ k f).futures = s.futures := rfl
@[simp] theorem State.upHostQ_taskQ (s : State) (k : Nat) (f : HostQ → HostQ) : (s.upHostQ k f).taskQ = s.taskQ := rfl
@[simp] theorem State.upHostQ_tasks (s : State) (k : Nat) (f : HostQ → HostQ) : (s.upHostQ k f).tasks = s.tasks := rfl
@[simp] theorem State.upHostQ_teams (s : State) (k : Nat) (f : HostQ → HostQ) : (s.upHostQ k f).teams = s.teams := rfl
@[simp] theorem State.upHostQ_csa (s : State) (k : Nat) (f : HostQ → HostQ) : (s.upHostQ k f).csa = s.csa := rfl
@[simp] theorem State.upHostQ_launches (s : State) (k : Nat) (f : HostQ → HostQ) : (s.upHostQ k f).launches = s.launches := rfl
@[simp] theorem State.upHostQ_qdata (s : State) (k : Nat) (f : HostQ → HostQ) : (s.upHostQ k f).qdata = s.qdata := rfl
@[simp] theorem State.upHostQ_qActors (s : State) (k : Nat) (f : HostQ → HostQ) : (s.upHostQ k f).qActors = s.qActors := rfl
@[simp] theorem State.upHostQ_qSwaps (s : State) (k : Nat) (f : HostQ → HostQ) : (s.upHostQ k f).qSwaps = s.qSwaps := rfl
@[simp] theorem State.upHostQ_pieces (s : State) (k : Nat) (f : HostQ → HostQ) : (s.upHostQ k f).pieces = s.pieces := rfl
@[simp] theorem State.upHostQ_partials (s : State) (k : Nat) (f : HostQ → HostQ) : (s.upHostQ k f).partials = s.partials := rfl
@[simp] theorem State.upHostQ_sums (s : State) (k : Nat) (f : HostQ → HostQ) : (s.upHostQ k f).sums = s.sums := rfl
@[simp] theorem State.upHostQ_portA (s : State) (k : Nat) (f : HostQ → HostQ) : (s.upHostQ k f).portA = s.portA := rfl
@[simp] theorem State.upHostQ_portB (s : State) (k : Nat) (f : HostQ → HostQ) : (s.upHostQ k f).portB = s.portB := rfl
@[simp] theorem State.upHostQ_tieLoser (s : State) (k : Nat) (f : HostQ → HostQ) : (s.upHostQ k f).tieLoser = s.tieLoser := rfl
@[simp] theorem State.upHostQ_sems (s : State) (k : Nat) (f : HostQ → HostQ) : (s.upHostQ k f).sems = s.sems := rfl
@[simp] theorem State.upHostQ_vfs (s : State) (k : Nat) (f : HostQ → HostQ) : (s.upHostQ k f).vfs = s.vfs := rfl
@[simp] theorem State.upHostQ_models (s : State) (k : Nat) (f : HostQ → HostQ) : (s.upHostQ k f).models = s.models := rfl
@[simp] theorem State.upHostQ_mgmt (s : State) (k : Nat) (f : HostQ → HostQ) : (s.upHostQ k f).mgmt = s.mgmt := rfl
@[simp] theorem State.upHostQ_answers (s : State) (k : Nat) (f : HostQ → HostQ) : (s.upHostQ k f).answers = s.answers := rfl
@[simp] theorem State.upHostQ_irqs (s : State) (k : Nat) (f : HostQ → HostQ) : (s.upHostQ k f).irqs = s.irqs := rfl

/-! ### Updates that write bytes -/

/-- A count of steps that each keep a projection keeps it. -/
theorem upTo_keeps {α β : Type} (g : α → β) {f : Nat → α → α} (h : ∀ i x, g (f i x) = g x) (n : Nat) (x : α) :
    g (upTo n f x) = g x := by
  induction n generalizing x with
  | zero => rfl
  | succ n ih => simp [upTo, h, ih]

@[simp] theorem State.open__cur (s : State) (k : Nat) : (s.open_ k).cur = s.cur := by unfold State.open_; split <;> rfl
@[simp] theorem State.open__phase (s : State) (k : Nat) : (s.open_ k).phase = s.phase := by unfold State.open_; split <;> rfl
@[simp] theorem State.open__agenda (s : State) (k : Nat) : (s.open_ k).agenda = s.agenda := by unfold State.open_; split <;> rfl
@[simp] theorem State.open__freeCtr (s : State) (k : Nat) : (s.open_ k).freeCtr = s.freeCtr := by unfold State.open_; split <;> rfl
@[simp] theorem State.open__dcc (s : State) (k : Nat) : (s.open_ k).dcc = s.dcc := by unfold State.open_; split <;> rfl
@[simp] theorem State.open__slots (s : State) (k : Nat) : (s.open_ k).slots = s.slots := by unfold State.open_; split <;> rfl
@[simp] theorem State.open__tiles (s : State) (k : Nat) : (s.open_ k).tiles = s.tiles := by unfold State.open_; split <;> rfl
@[simp] theorem State.open__dies (s : State) (k : Nat) : (s.open_ k).dies = s.dies := by unfold State.open_; split <;> rfl
@[simp] theorem State.open__hbm (s : State) (k : Nat) : (s.open_ k).hbm = s.hbm := by unfold State.open_; split <;> rfl
@[simp] theorem State.open__stations (s : State) (k : Nat) : (s.open_ k).stations = s.stations := by unfold State.open_; split <;> rfl
@[simp] theorem State.open__pend (s : State) (k : Nat) : (s.open_ k).pend = s.pend := by unfold State.open_; split <;> rfl
@[simp] theorem State.open__caches (s : State) (k : Nat) : (s.open_ k).caches = s.caches := by unfold State.open_; split <;> rfl
@[simp] theorem State.open__pkgRing (s : State) (k : Nat) : (s.open_ k).pkgRing = s.pkgRing := by unfold State.open_; split <;> rfl
@[simp] theorem State.open__regionUse (s : State) (k : Nat) : (s.open_ k).regionUse = s.regionUse := by unfold State.open_; split <;> rfl
@[simp] theorem State.open__counters (s : State) (k : Nat) : (s.open_ k).counters = s.counters := by unfold State.open_; split <;> rfl
@[simp] theorem State.open__ctrIssuer (s : State) (k : Nat) : (s.open_ k).ctrIssuer = s.ctrIssuer := by unfold State.open_; split <;> rfl
@[simp] theorem State.open__ctxEvents (s : State) (k : Nat) : (s.open_ k).ctxEvents = s.ctxEvents := by unfold State.open_; split <;> rfl
@[simp] theorem State.open__devEvents (s : State) (k : Nat) : (s.open_ k).devEvents = s.devEvents := by unfold State.open_; split <;> rfl
@[simp] theorem State.open__futures (s : State) (k : Nat) : (s.open_ k).futures = s.futures := by unfold State.open_; split <;> rfl
@[simp] theorem State.open__taskQ (s : State) (k : Nat) : (s.open_ k).taskQ = s.taskQ := by unfold State.open_; split <;> rfl
@[simp] theorem State.open__tasks (s : State) (k : Nat) : (s.open_ k).tasks = s.tasks := by unfold State.open_; split <;> rfl
@[simp] theorem State.open__teams (s : State) (k : Nat) : (s.open_ k).teams = s.teams := by unfold State.open_; split <;> rfl
@[simp] theorem State.open__csa (s : State) (k : Nat) : (s.open_ k).csa = s.csa := by unfold State.open_; split <;> rfl
@[simp] theorem State.open__launches (s : State) (k : Nat) : (s.open_ k).launches = s.launches := by unfold State.open_; split <;> rfl
@[simp] theorem State.open__qdata (s : State) (k : Nat) : (s.open_ k).qdata = s.qdata := by unfold State.open_; split <;> rfl
@[simp] theorem State.open__qActors (s : State) (k : Nat) : (s.open_ k).qActors = s.qActors := by unfold State.open_; split <;> rfl
@[simp] theorem State.open__qSwaps (s : State) (k : Nat) : (s.open_ k).qSwaps = s.qSwaps := by unfold State.open_; split <;> rfl
@[simp] theorem State.open__pieces (s : State) (k : Nat) : (s.open_ k).pieces = s.pieces := by unfold State.open_; split <;> rfl
@[simp] theorem State.open__partials (s : State) (k : Nat) : (s.open_ k).partials = s.partials := by unfold State.open_; split <;> rfl
@[simp] theorem State.open__sums (s : State) (k : Nat) : (s.open_ k).sums = s.sums := by unfold State.open_; split <;> rfl
@[simp] theorem State.open__portA (s : State) (k : Nat) : (s.open_ k).portA = s.portA := by unfold State.open_; split <;> rfl
@[simp] theorem State.open__portB (s : State) (k : Nat) : (s.open_ k).portB = s.portB := by unfold State.open_; split <;> rfl
@[simp] theorem State.open__tieLoser (s : State) (k : Nat) : (s.open_ k).tieLoser = s.tieLoser := by unfold State.open_; split <;> rfl
@[simp] theorem State.open__sems (s : State) (k : Nat) : (s.open_ k).sems = s.sems := by unfold State.open_; split <;> rfl
@[simp] theorem State.open__vfs (s : State) (k : Nat) : (s.open_ k).vfs = s.vfs := by unfold State.open_; split <;> rfl
@[simp] theorem State.open__hq (s : State) (k : Nat) : (s.open_ k).hq = s.hq := by unfold State.open_; split <;> rfl
@[simp] theorem State.open__models (s : State) (k : Nat) : (s.open_ k).models = s.models := by unfold State.open_; split <;> rfl
@[simp] theorem State.open__mgmt (s : State) (k : Nat) : (s.open_ k).mgmt = s.mgmt := by unfold State.open_; split <;> rfl
@[simp] theorem State.open__answers (s : State) (k : Nat) : (s.open_ k).answers = s.answers := by unfold State.open_; split <;> rfl
@[simp] theorem State.open__irqs (s : State) (k : Nat) : (s.open_ k).irqs = s.irqs := by unfold State.open_; split <;> rfl
@[simp] theorem State.open__tab (s : State) (k : Nat) : (s.open_ k).tab = s.tab := by unfold State.open_; split <;> rfl
@[simp] theorem State.putByte_cur (s : State) (k : Nat) (b : Byte) : (s.putByte k b).cur = s.cur := State.open__cur s k
@[simp] theorem State.putByte_phase (s : State) (k : Nat) (b : Byte) : (s.putByte k b).phase = s.phase := State.open__phase s k
@[simp] theorem State.putByte_agenda (s : State) (k : Nat) (b : Byte) : (s.putByte k b).agenda = s.agenda := State.open__agenda s k
@[simp] theorem State.putByte_freeCtr (s : State) (k : Nat) (b : Byte) : (s.putByte k b).freeCtr = s.freeCtr := State.open__freeCtr s k
@[simp] theorem State.putByte_dcc (s : State) (k : Nat) (b : Byte) : (s.putByte k b).dcc = s.dcc := State.open__dcc s k
@[simp] theorem State.putByte_slots (s : State) (k : Nat) (b : Byte) : (s.putByte k b).slots = s.slots := State.open__slots s k
@[simp] theorem State.putByte_tiles (s : State) (k : Nat) (b : Byte) : (s.putByte k b).tiles = s.tiles := State.open__tiles s k
@[simp] theorem State.putByte_dies (s : State) (k : Nat) (b : Byte) : (s.putByte k b).dies = s.dies := State.open__dies s k
@[simp] theorem State.putByte_hbm (s : State) (k : Nat) (b : Byte) : (s.putByte k b).hbm = s.hbm := State.open__hbm s k
@[simp] theorem State.putByte_stations (s : State) (k : Nat) (b : Byte) : (s.putByte k b).stations = s.stations := State.open__stations s k
@[simp] theorem State.putByte_pend (s : State) (k : Nat) (b : Byte) : (s.putByte k b).pend = s.pend := State.open__pend s k
@[simp] theorem State.putByte_caches (s : State) (k : Nat) (b : Byte) : (s.putByte k b).caches = s.caches := State.open__caches s k
@[simp] theorem State.putByte_pkgRing (s : State) (k : Nat) (b : Byte) : (s.putByte k b).pkgRing = s.pkgRing := State.open__pkgRing s k
@[simp] theorem State.putByte_regionUse (s : State) (k : Nat) (b : Byte) : (s.putByte k b).regionUse = s.regionUse := State.open__regionUse s k
@[simp] theorem State.putByte_counters (s : State) (k : Nat) (b : Byte) : (s.putByte k b).counters = s.counters := State.open__counters s k
@[simp] theorem State.putByte_ctrIssuer (s : State) (k : Nat) (b : Byte) : (s.putByte k b).ctrIssuer = s.ctrIssuer := State.open__ctrIssuer s k
@[simp] theorem State.putByte_ctxEvents (s : State) (k : Nat) (b : Byte) : (s.putByte k b).ctxEvents = s.ctxEvents := State.open__ctxEvents s k
@[simp] theorem State.putByte_devEvents (s : State) (k : Nat) (b : Byte) : (s.putByte k b).devEvents = s.devEvents := State.open__devEvents s k
@[simp] theorem State.putByte_futures (s : State) (k : Nat) (b : Byte) : (s.putByte k b).futures = s.futures := State.open__futures s k
@[simp] theorem State.putByte_taskQ (s : State) (k : Nat) (b : Byte) : (s.putByte k b).taskQ = s.taskQ := State.open__taskQ s k
@[simp] theorem State.putByte_tasks (s : State) (k : Nat) (b : Byte) : (s.putByte k b).tasks = s.tasks := State.open__tasks s k
@[simp] theorem State.putByte_teams (s : State) (k : Nat) (b : Byte) : (s.putByte k b).teams = s.teams := State.open__teams s k
@[simp] theorem State.putByte_csa (s : State) (k : Nat) (b : Byte) : (s.putByte k b).csa = s.csa := State.open__csa s k
@[simp] theorem State.putByte_launches (s : State) (k : Nat) (b : Byte) : (s.putByte k b).launches = s.launches := State.open__launches s k
@[simp] theorem State.putByte_qdata (s : State) (k : Nat) (b : Byte) : (s.putByte k b).qdata = s.qdata := State.open__qdata s k
@[simp] theorem State.putByte_qActors (s : State) (k : Nat) (b : Byte) : (s.putByte k b).qActors = s.qActors := State.open__qActors s k
@[simp] theorem State.putByte_qSwaps (s : State) (k : Nat) (b : Byte) : (s.putByte k b).qSwaps = s.qSwaps := State.open__qSwaps s k
@[simp] theorem State.putByte_pieces (s : State) (k : Nat) (b : Byte) : (s.putByte k b).pieces = s.pieces := State.open__pieces s k
@[simp] theorem State.putByte_partials (s : State) (k : Nat) (b : Byte) : (s.putByte k b).partials = s.partials := State.open__partials s k
@[simp] theorem State.putByte_sums (s : State) (k : Nat) (b : Byte) : (s.putByte k b).sums = s.sums := State.open__sums s k
@[simp] theorem State.putByte_portA (s : State) (k : Nat) (b : Byte) : (s.putByte k b).portA = s.portA := State.open__portA s k
@[simp] theorem State.putByte_portB (s : State) (k : Nat) (b : Byte) : (s.putByte k b).portB = s.portB := State.open__portB s k
@[simp] theorem State.putByte_tieLoser (s : State) (k : Nat) (b : Byte) : (s.putByte k b).tieLoser = s.tieLoser := State.open__tieLoser s k
@[simp] theorem State.putByte_sems (s : State) (k : Nat) (b : Byte) : (s.putByte k b).sems = s.sems := State.open__sems s k
@[simp] theorem State.putByte_vfs (s : State) (k : Nat) (b : Byte) : (s.putByte k b).vfs = s.vfs := State.open__vfs s k
@[simp] theorem State.putByte_hq (s : State) (k : Nat) (b : Byte) : (s.putByte k b).hq = s.hq := State.open__hq s k
@[simp] theorem State.putByte_models (s : State) (k : Nat) (b : Byte) : (s.putByte k b).models = s.models := State.open__models s k
@[simp] theorem State.putByte_mgmt (s : State) (k : Nat) (b : Byte) : (s.putByte k b).mgmt = s.mgmt := State.open__mgmt s k
@[simp] theorem State.putByte_answers (s : State) (k : Nat) (b : Byte) : (s.putByte k b).answers = s.answers := State.open__answers s k
@[simp] theorem State.putByte_irqs (s : State) (k : Nat) (b : Byte) : (s.putByte k b).irqs = s.irqs := State.open__irqs s k
@[simp] theorem State.putByte_tab (s : State) (k : Nat) (b : Byte) : (s.putByte k b).tab = s.tab := State.open__tab s k
@[simp] theorem State.setPmap_cur (s : State) (i v : Nat) : (s.setPmap i v).cur = s.cur := by simp [State.setPmap, upTo_keeps State.cur]
@[simp] theorem State.setPmap_phase (s : State) (i v : Nat) : (s.setPmap i v).phase = s.phase := by simp [State.setPmap, upTo_keeps State.phase]
@[simp] theorem State.setPmap_agenda (s : State) (i v : Nat) : (s.setPmap i v).agenda = s.agenda := by simp [State.setPmap, upTo_keeps State.agenda]
@[simp] theorem State.setPmap_freeCtr (s : State) (i v : Nat) : (s.setPmap i v).freeCtr = s.freeCtr := by simp [State.setPmap, upTo_keeps State.freeCtr]
@[simp] theorem State.setPmap_dcc (s : State) (i v : Nat) : (s.setPmap i v).dcc = s.dcc := by simp [State.setPmap, upTo_keeps State.dcc]
@[simp] theorem State.setPmap_slots (s : State) (i v : Nat) : (s.setPmap i v).slots = s.slots := by simp [State.setPmap, upTo_keeps State.slots]
@[simp] theorem State.setPmap_tiles (s : State) (i v : Nat) : (s.setPmap i v).tiles = s.tiles := by simp [State.setPmap, upTo_keeps State.tiles]
@[simp] theorem State.setPmap_dies (s : State) (i v : Nat) : (s.setPmap i v).dies = s.dies := by simp [State.setPmap, upTo_keeps State.dies]
@[simp] theorem State.setPmap_hbm (s : State) (i v : Nat) : (s.setPmap i v).hbm = s.hbm := by simp [State.setPmap, upTo_keeps State.hbm]
@[simp] theorem State.setPmap_stations (s : State) (i v : Nat) : (s.setPmap i v).stations = s.stations := by simp [State.setPmap, upTo_keeps State.stations]
@[simp] theorem State.setPmap_pend (s : State) (i v : Nat) : (s.setPmap i v).pend = s.pend := by simp [State.setPmap, upTo_keeps State.pend]
@[simp] theorem State.setPmap_caches (s : State) (i v : Nat) : (s.setPmap i v).caches = s.caches := by simp [State.setPmap, upTo_keeps State.caches]
@[simp] theorem State.setPmap_pkgRing (s : State) (i v : Nat) : (s.setPmap i v).pkgRing = s.pkgRing := by simp [State.setPmap, upTo_keeps State.pkgRing]
@[simp] theorem State.setPmap_regionUse (s : State) (i v : Nat) : (s.setPmap i v).regionUse = s.regionUse := by simp [State.setPmap, upTo_keeps State.regionUse]
@[simp] theorem State.setPmap_counters (s : State) (i v : Nat) : (s.setPmap i v).counters = s.counters := by simp [State.setPmap, upTo_keeps State.counters]
@[simp] theorem State.setPmap_ctrIssuer (s : State) (i v : Nat) : (s.setPmap i v).ctrIssuer = s.ctrIssuer := by simp [State.setPmap, upTo_keeps State.ctrIssuer]
@[simp] theorem State.setPmap_ctxEvents (s : State) (i v : Nat) : (s.setPmap i v).ctxEvents = s.ctxEvents := by simp [State.setPmap, upTo_keeps State.ctxEvents]
@[simp] theorem State.setPmap_devEvents (s : State) (i v : Nat) : (s.setPmap i v).devEvents = s.devEvents := by simp [State.setPmap, upTo_keeps State.devEvents]
@[simp] theorem State.setPmap_futures (s : State) (i v : Nat) : (s.setPmap i v).futures = s.futures := by simp [State.setPmap, upTo_keeps State.futures]
@[simp] theorem State.setPmap_taskQ (s : State) (i v : Nat) : (s.setPmap i v).taskQ = s.taskQ := by simp [State.setPmap, upTo_keeps State.taskQ]
@[simp] theorem State.setPmap_tasks (s : State) (i v : Nat) : (s.setPmap i v).tasks = s.tasks := by simp [State.setPmap, upTo_keeps State.tasks]
@[simp] theorem State.setPmap_teams (s : State) (i v : Nat) : (s.setPmap i v).teams = s.teams := by simp [State.setPmap, upTo_keeps State.teams]
@[simp] theorem State.setPmap_csa (s : State) (i v : Nat) : (s.setPmap i v).csa = s.csa := by simp [State.setPmap, upTo_keeps State.csa]
@[simp] theorem State.setPmap_launches (s : State) (i v : Nat) : (s.setPmap i v).launches = s.launches := by simp [State.setPmap, upTo_keeps State.launches]
@[simp] theorem State.setPmap_qdata (s : State) (i v : Nat) : (s.setPmap i v).qdata = s.qdata := by simp [State.setPmap, upTo_keeps State.qdata]
@[simp] theorem State.setPmap_qActors (s : State) (i v : Nat) : (s.setPmap i v).qActors = s.qActors := by simp [State.setPmap, upTo_keeps State.qActors]
@[simp] theorem State.setPmap_qSwaps (s : State) (i v : Nat) : (s.setPmap i v).qSwaps = s.qSwaps := by simp [State.setPmap, upTo_keeps State.qSwaps]
@[simp] theorem State.setPmap_pieces (s : State) (i v : Nat) : (s.setPmap i v).pieces = s.pieces := by simp [State.setPmap, upTo_keeps State.pieces]
@[simp] theorem State.setPmap_partials (s : State) (i v : Nat) : (s.setPmap i v).partials = s.partials := by simp [State.setPmap, upTo_keeps State.partials]
@[simp] theorem State.setPmap_sums (s : State) (i v : Nat) : (s.setPmap i v).sums = s.sums := by simp [State.setPmap, upTo_keeps State.sums]
@[simp] theorem State.setPmap_portA (s : State) (i v : Nat) : (s.setPmap i v).portA = s.portA := by simp [State.setPmap, upTo_keeps State.portA]
@[simp] theorem State.setPmap_portB (s : State) (i v : Nat) : (s.setPmap i v).portB = s.portB := by simp [State.setPmap, upTo_keeps State.portB]
@[simp] theorem State.setPmap_tieLoser (s : State) (i v : Nat) : (s.setPmap i v).tieLoser = s.tieLoser := by simp [State.setPmap, upTo_keeps State.tieLoser]
@[simp] theorem State.setPmap_sems (s : State) (i v : Nat) : (s.setPmap i v).sems = s.sems := by simp [State.setPmap, upTo_keeps State.sems]
@[simp] theorem State.setPmap_vfs (s : State) (i v : Nat) : (s.setPmap i v).vfs = s.vfs := by simp [State.setPmap, upTo_keeps State.vfs]
@[simp] theorem State.setPmap_hq (s : State) (i v : Nat) : (s.setPmap i v).hq = s.hq := by simp [State.setPmap, upTo_keeps State.hq]
@[simp] theorem State.setPmap_models (s : State) (i v : Nat) : (s.setPmap i v).models = s.models := by simp [State.setPmap, upTo_keeps State.models]
@[simp] theorem State.setPmap_mgmt (s : State) (i v : Nat) : (s.setPmap i v).mgmt = s.mgmt := by simp [State.setPmap, upTo_keeps State.mgmt]
@[simp] theorem State.setPmap_answers (s : State) (i v : Nat) : (s.setPmap i v).answers = s.answers := by simp [State.setPmap, upTo_keeps State.answers]
@[simp] theorem State.setPmap_irqs (s : State) (i v : Nat) : (s.setPmap i v).irqs = s.irqs := by simp [State.setPmap, upTo_keeps State.irqs]
@[simp] theorem State.setEntry_cur (s : State) (c i v : Nat) : (s.setEntry c i v).cur = s.cur := by unfold State.setEntry; split <;> simp
@[simp] theorem State.setEntry_phase (s : State) (c i v : Nat) : (s.setEntry c i v).phase = s.phase := by unfold State.setEntry; split <;> simp
@[simp] theorem State.setEntry_agenda (s : State) (c i v : Nat) : (s.setEntry c i v).agenda = s.agenda := by unfold State.setEntry; split <;> simp
@[simp] theorem State.setEntry_freeCtr (s : State) (c i v : Nat) : (s.setEntry c i v).freeCtr = s.freeCtr := by unfold State.setEntry; split <;> simp
@[simp] theorem State.setEntry_dcc (s : State) (c i v : Nat) : (s.setEntry c i v).dcc = s.dcc := by unfold State.setEntry; split <;> simp
@[simp] theorem State.setEntry_slots (s : State) (c i v : Nat) : (s.setEntry c i v).slots = s.slots := by unfold State.setEntry; split <;> simp
@[simp] theorem State.setEntry_tiles (s : State) (c i v : Nat) : (s.setEntry c i v).tiles = s.tiles := by unfold State.setEntry; split <;> simp
@[simp] theorem State.setEntry_dies (s : State) (c i v : Nat) : (s.setEntry c i v).dies = s.dies := by unfold State.setEntry; split <;> simp
@[simp] theorem State.setEntry_hbm (s : State) (c i v : Nat) : (s.setEntry c i v).hbm = s.hbm := by unfold State.setEntry; split <;> simp
@[simp] theorem State.setEntry_stations (s : State) (c i v : Nat) : (s.setEntry c i v).stations = s.stations := by unfold State.setEntry; split <;> simp
@[simp] theorem State.setEntry_pend (s : State) (c i v : Nat) : (s.setEntry c i v).pend = s.pend := by unfold State.setEntry; split <;> simp
@[simp] theorem State.setEntry_caches (s : State) (c i v : Nat) : (s.setEntry c i v).caches = s.caches := by unfold State.setEntry; split <;> simp
@[simp] theorem State.setEntry_pkgRing (s : State) (c i v : Nat) : (s.setEntry c i v).pkgRing = s.pkgRing := by unfold State.setEntry; split <;> simp
@[simp] theorem State.setEntry_regionUse (s : State) (c i v : Nat) : (s.setEntry c i v).regionUse = s.regionUse := by unfold State.setEntry; split <;> simp
@[simp] theorem State.setEntry_counters (s : State) (c i v : Nat) : (s.setEntry c i v).counters = s.counters := by unfold State.setEntry; split <;> simp
@[simp] theorem State.setEntry_ctrIssuer (s : State) (c i v : Nat) : (s.setEntry c i v).ctrIssuer = s.ctrIssuer := by unfold State.setEntry; split <;> simp
@[simp] theorem State.setEntry_ctxEvents (s : State) (c i v : Nat) : (s.setEntry c i v).ctxEvents = s.ctxEvents := by unfold State.setEntry; split <;> simp
@[simp] theorem State.setEntry_devEvents (s : State) (c i v : Nat) : (s.setEntry c i v).devEvents = s.devEvents := by unfold State.setEntry; split <;> simp
@[simp] theorem State.setEntry_futures (s : State) (c i v : Nat) : (s.setEntry c i v).futures = s.futures := by unfold State.setEntry; split <;> simp
@[simp] theorem State.setEntry_taskQ (s : State) (c i v : Nat) : (s.setEntry c i v).taskQ = s.taskQ := by unfold State.setEntry; split <;> simp
@[simp] theorem State.setEntry_tasks (s : State) (c i v : Nat) : (s.setEntry c i v).tasks = s.tasks := by unfold State.setEntry; split <;> simp
@[simp] theorem State.setEntry_teams (s : State) (c i v : Nat) : (s.setEntry c i v).teams = s.teams := by unfold State.setEntry; split <;> simp
@[simp] theorem State.setEntry_csa (s : State) (c i v : Nat) : (s.setEntry c i v).csa = s.csa := by unfold State.setEntry; split <;> simp
@[simp] theorem State.setEntry_launches (s : State) (c i v : Nat) : (s.setEntry c i v).launches = s.launches := by unfold State.setEntry; split <;> simp
@[simp] theorem State.setEntry_qdata (s : State) (c i v : Nat) : (s.setEntry c i v).qdata = s.qdata := by unfold State.setEntry; split <;> simp
@[simp] theorem State.setEntry_qActors (s : State) (c i v : Nat) : (s.setEntry c i v).qActors = s.qActors := by unfold State.setEntry; split <;> simp
@[simp] theorem State.setEntry_qSwaps (s : State) (c i v : Nat) : (s.setEntry c i v).qSwaps = s.qSwaps := by unfold State.setEntry; split <;> simp
@[simp] theorem State.setEntry_pieces (s : State) (c i v : Nat) : (s.setEntry c i v).pieces = s.pieces := by unfold State.setEntry; split <;> simp
@[simp] theorem State.setEntry_partials (s : State) (c i v : Nat) : (s.setEntry c i v).partials = s.partials := by unfold State.setEntry; split <;> simp
@[simp] theorem State.setEntry_sums (s : State) (c i v : Nat) : (s.setEntry c i v).sums = s.sums := by unfold State.setEntry; split <;> simp
@[simp] theorem State.setEntry_portA (s : State) (c i v : Nat) : (s.setEntry c i v).portA = s.portA := by unfold State.setEntry; split <;> simp
@[simp] theorem State.setEntry_portB (s : State) (c i v : Nat) : (s.setEntry c i v).portB = s.portB := by unfold State.setEntry; split <;> simp
@[simp] theorem State.setEntry_tieLoser (s : State) (c i v : Nat) : (s.setEntry c i v).tieLoser = s.tieLoser := by unfold State.setEntry; split <;> simp
@[simp] theorem State.setEntry_sems (s : State) (c i v : Nat) : (s.setEntry c i v).sems = s.sems := by unfold State.setEntry; split <;> simp
@[simp] theorem State.setEntry_vfs (s : State) (c i v : Nat) : (s.setEntry c i v).vfs = s.vfs := by unfold State.setEntry; split <;> simp
@[simp] theorem State.setEntry_hq (s : State) (c i v : Nat) : (s.setEntry c i v).hq = s.hq := by unfold State.setEntry; split <;> simp
@[simp] theorem State.setEntry_models (s : State) (c i v : Nat) : (s.setEntry c i v).models = s.models := by unfold State.setEntry; split <;> simp
@[simp] theorem State.setEntry_mgmt (s : State) (c i v : Nat) : (s.setEntry c i v).mgmt = s.mgmt := by unfold State.setEntry; split <;> simp
@[simp] theorem State.setEntry_answers (s : State) (c i v : Nat) : (s.setEntry c i v).answers = s.answers := by unfold State.setEntry; split <;> simp
@[simp] theorem State.setEntry_irqs (s : State) (c i v : Nat) : (s.setEntry c i v).irqs = s.irqs := by unfold State.setEntry; split <;> simp

/-! ### One lemma per field of a slot for each update -/

@[simp] theorem Slot.setS_y (x : Slot) (i : BitVec 5) (v : Word) : (x.setS i v).y = x.y := by
  unfold Slot.setS; split <;> rfl
@[simp] theorem Slot.setS_pc (x : Slot) (i : BitVec 5) (v : Word) : (x.setS i v).pc = x.pc := by
  unfold Slot.setS; split <;> rfl
@[simp] theorem Slot.setS_tmpl (x : Slot) (i : BitVec 5) (v : Word) : (x.setS i v).tmpl = x.tmpl := by
  unfold Slot.setS; split <;> rfl
@[simp] theorem Slot.setS_e (x : Slot) (i : BitVec 5) (v : Word) : (x.setS i v).e = x.e := by
  unfold Slot.setS; split <;> rfl
@[simp] theorem Slot.setS_loads (x : Slot) (i : BitVec 5) (v : Word) : (x.setS i v).loads = x.loads := by
  unfold Slot.setS; split <;> rfl
@[simp] theorem Slot.setS_ldq (x : Slot) (i : BitVec 5) (v : Word) : (x.setS i v).ldq = x.ldq := by
  unfold Slot.setS; split <;> rfl
@[simp] theorem Slot.setS_mxq (x : Slot) (i : BitVec 5) (v : Word) : (x.setS i v).mxq = x.mxq := by
  unfold Slot.setS; split <;> rfl
@[simp] theorem Slot.setS_storeQ (x : Slot) (i : BitVec 5) (v : Word) : (x.setS i v).storeQ = x.storeQ := by
  unfold Slot.setS; split <;> rfl
@[simp] theorem Slot.setS_replay (x : Slot) (i : BitVec 5) (v : Word) : (x.setS i v).replay = x.replay := by
  unfold Slot.setS; split <;> rfl
@[simp] theorem Slot.setS_stuck (x : Slot) (i : BitVec 5) (v : Word) : (x.setS i v).stuck = x.stuck := by
  unfold Slot.setS; split <;> rfl
@[simp] theorem Slot.setS_journal (x : Slot) (i : BitVec 5) (v : Word) : (x.setS i v).journal = x.journal := by
  unfold Slot.setS; split <;> rfl
@[simp] theorem Slot.setS_landings (x : Slot) (i : BitVec 5) (v : Word) : (x.setS i v).landings = x.landings := by
  unfold Slot.setS; split <;> rfl
@[simp] theorem Slot.setS_fifoVis (x : Slot) (i : BitVec 5) (v : Word) : (x.setS i v).fifoVis = x.fifoVis := by
  unfold Slot.setS; split <;> rfl
@[simp] theorem Slot.setS_fifoRes (x : Slot) (i : BitVec 5) (v : Word) : (x.setS i v).fifoRes = x.fifoRes := by
  unfold Slot.setS; split <;> rfl
@[simp] theorem Slot.setS_routePop (x : Slot) (i : BitVec 5) (v : Word) : (x.setS i v).routePop = x.routePop := by
  unfold Slot.setS; split <;> rfl
@[simp] theorem Slot.setS_routePush (x : Slot) (i : BitVec 5) (v : Word) : (x.setS i v).routePush = x.routePush := by
  unfold Slot.setS; split <;> rfl
@[simp] theorem Slot.setS_redOpen (x : Slot) (i : BitVec 5) (v : Word) : (x.setS i v).redOpen = x.redOpen := by
  unfold Slot.setS; split <;> rfl
@[simp] theorem Slot.setS_redCount (x : Slot) (i : BitVec 5) (v : Word) : (x.setS i v).redCount = x.redCount := by
  unfold Slot.setS; split <;> rfl
@[simp] theorem Slot.setS_vrand (x : Slot) (i : BitVec 5) (v : Word) : (x.setS i v).vrand = x.vrand := by
  unfold Slot.setS; split <;> rfl
@[simp] theorem Slot.setS_draws (x : Slot) (i : BitVec 5) (v : Word) : (x.setS i v).draws = x.draws := by
  unfold Slot.setS; split <;> rfl
@[simp] theorem Slot.setS_rsc (x : Slot) (i : BitVec 5) (v : Word) : (x.setS i v).rsc = x.rsc := by
  unfold Slot.setS; split <;> rfl
@[simp] theorem Slot.setS_outcomes (x : Slot) (i : BitVec 5) (v : Word) : (x.setS i v).outcomes = x.outcomes := by
  unfold Slot.setS; split <;> rfl
@[simp] theorem Slot.setS_dom (x : Slot) (i : BitVec 5) (v : Word) : (x.setS i v).dom = x.dom := by
  unfold Slot.setS; split <;> rfl
@[simp] theorem Slot.setS_compVx (x : Slot) (i : BitVec 5) (v : Word) : (x.setS i v).compVx = x.compVx := by
  unfold Slot.setS; split <;> rfl
@[simp] theorem Slot.setS_compCp (x : Slot) (i : BitVec 5) (v : Word) : (x.setS i v).compCp = x.compCp := by
  unfold Slot.setS; split <;> rfl
@[simp] theorem Slot.setS_fences (x : Slot) (i : BitVec 5) (v : Word) : (x.setS i v).fences = x.fences := by
  unfold Slot.setS; split <;> rfl
@[simp] theorem Slot.setS_hold (x : Slot) (i : BitVec 5) (v : Word) : (x.setS i v).hold = x.hold := by
  unfold Slot.setS; split <;> rfl
@[simp] theorem Slot.setS_ord (x : Slot) (i : BitVec 5) (v : Word) : (x.setS i v).ord = x.ord := by
  unfold Slot.setS; split <;> rfl
@[simp] theorem Slot.setS_job (x : Slot) (i : BitVec 5) (v : Word) : (x.setS i v).job = x.job := by
  unfold Slot.setS; split <;> rfl
@[simp] theorem Slot.setS_drain (x : Slot) (i : BitVec 5) (v : Word) : (x.setS i v).drain = x.drain := by
  unfold Slot.setS; split <;> rfl
@[simp] theorem Slot.setS_pairDue (x : Slot) (i : BitVec 5) (v : Word) : (x.setS i v).pairDue = x.pairDue := by
  unfold Slot.setS; split <;> rfl
@[simp] theorem Slot.setS_fencesAside (x : Slot) (i : BitVec 5) (v : Word) : (x.setS i v).fencesAside = x.fencesAside := by
  unfold Slot.setS; split <;> rfl
@[simp] theorem Slot.setS_bwHold (x : Slot) (i : BitVec 5) (v : Word) : (x.setS i v).bwHold = x.bwHold := by
  unfold Slot.setS; split <;> rfl
@[simp] theorem Slot.setS_yieldVx (x : Slot) (i : BitVec 5) (v : Word) : (x.setS i v).yieldVx = x.yieldVx := by
  unfold Slot.setS; split <;> rfl
@[simp] theorem Slot.setS_yieldCp (x : Slot) (i : BitVec 5) (v : Word) : (x.setS i v).yieldCp = x.yieldCp := by
  unfold Slot.setS; split <;> rfl
@[simp] theorem Slot.setS_lendSince (x : Slot) (i : BitVec 5) (v : Word) : (x.setS i v).lendSince = x.lendSince := by
  unfold Slot.setS; split <;> rfl
@[simp] theorem Slot.setP_y (x : Slot) (i : BitVec 3) (b : Bool) : (x.setP i b).y = x.y := by
  unfold Slot.setP; split <;> rfl
@[simp] theorem Slot.setP_pc (x : Slot) (i : BitVec 3) (b : Bool) : (x.setP i b).pc = x.pc := by
  unfold Slot.setP; split <;> rfl
@[simp] theorem Slot.setP_tmpl (x : Slot) (i : BitVec 3) (b : Bool) : (x.setP i b).tmpl = x.tmpl := by
  unfold Slot.setP; split <;> rfl
@[simp] theorem Slot.setP_e (x : Slot) (i : BitVec 3) (b : Bool) : (x.setP i b).e = x.e := by
  unfold Slot.setP; split <;> rfl
@[simp] theorem Slot.setP_loads (x : Slot) (i : BitVec 3) (b : Bool) : (x.setP i b).loads = x.loads := by
  unfold Slot.setP; split <;> rfl
@[simp] theorem Slot.setP_ldq (x : Slot) (i : BitVec 3) (b : Bool) : (x.setP i b).ldq = x.ldq := by
  unfold Slot.setP; split <;> rfl
@[simp] theorem Slot.setP_mxq (x : Slot) (i : BitVec 3) (b : Bool) : (x.setP i b).mxq = x.mxq := by
  unfold Slot.setP; split <;> rfl
@[simp] theorem Slot.setP_storeQ (x : Slot) (i : BitVec 3) (b : Bool) : (x.setP i b).storeQ = x.storeQ := by
  unfold Slot.setP; split <;> rfl
@[simp] theorem Slot.setP_replay (x : Slot) (i : BitVec 3) (b : Bool) : (x.setP i b).replay = x.replay := by
  unfold Slot.setP; split <;> rfl
@[simp] theorem Slot.setP_stuck (x : Slot) (i : BitVec 3) (b : Bool) : (x.setP i b).stuck = x.stuck := by
  unfold Slot.setP; split <;> rfl
@[simp] theorem Slot.setP_journal (x : Slot) (i : BitVec 3) (b : Bool) : (x.setP i b).journal = x.journal := by
  unfold Slot.setP; split <;> rfl
@[simp] theorem Slot.setP_landings (x : Slot) (i : BitVec 3) (b : Bool) : (x.setP i b).landings = x.landings := by
  unfold Slot.setP; split <;> rfl
@[simp] theorem Slot.setP_fifoVis (x : Slot) (i : BitVec 3) (b : Bool) : (x.setP i b).fifoVis = x.fifoVis := by
  unfold Slot.setP; split <;> rfl
@[simp] theorem Slot.setP_fifoRes (x : Slot) (i : BitVec 3) (b : Bool) : (x.setP i b).fifoRes = x.fifoRes := by
  unfold Slot.setP; split <;> rfl
@[simp] theorem Slot.setP_routePop (x : Slot) (i : BitVec 3) (b : Bool) : (x.setP i b).routePop = x.routePop := by
  unfold Slot.setP; split <;> rfl
@[simp] theorem Slot.setP_routePush (x : Slot) (i : BitVec 3) (b : Bool) : (x.setP i b).routePush = x.routePush := by
  unfold Slot.setP; split <;> rfl
@[simp] theorem Slot.setP_redOpen (x : Slot) (i : BitVec 3) (b : Bool) : (x.setP i b).redOpen = x.redOpen := by
  unfold Slot.setP; split <;> rfl
@[simp] theorem Slot.setP_redCount (x : Slot) (i : BitVec 3) (b : Bool) : (x.setP i b).redCount = x.redCount := by
  unfold Slot.setP; split <;> rfl
@[simp] theorem Slot.setP_vrand (x : Slot) (i : BitVec 3) (b : Bool) : (x.setP i b).vrand = x.vrand := by
  unfold Slot.setP; split <;> rfl
@[simp] theorem Slot.setP_draws (x : Slot) (i : BitVec 3) (b : Bool) : (x.setP i b).draws = x.draws := by
  unfold Slot.setP; split <;> rfl
@[simp] theorem Slot.setP_rsc (x : Slot) (i : BitVec 3) (b : Bool) : (x.setP i b).rsc = x.rsc := by
  unfold Slot.setP; split <;> rfl
@[simp] theorem Slot.setP_outcomes (x : Slot) (i : BitVec 3) (b : Bool) : (x.setP i b).outcomes = x.outcomes := by
  unfold Slot.setP; split <;> rfl
@[simp] theorem Slot.setP_dom (x : Slot) (i : BitVec 3) (b : Bool) : (x.setP i b).dom = x.dom := by
  unfold Slot.setP; split <;> rfl
@[simp] theorem Slot.setP_compVx (x : Slot) (i : BitVec 3) (b : Bool) : (x.setP i b).compVx = x.compVx := by
  unfold Slot.setP; split <;> rfl
@[simp] theorem Slot.setP_compCp (x : Slot) (i : BitVec 3) (b : Bool) : (x.setP i b).compCp = x.compCp := by
  unfold Slot.setP; split <;> rfl
@[simp] theorem Slot.setP_fences (x : Slot) (i : BitVec 3) (b : Bool) : (x.setP i b).fences = x.fences := by
  unfold Slot.setP; split <;> rfl
@[simp] theorem Slot.setP_hold (x : Slot) (i : BitVec 3) (b : Bool) : (x.setP i b).hold = x.hold := by
  unfold Slot.setP; split <;> rfl
@[simp] theorem Slot.setP_ord (x : Slot) (i : BitVec 3) (b : Bool) : (x.setP i b).ord = x.ord := by
  unfold Slot.setP; split <;> rfl
@[simp] theorem Slot.setP_job (x : Slot) (i : BitVec 3) (b : Bool) : (x.setP i b).job = x.job := by
  unfold Slot.setP; split <;> rfl
@[simp] theorem Slot.setP_drain (x : Slot) (i : BitVec 3) (b : Bool) : (x.setP i b).drain = x.drain := by
  unfold Slot.setP; split <;> rfl
@[simp] theorem Slot.setP_pairDue (x : Slot) (i : BitVec 3) (b : Bool) : (x.setP i b).pairDue = x.pairDue := by
  unfold Slot.setP; split <;> rfl
@[simp] theorem Slot.setP_fencesAside (x : Slot) (i : BitVec 3) (b : Bool) : (x.setP i b).fencesAside = x.fencesAside := by
  unfold Slot.setP; split <;> rfl
@[simp] theorem Slot.setP_bwHold (x : Slot) (i : BitVec 3) (b : Bool) : (x.setP i b).bwHold = x.bwHold := by
  unfold Slot.setP; split <;> rfl
@[simp] theorem Slot.setP_yieldVx (x : Slot) (i : BitVec 3) (b : Bool) : (x.setP i b).yieldVx = x.yieldVx := by
  unfold Slot.setP; split <;> rfl
@[simp] theorem Slot.setP_yieldCp (x : Slot) (i : BitVec 3) (b : Bool) : (x.setP i b).yieldCp = x.yieldCp := by
  unfold Slot.setP; split <;> rfl
@[simp] theorem Slot.setP_lendSince (x : Slot) (i : BitVec 3) (b : Bool) : (x.setP i b).lendSince = x.lendSince := by
  unfold Slot.setP; split <;> rfl
@[simp] theorem Slot.setX_y (x : Slot) (w : BitVec 2) (i : BitVec 5) (v : Word) : (x.setX w i v).y = x.y := rfl
@[simp] theorem Slot.setX_pc (x : Slot) (w : BitVec 2) (i : BitVec 5) (v : Word) : (x.setX w i v).pc = x.pc := rfl
@[simp] theorem Slot.setX_tmpl (x : Slot) (w : BitVec 2) (i : BitVec 5) (v : Word) : (x.setX w i v).tmpl = x.tmpl := rfl
@[simp] theorem Slot.setX_e (x : Slot) (w : BitVec 2) (i : BitVec 5) (v : Word) : (x.setX w i v).e = x.e := rfl
@[simp] theorem Slot.setX_loads (x : Slot) (w : BitVec 2) (i : BitVec 5) (v : Word) : (x.setX w i v).loads = x.loads := rfl
@[simp] theorem Slot.setX_ldq (x : Slot) (w : BitVec 2) (i : BitVec 5) (v : Word) : (x.setX w i v).ldq = x.ldq := rfl
@[simp] theorem Slot.setX_mxq (x : Slot) (w : BitVec 2) (i : BitVec 5) (v : Word) : (x.setX w i v).mxq = x.mxq := rfl
@[simp] theorem Slot.setX_storeQ (x : Slot) (w : BitVec 2) (i : BitVec 5) (v : Word) : (x.setX w i v).storeQ = x.storeQ := rfl
@[simp] theorem Slot.setX_replay (x : Slot) (w : BitVec 2) (i : BitVec 5) (v : Word) : (x.setX w i v).replay = x.replay := rfl
@[simp] theorem Slot.setX_stuck (x : Slot) (w : BitVec 2) (i : BitVec 5) (v : Word) : (x.setX w i v).stuck = x.stuck := rfl
@[simp] theorem Slot.setX_journal (x : Slot) (w : BitVec 2) (i : BitVec 5) (v : Word) : (x.setX w i v).journal = x.journal := rfl
@[simp] theorem Slot.setX_landings (x : Slot) (w : BitVec 2) (i : BitVec 5) (v : Word) : (x.setX w i v).landings = x.landings := rfl
@[simp] theorem Slot.setX_fifoVis (x : Slot) (w : BitVec 2) (i : BitVec 5) (v : Word) : (x.setX w i v).fifoVis = x.fifoVis := rfl
@[simp] theorem Slot.setX_fifoRes (x : Slot) (w : BitVec 2) (i : BitVec 5) (v : Word) : (x.setX w i v).fifoRes = x.fifoRes := rfl
@[simp] theorem Slot.setX_routePop (x : Slot) (w : BitVec 2) (i : BitVec 5) (v : Word) : (x.setX w i v).routePop = x.routePop := rfl
@[simp] theorem Slot.setX_routePush (x : Slot) (w : BitVec 2) (i : BitVec 5) (v : Word) : (x.setX w i v).routePush = x.routePush := rfl
@[simp] theorem Slot.setX_redOpen (x : Slot) (w : BitVec 2) (i : BitVec 5) (v : Word) : (x.setX w i v).redOpen = x.redOpen := rfl
@[simp] theorem Slot.setX_redCount (x : Slot) (w : BitVec 2) (i : BitVec 5) (v : Word) : (x.setX w i v).redCount = x.redCount := rfl
@[simp] theorem Slot.setX_vrand (x : Slot) (w : BitVec 2) (i : BitVec 5) (v : Word) : (x.setX w i v).vrand = x.vrand := rfl
@[simp] theorem Slot.setX_draws (x : Slot) (w : BitVec 2) (i : BitVec 5) (v : Word) : (x.setX w i v).draws = x.draws := rfl
@[simp] theorem Slot.setX_rsc (x : Slot) (w : BitVec 2) (i : BitVec 5) (v : Word) : (x.setX w i v).rsc = x.rsc := rfl
@[simp] theorem Slot.setX_outcomes (x : Slot) (w : BitVec 2) (i : BitVec 5) (v : Word) : (x.setX w i v).outcomes = x.outcomes := rfl
@[simp] theorem Slot.setX_dom (x : Slot) (w : BitVec 2) (i : BitVec 5) (v : Word) : (x.setX w i v).dom = x.dom := rfl
@[simp] theorem Slot.setX_compVx (x : Slot) (w : BitVec 2) (i : BitVec 5) (v : Word) : (x.setX w i v).compVx = x.compVx := rfl
@[simp] theorem Slot.setX_compCp (x : Slot) (w : BitVec 2) (i : BitVec 5) (v : Word) : (x.setX w i v).compCp = x.compCp := rfl
@[simp] theorem Slot.setX_fences (x : Slot) (w : BitVec 2) (i : BitVec 5) (v : Word) : (x.setX w i v).fences = x.fences := rfl
@[simp] theorem Slot.setX_fencesAside (x : Slot) (w : BitVec 2) (i : BitVec 5) (v : Word) : (x.setX w i v).fencesAside = x.fencesAside := rfl
@[simp] theorem Slot.setX_hold (x : Slot) (w : BitVec 2) (i : BitVec 5) (v : Word) : (x.setX w i v).hold = x.hold := rfl
@[simp] theorem Slot.setX_ord (x : Slot) (w : BitVec 2) (i : BitVec 5) (v : Word) : (x.setX w i v).ord = x.ord := rfl
@[simp] theorem Slot.setX_job (x : Slot) (w : BitVec 2) (i : BitVec 5) (v : Word) : (x.setX w i v).job = x.job := rfl
@[simp] theorem Slot.setX_drain (x : Slot) (w : BitVec 2) (i : BitVec 5) (v : Word) : (x.setX w i v).drain = x.drain := rfl
@[simp] theorem Slot.setX_bwHold (x : Slot) (w : BitVec 2) (i : BitVec 5) (v : Word) : (x.setX w i v).bwHold = x.bwHold := rfl
@[simp] theorem Slot.setX_yieldVx (x : Slot) (w : BitVec 2) (i : BitVec 5) (v : Word) : (x.setX w i v).yieldVx = x.yieldVx := rfl
@[simp] theorem Slot.setX_yieldCp (x : Slot) (w : BitVec 2) (i : BitVec 5) (v : Word) : (x.setX w i v).yieldCp = x.yieldCp := rfl
@[simp] theorem Slot.setX_lendSince (x : Slot) (w : BitVec 2) (i : BitVec 5) (v : Word) : (x.setX w i v).lendSince = x.lendSince := rfl
@[simp] theorem Slot.setX_pairDue (x : Slot) (w : BitVec 2) (i : BitVec 5) (v : Word) : (x.setX w i v).pairDue = x.pairDue := rfl
@[simp] theorem Slot.setV_y (x : Slot) (i : BitVec 5) (v : BitVec 2048) : (x.setV i v).y = x.y := rfl
@[simp] theorem Slot.setV_pc (x : Slot) (i : BitVec 5) (v : BitVec 2048) : (x.setV i v).pc = x.pc := rfl
@[simp] theorem Slot.setV_tmpl (x : Slot) (i : BitVec 5) (v : BitVec 2048) : (x.setV i v).tmpl = x.tmpl := rfl
@[simp] theorem Slot.setV_e (x : Slot) (i : BitVec 5) (v : BitVec 2048) : (x.setV i v).e = x.e := rfl
@[simp] theorem Slot.setV_loads (x : Slot) (i : BitVec 5) (v : BitVec 2048) : (x.setV i v).loads = x.loads := rfl
@[simp] theorem Slot.setV_ldq (x : Slot) (i : BitVec 5) (v : BitVec 2048) : (x.setV i v).ldq = x.ldq := rfl
@[simp] theorem Slot.setV_mxq (x : Slot) (i : BitVec 5) (v : BitVec 2048) : (x.setV i v).mxq = x.mxq := rfl
@[simp] theorem Slot.setV_storeQ (x : Slot) (i : BitVec 5) (v : BitVec 2048) : (x.setV i v).storeQ = x.storeQ := rfl
@[simp] theorem Slot.setV_replay (x : Slot) (i : BitVec 5) (v : BitVec 2048) : (x.setV i v).replay = x.replay := rfl
@[simp] theorem Slot.setV_stuck (x : Slot) (i : BitVec 5) (v : BitVec 2048) : (x.setV i v).stuck = x.stuck := rfl
@[simp] theorem Slot.setV_journal (x : Slot) (i : BitVec 5) (v : BitVec 2048) : (x.setV i v).journal = x.journal := rfl
@[simp] theorem Slot.setV_landings (x : Slot) (i : BitVec 5) (v : BitVec 2048) : (x.setV i v).landings = x.landings := rfl
@[simp] theorem Slot.setV_fifoVis (x : Slot) (i : BitVec 5) (v : BitVec 2048) : (x.setV i v).fifoVis = x.fifoVis := rfl
@[simp] theorem Slot.setV_fifoRes (x : Slot) (i : BitVec 5) (v : BitVec 2048) : (x.setV i v).fifoRes = x.fifoRes := rfl
@[simp] theorem Slot.setV_routePop (x : Slot) (i : BitVec 5) (v : BitVec 2048) : (x.setV i v).routePop = x.routePop := rfl
@[simp] theorem Slot.setV_routePush (x : Slot) (i : BitVec 5) (v : BitVec 2048) : (x.setV i v).routePush = x.routePush := rfl
@[simp] theorem Slot.setV_redOpen (x : Slot) (i : BitVec 5) (v : BitVec 2048) : (x.setV i v).redOpen = x.redOpen := rfl
@[simp] theorem Slot.setV_redCount (x : Slot) (i : BitVec 5) (v : BitVec 2048) : (x.setV i v).redCount = x.redCount := rfl
@[simp] theorem Slot.setV_vrand (x : Slot) (i : BitVec 5) (v : BitVec 2048) : (x.setV i v).vrand = x.vrand := rfl
@[simp] theorem Slot.setV_draws (x : Slot) (i : BitVec 5) (v : BitVec 2048) : (x.setV i v).draws = x.draws := rfl
@[simp] theorem Slot.setV_rsc (x : Slot) (i : BitVec 5) (v : BitVec 2048) : (x.setV i v).rsc = x.rsc := rfl
@[simp] theorem Slot.setV_outcomes (x : Slot) (i : BitVec 5) (v : BitVec 2048) : (x.setV i v).outcomes = x.outcomes := rfl
@[simp] theorem Slot.setV_dom (x : Slot) (i : BitVec 5) (v : BitVec 2048) : (x.setV i v).dom = x.dom := rfl
@[simp] theorem Slot.setV_compVx (x : Slot) (i : BitVec 5) (v : BitVec 2048) : (x.setV i v).compVx = x.compVx := rfl
@[simp] theorem Slot.setV_compCp (x : Slot) (i : BitVec 5) (v : BitVec 2048) : (x.setV i v).compCp = x.compCp := rfl
@[simp] theorem Slot.setV_fences (x : Slot) (i : BitVec 5) (v : BitVec 2048) : (x.setV i v).fences = x.fences := rfl
@[simp] theorem Slot.setV_fencesAside (x : Slot) (i : BitVec 5) (v : BitVec 2048) : (x.setV i v).fencesAside = x.fencesAside := rfl
@[simp] theorem Slot.setV_hold (x : Slot) (i : BitVec 5) (v : BitVec 2048) : (x.setV i v).hold = x.hold := rfl
@[simp] theorem Slot.setV_ord (x : Slot) (i : BitVec 5) (v : BitVec 2048) : (x.setV i v).ord = x.ord := rfl
@[simp] theorem Slot.setV_job (x : Slot) (i : BitVec 5) (v : BitVec 2048) : (x.setV i v).job = x.job := rfl
@[simp] theorem Slot.setV_drain (x : Slot) (i : BitVec 5) (v : BitVec 2048) : (x.setV i v).drain = x.drain := rfl
@[simp] theorem Slot.setV_bwHold (x : Slot) (i : BitVec 5) (v : BitVec 2048) : (x.setV i v).bwHold = x.bwHold := rfl
@[simp] theorem Slot.setV_yieldVx (x : Slot) (i : BitVec 5) (v : BitVec 2048) : (x.setV i v).yieldVx = x.yieldVx := rfl
@[simp] theorem Slot.setV_yieldCp (x : Slot) (i : BitVec 5) (v : BitVec 2048) : (x.setV i v).yieldCp = x.yieldCp := rfl
@[simp] theorem Slot.setV_lendSince (x : Slot) (i : BitVec 5) (v : BitVec 2048) : (x.setV i v).lendSince = x.lendSince := rfl
@[simp] theorem Slot.setV_pairDue (x : Slot) (i : BitVec 5) (v : BitVec 2048) : (x.setV i v).pairDue = x.pairDue := rfl
@[simp] theorem Slot.setK_y (x : Slot) (i : BitVec 3) (v : Word) : (x.setK i v).y = x.y := by
  unfold Slot.setK; split <;> rfl
@[simp] theorem Slot.setK_pc (x : Slot) (i : BitVec 3) (v : Word) : (x.setK i v).pc = x.pc := by
  unfold Slot.setK; split <;> rfl
@[simp] theorem Slot.setK_tmpl (x : Slot) (i : BitVec 3) (v : Word) : (x.setK i v).tmpl = x.tmpl := by
  unfold Slot.setK; split <;> rfl
@[simp] theorem Slot.setK_e (x : Slot) (i : BitVec 3) (v : Word) : (x.setK i v).e = x.e := by
  unfold Slot.setK; split <;> rfl
@[simp] theorem Slot.setK_loads (x : Slot) (i : BitVec 3) (v : Word) : (x.setK i v).loads = x.loads := by
  unfold Slot.setK; split <;> rfl
@[simp] theorem Slot.setK_ldq (x : Slot) (i : BitVec 3) (v : Word) : (x.setK i v).ldq = x.ldq := by
  unfold Slot.setK; split <;> rfl
@[simp] theorem Slot.setK_mxq (x : Slot) (i : BitVec 3) (v : Word) : (x.setK i v).mxq = x.mxq := by
  unfold Slot.setK; split <;> rfl
@[simp] theorem Slot.setK_storeQ (x : Slot) (i : BitVec 3) (v : Word) : (x.setK i v).storeQ = x.storeQ := by
  unfold Slot.setK; split <;> rfl
@[simp] theorem Slot.setK_replay (x : Slot) (i : BitVec 3) (v : Word) : (x.setK i v).replay = x.replay := by
  unfold Slot.setK; split <;> rfl
@[simp] theorem Slot.setK_stuck (x : Slot) (i : BitVec 3) (v : Word) : (x.setK i v).stuck = x.stuck := by
  unfold Slot.setK; split <;> rfl
@[simp] theorem Slot.setK_journal (x : Slot) (i : BitVec 3) (v : Word) : (x.setK i v).journal = x.journal := by
  unfold Slot.setK; split <;> rfl
@[simp] theorem Slot.setK_landings (x : Slot) (i : BitVec 3) (v : Word) : (x.setK i v).landings = x.landings := by
  unfold Slot.setK; split <;> rfl
@[simp] theorem Slot.setK_fifoVis (x : Slot) (i : BitVec 3) (v : Word) : (x.setK i v).fifoVis = x.fifoVis := by
  unfold Slot.setK; split <;> rfl
@[simp] theorem Slot.setK_fifoRes (x : Slot) (i : BitVec 3) (v : Word) : (x.setK i v).fifoRes = x.fifoRes := by
  unfold Slot.setK; split <;> rfl
@[simp] theorem Slot.setK_routePop (x : Slot) (i : BitVec 3) (v : Word) : (x.setK i v).routePop = x.routePop := by
  unfold Slot.setK; split <;> rfl
@[simp] theorem Slot.setK_routePush (x : Slot) (i : BitVec 3) (v : Word) : (x.setK i v).routePush = x.routePush := by
  unfold Slot.setK; split <;> rfl
@[simp] theorem Slot.setK_redOpen (x : Slot) (i : BitVec 3) (v : Word) : (x.setK i v).redOpen = x.redOpen := by
  unfold Slot.setK; split <;> rfl
@[simp] theorem Slot.setK_redCount (x : Slot) (i : BitVec 3) (v : Word) : (x.setK i v).redCount = x.redCount := by
  unfold Slot.setK; split <;> rfl
@[simp] theorem Slot.setK_vrand (x : Slot) (i : BitVec 3) (v : Word) : (x.setK i v).vrand = x.vrand := by
  unfold Slot.setK; split <;> rfl
@[simp] theorem Slot.setK_draws (x : Slot) (i : BitVec 3) (v : Word) : (x.setK i v).draws = x.draws := by
  unfold Slot.setK; split <;> rfl
@[simp] theorem Slot.setK_rsc (x : Slot) (i : BitVec 3) (v : Word) : (x.setK i v).rsc = x.rsc := by
  unfold Slot.setK; split <;> rfl
@[simp] theorem Slot.setK_outcomes (x : Slot) (i : BitVec 3) (v : Word) : (x.setK i v).outcomes = x.outcomes := by
  unfold Slot.setK; split <;> rfl
@[simp] theorem Slot.setK_dom (x : Slot) (i : BitVec 3) (v : Word) : (x.setK i v).dom = x.dom := by
  unfold Slot.setK; split <;> rfl
@[simp] theorem Slot.setK_compVx (x : Slot) (i : BitVec 3) (v : Word) : (x.setK i v).compVx = x.compVx := by
  unfold Slot.setK; split <;> rfl
@[simp] theorem Slot.setK_compCp (x : Slot) (i : BitVec 3) (v : Word) : (x.setK i v).compCp = x.compCp := by
  unfold Slot.setK; split <;> rfl
@[simp] theorem Slot.setK_fences (x : Slot) (i : BitVec 3) (v : Word) : (x.setK i v).fences = x.fences := by
  unfold Slot.setK; split <;> rfl
@[simp] theorem Slot.setK_hold (x : Slot) (i : BitVec 3) (v : Word) : (x.setK i v).hold = x.hold := by
  unfold Slot.setK; split <;> rfl
@[simp] theorem Slot.setK_ord (x : Slot) (i : BitVec 3) (v : Word) : (x.setK i v).ord = x.ord := by
  unfold Slot.setK; split <;> rfl
@[simp] theorem Slot.setK_job (x : Slot) (i : BitVec 3) (v : Word) : (x.setK i v).job = x.job := by
  unfold Slot.setK; split <;> rfl
@[simp] theorem Slot.setK_drain (x : Slot) (i : BitVec 3) (v : Word) : (x.setK i v).drain = x.drain := by
  unfold Slot.setK; split <;> rfl
@[simp] theorem Slot.setK_pairDue (x : Slot) (i : BitVec 3) (v : Word) : (x.setK i v).pairDue = x.pairDue := by
  unfold Slot.setK; split <;> rfl
@[simp] theorem Slot.setK_fencesAside (x : Slot) (i : BitVec 3) (v : Word) : (x.setK i v).fencesAside = x.fencesAside := by
  unfold Slot.setK; split <;> rfl
@[simp] theorem Slot.setK_bwHold (x : Slot) (i : BitVec 3) (v : Word) : (x.setK i v).bwHold = x.bwHold := by
  unfold Slot.setK; split <;> rfl
@[simp] theorem Slot.setK_yieldVx (x : Slot) (i : BitVec 3) (v : Word) : (x.setK i v).yieldVx = x.yieldVx := by
  unfold Slot.setK; split <;> rfl
@[simp] theorem Slot.setK_yieldCp (x : Slot) (i : BitVec 3) (v : Word) : (x.setK i v).yieldCp = x.yieldCp := by
  unfold Slot.setK; split <;> rfl
@[simp] theorem Slot.setK_lendSince (x : Slot) (i : BitVec 3) (v : Word) : (x.setK i v).lendSince = x.lendSince := by
  unfold Slot.setK; split <;> rfl
@[simp] theorem Slot.setG_y (x : Slot) (i : BitVec 3) (b : Bool) : (x.setG i b).y = x.y := by
  unfold Slot.setG; split <;> rfl
@[simp] theorem Slot.setG_pc (x : Slot) (i : BitVec 3) (b : Bool) : (x.setG i b).pc = x.pc := by
  unfold Slot.setG; split <;> rfl
@[simp] theorem Slot.setG_tmpl (x : Slot) (i : BitVec 3) (b : Bool) : (x.setG i b).tmpl = x.tmpl := by
  unfold Slot.setG; split <;> rfl
@[simp] theorem Slot.setG_e (x : Slot) (i : BitVec 3) (b : Bool) : (x.setG i b).e = x.e := by
  unfold Slot.setG; split <;> rfl
@[simp] theorem Slot.setG_loads (x : Slot) (i : BitVec 3) (b : Bool) : (x.setG i b).loads = x.loads := by
  unfold Slot.setG; split <;> rfl
@[simp] theorem Slot.setG_ldq (x : Slot) (i : BitVec 3) (b : Bool) : (x.setG i b).ldq = x.ldq := by
  unfold Slot.setG; split <;> rfl
@[simp] theorem Slot.setG_mxq (x : Slot) (i : BitVec 3) (b : Bool) : (x.setG i b).mxq = x.mxq := by
  unfold Slot.setG; split <;> rfl
@[simp] theorem Slot.setG_storeQ (x : Slot) (i : BitVec 3) (b : Bool) : (x.setG i b).storeQ = x.storeQ := by
  unfold Slot.setG; split <;> rfl
@[simp] theorem Slot.setG_replay (x : Slot) (i : BitVec 3) (b : Bool) : (x.setG i b).replay = x.replay := by
  unfold Slot.setG; split <;> rfl
@[simp] theorem Slot.setG_stuck (x : Slot) (i : BitVec 3) (b : Bool) : (x.setG i b).stuck = x.stuck := by
  unfold Slot.setG; split <;> rfl
@[simp] theorem Slot.setG_journal (x : Slot) (i : BitVec 3) (b : Bool) : (x.setG i b).journal = x.journal := by
  unfold Slot.setG; split <;> rfl
@[simp] theorem Slot.setG_landings (x : Slot) (i : BitVec 3) (b : Bool) : (x.setG i b).landings = x.landings := by
  unfold Slot.setG; split <;> rfl
@[simp] theorem Slot.setG_fifoVis (x : Slot) (i : BitVec 3) (b : Bool) : (x.setG i b).fifoVis = x.fifoVis := by
  unfold Slot.setG; split <;> rfl
@[simp] theorem Slot.setG_fifoRes (x : Slot) (i : BitVec 3) (b : Bool) : (x.setG i b).fifoRes = x.fifoRes := by
  unfold Slot.setG; split <;> rfl
@[simp] theorem Slot.setG_routePop (x : Slot) (i : BitVec 3) (b : Bool) : (x.setG i b).routePop = x.routePop := by
  unfold Slot.setG; split <;> rfl
@[simp] theorem Slot.setG_routePush (x : Slot) (i : BitVec 3) (b : Bool) : (x.setG i b).routePush = x.routePush := by
  unfold Slot.setG; split <;> rfl
@[simp] theorem Slot.setG_redOpen (x : Slot) (i : BitVec 3) (b : Bool) : (x.setG i b).redOpen = x.redOpen := by
  unfold Slot.setG; split <;> rfl
@[simp] theorem Slot.setG_redCount (x : Slot) (i : BitVec 3) (b : Bool) : (x.setG i b).redCount = x.redCount := by
  unfold Slot.setG; split <;> rfl
@[simp] theorem Slot.setG_vrand (x : Slot) (i : BitVec 3) (b : Bool) : (x.setG i b).vrand = x.vrand := by
  unfold Slot.setG; split <;> rfl
@[simp] theorem Slot.setG_draws (x : Slot) (i : BitVec 3) (b : Bool) : (x.setG i b).draws = x.draws := by
  unfold Slot.setG; split <;> rfl
@[simp] theorem Slot.setG_rsc (x : Slot) (i : BitVec 3) (b : Bool) : (x.setG i b).rsc = x.rsc := by
  unfold Slot.setG; split <;> rfl
@[simp] theorem Slot.setG_outcomes (x : Slot) (i : BitVec 3) (b : Bool) : (x.setG i b).outcomes = x.outcomes := by
  unfold Slot.setG; split <;> rfl
@[simp] theorem Slot.setG_dom (x : Slot) (i : BitVec 3) (b : Bool) : (x.setG i b).dom = x.dom := by
  unfold Slot.setG; split <;> rfl
@[simp] theorem Slot.setG_compVx (x : Slot) (i : BitVec 3) (b : Bool) : (x.setG i b).compVx = x.compVx := by
  unfold Slot.setG; split <;> rfl
@[simp] theorem Slot.setG_compCp (x : Slot) (i : BitVec 3) (b : Bool) : (x.setG i b).compCp = x.compCp := by
  unfold Slot.setG; split <;> rfl
@[simp] theorem Slot.setG_fences (x : Slot) (i : BitVec 3) (b : Bool) : (x.setG i b).fences = x.fences := by
  unfold Slot.setG; split <;> rfl
@[simp] theorem Slot.setG_hold (x : Slot) (i : BitVec 3) (b : Bool) : (x.setG i b).hold = x.hold := by
  unfold Slot.setG; split <;> rfl
@[simp] theorem Slot.setG_ord (x : Slot) (i : BitVec 3) (b : Bool) : (x.setG i b).ord = x.ord := by
  unfold Slot.setG; split <;> rfl
@[simp] theorem Slot.setG_job (x : Slot) (i : BitVec 3) (b : Bool) : (x.setG i b).job = x.job := by
  unfold Slot.setG; split <;> rfl
@[simp] theorem Slot.setG_drain (x : Slot) (i : BitVec 3) (b : Bool) : (x.setG i b).drain = x.drain := by
  unfold Slot.setG; split <;> rfl
@[simp] theorem Slot.setG_pairDue (x : Slot) (i : BitVec 3) (b : Bool) : (x.setG i b).pairDue = x.pairDue := by
  unfold Slot.setG; split <;> rfl
@[simp] theorem Slot.setG_fencesAside (x : Slot) (i : BitVec 3) (b : Bool) : (x.setG i b).fencesAside = x.fencesAside := by
  unfold Slot.setG; split <;> rfl
@[simp] theorem Slot.setG_bwHold (x : Slot) (i : BitVec 3) (b : Bool) : (x.setG i b).bwHold = x.bwHold := by
  unfold Slot.setG; split <;> rfl
@[simp] theorem Slot.setG_yieldVx (x : Slot) (i : BitVec 3) (b : Bool) : (x.setG i b).yieldVx = x.yieldVx := by
  unfold Slot.setG; split <;> rfl
@[simp] theorem Slot.setG_yieldCp (x : Slot) (i : BitVec 3) (b : Bool) : (x.setG i b).yieldCp = x.yieldCp := by
  unfold Slot.setG; split <;> rfl
@[simp] theorem Slot.setG_lendSince (x : Slot) (i : BitVec 3) (b : Bool) : (x.setG i b).lendSince = x.lendSince := by
  unfold Slot.setG; split <;> rfl
@[simp] theorem Slot.setEng_r (x : Slot) (e : Engine) (q : EngQ) : (x.setEng e q).r = x.r := rfl
@[simp] theorem Slot.setEng_y (x : Slot) (e : Engine) (q : EngQ) : (x.setEng e q).y = x.y := rfl
@[simp] theorem Slot.setEng_pc (x : Slot) (e : Engine) (q : EngQ) : (x.setEng e q).pc = x.pc := rfl
@[simp] theorem Slot.setEng_tmpl (x : Slot) (e : Engine) (q : EngQ) : (x.setEng e q).tmpl = x.tmpl := rfl
@[simp] theorem Slot.setEng_loads (x : Slot) (e : Engine) (q : EngQ) : (x.setEng e q).loads = x.loads := rfl
@[simp] theorem Slot.setEng_ldq (x : Slot) (e : Engine) (q : EngQ) : (x.setEng e q).ldq = x.ldq := rfl
@[simp] theorem Slot.setEng_mxq (x : Slot) (e : Engine) (q : EngQ) : (x.setEng e q).mxq = x.mxq := rfl
@[simp] theorem Slot.setEng_storeQ (x : Slot) (e : Engine) (q : EngQ) : (x.setEng e q).storeQ = x.storeQ := rfl
@[simp] theorem Slot.setEng_replay (x : Slot) (e : Engine) (q : EngQ) : (x.setEng e q).replay = x.replay := rfl
@[simp] theorem Slot.setEng_stuck (x : Slot) (e : Engine) (q : EngQ) : (x.setEng e q).stuck = x.stuck := rfl
@[simp] theorem Slot.setEng_journal (x : Slot) (e : Engine) (q : EngQ) : (x.setEng e q).journal = x.journal := rfl
@[simp] theorem Slot.setEng_landings (x : Slot) (e : Engine) (q : EngQ) : (x.setEng e q).landings = x.landings := rfl
@[simp] theorem Slot.setEng_fifoVis (x : Slot) (e : Engine) (q : EngQ) : (x.setEng e q).fifoVis = x.fifoVis := rfl
@[simp] theorem Slot.setEng_fifoRes (x : Slot) (e : Engine) (q : EngQ) : (x.setEng e q).fifoRes = x.fifoRes := rfl
@[simp] theorem Slot.setEng_routePop (x : Slot) (e : Engine) (q : EngQ) : (x.setEng e q).routePop = x.routePop := rfl
@[simp] theorem Slot.setEng_routePush (x : Slot) (e : Engine) (q : EngQ) : (x.setEng e q).routePush = x.routePush := rfl
@[simp] theorem Slot.setEng_redOpen (x : Slot) (e : Engine) (q : EngQ) : (x.setEng e q).redOpen = x.redOpen := rfl
@[simp] theorem Slot.setEng_redCount (x : Slot) (e : Engine) (q : EngQ) : (x.setEng e q).redCount = x.redCount := rfl
@[simp] theorem Slot.setEng_vrand (x : Slot) (e : Engine) (q : EngQ) : (x.setEng e q).vrand = x.vrand := rfl
@[simp] theorem Slot.setEng_draws (x : Slot) (e : Engine) (q : EngQ) : (x.setEng e q).draws = x.draws := rfl
@[simp] theorem Slot.setEng_rsc (x : Slot) (e : Engine) (q : EngQ) : (x.setEng e q).rsc = x.rsc := rfl
@[simp] theorem Slot.setEng_outcomes (x : Slot) (e : Engine) (q : EngQ) : (x.setEng e q).outcomes = x.outcomes := rfl
@[simp] theorem Slot.setEng_dom (x : Slot) (e : Engine) (q : EngQ) : (x.setEng e q).dom = x.dom := rfl
@[simp] theorem Slot.setEng_compVx (x : Slot) (e : Engine) (q : EngQ) : (x.setEng e q).compVx = x.compVx := rfl
@[simp] theorem Slot.setEng_compCp (x : Slot) (e : Engine) (q : EngQ) : (x.setEng e q).compCp = x.compCp := rfl
@[simp] theorem Slot.setEng_fences (x : Slot) (e : Engine) (q : EngQ) : (x.setEng e q).fences = x.fences := rfl
@[simp] theorem Slot.setEng_fencesAside (x : Slot) (e : Engine) (q : EngQ) : (x.setEng e q).fencesAside = x.fencesAside := rfl
@[simp] theorem Slot.setEng_hold (x : Slot) (e : Engine) (q : EngQ) : (x.setEng e q).hold = x.hold := rfl
@[simp] theorem Slot.setEng_ord (x : Slot) (e : Engine) (q : EngQ) : (x.setEng e q).ord = x.ord := rfl
@[simp] theorem Slot.setEng_job (x : Slot) (e : Engine) (q : EngQ) : (x.setEng e q).job = x.job := rfl
@[simp] theorem Slot.setEng_drain (x : Slot) (e : Engine) (q : EngQ) : (x.setEng e q).drain = x.drain := rfl
@[simp] theorem Slot.setEng_bwHold (x : Slot) (e : Engine) (q : EngQ) : (x.setEng e q).bwHold = x.bwHold := rfl
@[simp] theorem Slot.setEng_yieldVx (x : Slot) (e : Engine) (q : EngQ) : (x.setEng e q).yieldVx = x.yieldVx := rfl
@[simp] theorem Slot.setEng_yieldCp (x : Slot) (e : Engine) (q : EngQ) : (x.setEng e q).yieldCp = x.yieldCp := rfl
@[simp] theorem Slot.setEng_lendSince (x : Slot) (e : Engine) (q : EngQ) : (x.setEng e q).lendSince = x.lendSince := rfl
@[simp] theorem Slot.setEng_pairDue (x : Slot) (e : Engine) (q : EngQ) : (x.setEng e q).pairDue = x.pairDue := rfl
@[simp] theorem Slot.advance_r (x : Slot) (k : Nat) : (x.advance k).r = x.r := rfl
@[simp] theorem Slot.advance_y (x : Slot) (k : Nat) : (x.advance k).y = x.y := rfl
@[simp] theorem Slot.advance_tmpl (x : Slot) (k : Nat) : (x.advance k).tmpl = x.tmpl := rfl
@[simp] theorem Slot.advance_e (x : Slot) (k : Nat) : (x.advance k).e = x.e := rfl
@[simp] theorem Slot.advance_loads (x : Slot) (k : Nat) : (x.advance k).loads = x.loads := rfl
@[simp] theorem Slot.advance_ldq (x : Slot) (k : Nat) : (x.advance k).ldq = x.ldq := rfl
@[simp] theorem Slot.advance_mxq (x : Slot) (k : Nat) : (x.advance k).mxq = x.mxq := rfl
@[simp] theorem Slot.advance_storeQ (x : Slot) (k : Nat) : (x.advance k).storeQ = x.storeQ := rfl
@[simp] theorem Slot.advance_replay (x : Slot) (k : Nat) : (x.advance k).replay = x.replay := rfl
@[simp] theorem Slot.advance_stuck (x : Slot) (k : Nat) : (x.advance k).stuck = x.stuck := rfl
@[simp] theorem Slot.advance_journal (x : Slot) (k : Nat) : (x.advance k).journal = x.journal := rfl
@[simp] theorem Slot.advance_landings (x : Slot) (k : Nat) : (x.advance k).landings = x.landings := rfl
@[simp] theorem Slot.advance_fifoVis (x : Slot) (k : Nat) : (x.advance k).fifoVis = x.fifoVis := rfl
@[simp] theorem Slot.advance_fifoRes (x : Slot) (k : Nat) : (x.advance k).fifoRes = x.fifoRes := rfl
@[simp] theorem Slot.advance_routePop (x : Slot) (k : Nat) : (x.advance k).routePop = x.routePop := rfl
@[simp] theorem Slot.advance_routePush (x : Slot) (k : Nat) : (x.advance k).routePush = x.routePush := rfl
@[simp] theorem Slot.advance_redOpen (x : Slot) (k : Nat) : (x.advance k).redOpen = x.redOpen := rfl
@[simp] theorem Slot.advance_redCount (x : Slot) (k : Nat) : (x.advance k).redCount = x.redCount := rfl
@[simp] theorem Slot.advance_vrand (x : Slot) (k : Nat) : (x.advance k).vrand = x.vrand := rfl
@[simp] theorem Slot.advance_draws (x : Slot) (k : Nat) : (x.advance k).draws = x.draws := rfl
@[simp] theorem Slot.advance_rsc (x : Slot) (k : Nat) : (x.advance k).rsc = x.rsc := rfl
@[simp] theorem Slot.advance_outcomes (x : Slot) (k : Nat) : (x.advance k).outcomes = x.outcomes := rfl
@[simp] theorem Slot.advance_dom (x : Slot) (k : Nat) : (x.advance k).dom = x.dom := rfl
@[simp] theorem Slot.advance_compVx (x : Slot) (k : Nat) : (x.advance k).compVx = x.compVx := rfl
@[simp] theorem Slot.advance_compCp (x : Slot) (k : Nat) : (x.advance k).compCp = x.compCp := rfl
@[simp] theorem Slot.advance_fences (x : Slot) (k : Nat) : (x.advance k).fences = x.fences := rfl
@[simp] theorem Slot.advance_fencesAside (x : Slot) (k : Nat) : (x.advance k).fencesAside = x.fencesAside := rfl
@[simp] theorem Slot.advance_hold (x : Slot) (k : Nat) : (x.advance k).hold = x.hold := rfl
@[simp] theorem Slot.advance_ord (x : Slot) (k : Nat) : (x.advance k).ord = x.ord := rfl
@[simp] theorem Slot.advance_job (x : Slot) (k : Nat) : (x.advance k).job = x.job := rfl
@[simp] theorem Slot.advance_drain (x : Slot) (k : Nat) : (x.advance k).drain = x.drain := rfl
@[simp] theorem Slot.advance_bwHold (x : Slot) (k : Nat) : (x.advance k).bwHold = x.bwHold := rfl
@[simp] theorem Slot.advance_yieldVx (x : Slot) (k : Nat) : (x.advance k).yieldVx = x.yieldVx := rfl
@[simp] theorem Slot.advance_yieldCp (x : Slot) (k : Nat) : (x.advance k).yieldCp = x.yieldCp := rfl
@[simp] theorem Slot.advance_lendSince (x : Slot) (k : Nat) : (x.advance k).lendSince = x.lendSince := rfl
@[simp] theorem Slot.advance_pairDue (x : Slot) (k : Nat) : (x.advance k).pairDue = x.pairDue := rfl
@[simp] theorem Slot.advance_pc (x : Slot) (k : Nat) : (x.advance k).pc = x.pc + BitVec.ofNat 64 k := rfl

/-! ### Register files (04 R99, R100) -/

/-- A register that discards writes reads 0; any other reads what was written to it. -/
theorem Slot.getS_setS (x : Slot) (d r : BitVec 5) (v : Word) :
    (x.setS d v).getS r = if r = d ∧ d ≠ 0#5 then v else x.getS r := by
  unfold Slot.getS Slot.setS
  by_cases hd : d = 0#5
  · simp [hd]
  · by_cases hr : r = 0#5
    · subst hr
      have : ¬(0#5 = d) := fun h => hd h.symm
      simp [hd, this]
    · by_cases h : r = d
      · subst h; simp [hr]
      · have : r.toNat ≠ d.toNat := fun e => h (BitVec.eq_of_toNat_eq e)
        simp [hd, hr, h, mget_mput_ne _ _ _ this]

@[simp] theorem Slot.getS_advance (x : Slot) (k : Nat) (r : BitVec 5) : (x.advance k).getS r = x.getS r := rfl
@[simp] theorem Slot.getP_advance (x : Slot) (k : Nat) (r : BitVec 3) : (x.advance k).getP r = x.getP r := rfl

/-- A bit that was written reads as written, any other as before. -/
theorem getLsbD_putBit {n : Nat} (x : BitVec n) (i j : Nat) (b : Bool) :
    (putBit x i b).getLsbD j = if j = i ∧ i < n then b else x.getLsbD j := by
  unfold putBit
  cases b <;> by_cases hj : j = i <;> by_cases hn : i < n <;> by_cases hx : j < n <;>
    simp_all <;> omega

/-- P0 reads 1; any other predicate reads what was written to it. -/
theorem Slot.getP_setP (x : Slot) (d r : BitVec 3) (b : Bool) :
    (x.setP d b).getP r = if r = d ∧ d ≠ 0#3 then b else x.getP r := by
  unfold Slot.getP Slot.setP
  by_cases hd : d = 0#3
  · simp [hd]
  · by_cases hr : r = 0#3
    · subst hr
      have : ¬(0#3 = d) := fun h => hd h.symm
      simp [hd, this]
    · have hlt : d.toNat < 8 := d.isLt
      by_cases h : r = d
      · subst h; simpa [hr, hlt] using getLsbD_putBit x.r.p r.toNat r.toNat b
      · have : r.toNat ≠ d.toNat := fun e => h (BitVec.eq_of_toNat_eq e)
        simp [hd, hr, h, getLsbD_putBit, this]

end Sys2Proof.Machine
end

