-- ==== Sys2Proof/Laws/Memory.lean ====
section
/-! SUPPORT. The laws of memory: a byte reads as it was written, other bytes keep, and every memory operation keeps the canonical
form (`Memory.wf`). -/
namespace Sys2Proof.Machine

/-! ### The memory list -/

theorem mabove_filter {b : Nat} {m : List Host.Cell} (p : Host.Cell → Bool) (h : mabove b m = true) :
    mabove b (m.filter p) = true := by
  induction m generalizing b with
  | nil => rfl
  | cons e r ih =>
    obtain ⟨k, v⟩ := e
    simp only [mabove, Bool.and_eq_true, decide_eq_true_eq] at h
    simp only [List.filter]
    split
    · simp only [mabove, Bool.and_eq_true, decide_eq_true_eq]; exact ⟨h.1, ih h.2⟩
    · exact mabove_mono (ih h.2) (by omega)

/-- Leaving out cells keeps the canonical form. -/
theorem Memory.wf_filter {m : List Host.Cell} (p : Host.Cell → Bool) (h : Memory.wf m = true) : Memory.wf (m.filter p) = true := by
  simp only [Memory.wf, Bool.and_eq_true] at *
  refine ⟨?_, ?_⟩
  · cases m with
    | nil => rfl
    | cons e r =>
      obtain ⟨k, v⟩ := e
      simp only [List.filter]
      split
      · exact mabove_filter p h.1
      · have := mabove_filter p h.1
        cases hf : r.filter p with
        | nil => rfl
        | cons e' r' =>
          obtain ⟨k', v'⟩ := e'
          rw [hf] at this
          simp only [mabove, Bool.and_eq_true] at this
          exact this.2
  · simp only [List.all_eq_true, List.mem_filter] at *
    exact fun x hx => h.2 x hx.1

theorem mabove_write {b k : Nat} {m : List Host.Cell} (v : Byte) (h : mabove b m = true) (hk : b < k) :
    mabove b (Memory.write m k v) = true := by
  induction m generalizing b with
  | nil => by_cases hv : v = 0#8 <;> simp [Memory.write, mabove, hv, hk]
  | cons e r ih =>
    obtain ⟨j, w⟩ := e
    simp only [mabove, Bool.and_eq_true, decide_eq_true_eq] at h
    simp only [Memory.write]
    split
    · next hj => by_cases hv : v = 0#8 <;> simp [mabove, hv, hk, hj, h.1, h.2]
    · split
      · next hj => subst hj; by_cases hv : v = 0#8 <;> simp [mabove, hv, h.1, h.2]; exact mabove_mono h.2 (by omega)
      · next h1 h2 => simp only [mabove, Bool.and_eq_true, decide_eq_true_eq]; exact ⟨h.1, ih h.2 (by omega)⟩

theorem all_write {m : List Host.Cell} (k : Nat) (v : Byte) (h : (m.all fun c => decide (c.2 ≠ 0#8)) = true) :
    ((Memory.write m k v).all fun c => decide (c.2 ≠ 0#8)) = true := by
  induction m with
  | nil => by_cases hv : v = 0#8 <;> simp [Memory.write, hv]
  | cons e r ih =>
    obtain ⟨j, w⟩ := e
    simp only [List.all_cons, Bool.and_eq_true] at h
    simp only [Memory.write]
    split
    · by_cases hv : v = 0#8
      · simp only [hv, if_true, List.all_cons, Bool.and_eq_true]; exact h
      · simp only [hv, if_false, List.all_cons, Bool.and_eq_true]; exact ⟨by simp [hv], h⟩
    · split
      · by_cases hv : v = 0#8
        · simp only [hv, if_true]; exact h.2
        · simp only [hv, if_false, List.all_cons, Bool.and_eq_true]; exact ⟨by simp [hv], h.2⟩
      · simp only [List.all_cons, Bool.and_eq_true]; exact ⟨h.1, ih h.2⟩

/-- Writing a byte keeps the canonical form. -/
theorem Memory.wf_write {m : List Host.Cell} (k : Nat) (v : Byte) (h : Memory.wf m = true) : Memory.wf (Memory.write m k v) = true := by
  simp only [Memory.wf, Bool.and_eq_true] at *
  refine ⟨?_, all_write k v h.2⟩
  cases m with
  | nil => by_cases hv : v = 0#8 <;> simp [Memory.write, mwf, mabove, hv]
  | cons e r =>
    obtain ⟨j, w⟩ := e
    have h1 := h.1
    simp only [mwf] at h1
    simp only [Memory.write]
    split
    · next hj => by_cases hv : v = 0#8 <;> simp [mwf, mabove, hv, hj, h1]
    · split
      · next hj =>
        subst hj
        by_cases hv : v = 0#8
        · simp only [hv, if_true]
          cases r with
          | nil => rfl
          | cons e' r' =>
            obtain ⟨k', v'⟩ := e'
            simp only [mabove, Bool.and_eq_true] at h1
            exact h1.2
        · simp [mwf, hv, h1]
      · next h2 h3 => simp only [mwf]; exact mabove_write v h1 (by omega)

/-- A key below every listed key reads 0. -/
theorem Memory.read_below {b k : Nat} {m : List Host.Cell} (h : mabove b m = true) (hk : k ≤ b) : Memory.read m k = 0#8 := by
  induction m generalizing b with
  | nil => rfl
  | cons e r ih =>
    obtain ⟨j, w⟩ := e
    simp only [mabove, Bool.and_eq_true, decide_eq_true_eq] at h
    have hj : k ≠ j := by omega
    have := ih h.2 (by omega)
    simpa [Memory.read, mget, hj] using this

theorem Memory.read_write_above {b k : Nat} {m : List Host.Cell} (j : Nat) (v : Byte) (h : mabove b m = true) :
    Memory.read (Memory.write m k v) j = if j = k then v else Memory.read m j := by
  induction m generalizing b with
  | nil =>
    by_cases hv : v = 0#8 <;> by_cases hj : j = k <;> simp [Memory.write, Memory.read, mget, hv, hj]
  | cons e r ih =>
    obtain ⟨i, w⟩ := e
    simp only [mabove, Bool.and_eq_true, decide_eq_true_eq] at h
    simp only [Memory.write]
    split
    · next hi =>
      by_cases hj : j = k
      · subst hj
        have hr : Memory.read r j = 0#8 := Memory.read_below h.2 (by omega)
        have hji : j ≠ i := by omega
        by_cases hv : v = 0#8
        · simp only [hv, if_true, Memory.read, mget, if_neg hji]; exact hr
        · simp [hv, Memory.read, mget]
      · by_cases hv : v = 0#8 <;> simp [hv, hj, Memory.read, mget]
    · split
      · next h1 hi =>
        subst hi
        by_cases hj : j = k
        · subst hj
          have hr : Memory.read r j = 0#8 := Memory.read_below h.2 (by omega)
          by_cases hv : v = 0#8
          · simp only [hv, if_true]; exact hr
          · simp [hv, Memory.read, mget]
        · by_cases hv : v = 0#8 <;> simp [hv, hj, Memory.read, mget]
      · next h1 hi =>
        have ih' := ih h.2
        by_cases hji : j = i
        · subst hji
          have hjk : j ≠ k := fun e => hi e.symm
          simp [Memory.read, mget, hjk]
        · simp only [Memory.read, mget, if_neg hji] at *
          exact ih'

/-- Read after write: the written key reads the byte, every other key reads as before. -/
theorem Memory.read_write {m : List Host.Cell} (k j : Nat) (v : Byte) (h : Memory.wf m = true) :
    Memory.read (Memory.write m k v) j = if j = k then v else Memory.read m j := by
  simp only [Memory.wf, Bool.and_eq_true] at h
  cases m with
  | nil => exact Memory.read_write_above (b := 0) j v rfl
  | cons e r =>
    obtain ⟨i, w⟩ := e
    have h1 := h.1
    simp only [mwf] at h1
    simp only [Memory.write]
    split
    · next hi =>
      have hb : mabove k ((i, w) :: r) = true := by simp [mabove, hi, h1]
      have := Memory.read_write_above (k := k) j v hb
      simpa [Memory.write, hi] using this
    · split
      · next hk hi =>
        subst hi
        by_cases hj : j = k
        · subst hj
          have hr : Memory.read r j = 0#8 := Memory.read_below h1 (by omega)
          by_cases hv : v = 0#8
          · simp only [hv, if_true]; exact hr
          · simp [hv, Memory.read, mget]
        · by_cases hv : v = 0#8 <;> simp [hv, hj, Memory.read, mget]
      · next hk hi =>
        have ih := Memory.read_write_above (k := k) j v h1
        by_cases hji : j = i
        · subst hji
          have hjk : j ≠ k := fun e => hi e.symm
          simp [Memory.read, mget, hjk]
        · simp only [Memory.read, mget, if_neg hji] at *
          exact ih

/-! ### Memory operations of the state -/

/-- Making units fresh keeps the canonical form. -/
theorem State.freshen_inv {s : State} (p : Nat → Bool) (h : s.Inv) : (s.freshen p).Inv := Memory.wf_filter _ h

/-- Opening a unit keeps the canonical form. -/
theorem State.open_inv {s : State} (k : Nat) (h : s.Inv) : (s.open_ k).Inv := by
  unfold State.open_
  split
  · show Memory.wf (s.freshen fun u => u == Machine.unitOf k).mem = true
    exact State.freshen_inv _ h
  · exact h

/-- Writing a byte at its home keeps the canonical form. -/
theorem State.putByte_inv {s : State} (k : Nat) (b : Byte) (h : s.Inv) : (s.putByte k b).Inv :=
  Memory.wf_write k b (State.open_inv k h)

theorem upTo_write_wf (n : Nat) (f : Nat → Nat) (g : Nat → Byte) {m : List Host.Cell} (h : Memory.wf m = true) :
    Memory.wf (upTo n (fun i m => Memory.write m (f i) (g i)) m) = true := by
  induction n with
  | zero => exact h
  | succ n ih => exact Memory.wf_write _ _ ih

theorem resealMem_wf (old : Option Nat) (key base : Nat) {m : List Host.Cell} (h : Memory.wf m = true) :
    Memory.wf (resealMem old key base m) = true := by
  unfold resealMem
  split
  · split
    · exact h
    · exact upTo_write_wf 32 (fun i => base + i) _ h
  · exact h

/-- Bringing a sector under a key keeps the canonical form. -/
theorem State.reseal_inv {s : State} (key k : Nat) (h : s.Inv) : (s.reseal key k).Inv :=
  resealMem_wf _ _ _ (State.open_inv k h)

/-- A fold of steps that each keep a property keeps it. -/
theorem foldl_keeps {α β : Type} (P : β → Prop) (f : β → α → β) (l : List α) (b : β) (hf : ∀ b a, P b → P (f b a)) (hb : P b) :
    P (l.foldl f b) := by
  induction l generalizing b with
  | nil => exact hb
  | cons a r ih => exact ih _ (hf _ _ hb)

/-- A count of steps that each keep a property keeps it. -/
theorem upTo_holds {α : Type} (P : α → Prop) (f : Nat → α → α) (n : Nat) (x : α) (hf : ∀ i x, P x → P (f i x)) (hx : P x) :
    P (upTo n f x) := by
  induction n generalizing x with
  | zero => exact hx
  | succ n ih => exact hf _ _ (ih _ hx)

/-- Whatever leaves the bytes as they are keeps the canonical form. -/
theorem State.inv_of_mem {s t : State} (h : s.Inv) (e : t.mem = s.mem) : t.Inv := by rw [State.Inv, e]; exact h

/-- Updates beside memory keep the canonical form. -/
theorem State.upsets_inv {t : State} (u : SMap Nat) (h : t.Inv) : ({ t with upsets := u } : State).Inv := h
theorem State.regionUse_inv {t : State} (u : SMap Nat) (h : t.Inv) : ({ t with regionUse := u } : State).Inv := h
theorem State.setStack_inv {t : State} (k : Nat) (x : Stack) (h : t.Inv) : (t.setStack k x).Inv := h
theorem State.setTile_inv {t : State} (k : Nat) (x : Tile) (h : t.Inv) : (t.setTile k x).Inv := h
theorem State.countCtx_inv {t : State} (c i : Nat) (h : t.Inv) : (t.countCtx c i).Inv := h
theorem State.respond_inv {t : State} (k : Nat) (m : LinkMsg) (h : t.Inv) : (t.respond k m).Inv := h

/-- A write under a key id keeps the canonical form. -/
theorem State.writeKeyFrom_inv {s : State} (o : Origin) (kid k : Nat) (b : Byte) (h : s.Inv) : (s.writeKeyFrom o kid k b).Inv := by
  unfold State.writeKeyFrom
  split
  · split
    · exact h
    · split
      · exact h
      · exact State.putByte_inv _ _ (State.reseal_inv _ _ h)
  · exact State.putByte_inv _ _ h

/-- Marking poison keeps the canonical form. -/
theorem State.markPoison_inv {s : State} (k : Nat) (h : s.Inv) : (s.markPoison k).Inv :=
  State.inv_of_mem (State.open_inv k h) rfl

/-- Writing a table entry keeps the canonical form. -/
theorem State.setEntry_inv {s : State} (c i v : Nat) (h : s.Inv) : (s.setEntry c i v).Inv := by
  unfold State.setEntry
  split
  · exact upTo_holds State.Inv _ _ _ (fun _ _ h => State.putByte_inv _ _ h) (State.inv_of_mem h rfl)
  · exact State.inv_of_mem h rfl

/-- Noting a request changes no byte. -/
theorem State.noteRequest_mem (s : State) (o : Origin) (w : Option (Word × BitVec 512)) (kid k : Nat) :
    (s.noteRequest o w kid k).mem = s.mem := by
  unfold State.noteRequest
  split <;> rfl

/-- What a read meets keeps the canonical form. -/
theorem State.meetUnit_inv {s : State} (kid k : Nat) (h : s.Inv) : (s.meetUnit kid k).Inv := by
  unfold State.meetUnit
  split
  · have h1 : ((s.countCorrected k).markFound k).Inv := by
      unfold State.markFound
      have h0 : (s.countCorrected k).Inv := by unfold State.countCorrected; split <;> exact h
      split
      · exact State.markPoison_inv _ h0
      · exact h0
    dsimp only
    split
    · exact State.inv_of_mem h1 rfl
    · exact h1
  · split
    · exact State.inv_of_mem h rfl
    · split
      · exact State.markPoison_inv _ h
      · exact h

/-- Noting reads keeps the canonical form. -/
theorem State.noteReadsFrom_inv {s : State} (o : Origin) (ks : List (Nat × Nat)) (h : s.Inv) : (s.noteReadsFrom o ks).Inv := by
  unfold State.noteReadsFrom
  exact foldl_keeps State.Inv _ _ _ (fun _ _ h => State.meetUnit_inv _ _ h)
    (foldl_keeps State.Inv _ _ _ (fun _ _ h => State.inv_of_mem h (State.noteRequest_mem _ _ _ _ _)) h)

/-- A merge keeps the canonical form. -/
theorem State.mergeUnit_inv {s : State} (k : Nat) (h : s.Inv) : (s.mergeUnit k).Inv := by
  unfold State.mergeUnit
  split
  · exact State.upsets_inv _ (upTo_holds State.Inv _ _ _ (fun _ _ h => State.putByte_inv _ _ h) h)
  · exact h

/-- Page-map entries that became stale change no byte. -/
theorem State.pmapStale_inv {old t : State} (ks : List Nat) (h : t.Inv) : (State.pmapStale old t ks).Inv := by
  unfold State.pmapStale
  refine foldl_keeps State.Inv _ _ _ (fun s i h => ?_) h
  split
  · exact State.inv_of_mem h rfl
  · exact h

/-- Writing bytes together keeps the canonical form. -/
theorem State.writeAllFrom_inv {s : State} (o : Origin) (cells : List ((Nat × Nat) × Byte)) (h : s.Inv) : (s.writeAllFrom o cells).Inv := by
  unfold State.writeAllFrom
  refine State.pmapStale_inv _ ?_
  refine foldl_keeps State.Inv _ _ _ (fun _ _ h => State.inv_of_mem h (State.noteRequest_mem _ _ _ _ _)) ?_
  refine foldl_keeps State.Inv _ _ _ (fun t k h => ?_) ?_
  · dsimp only; split <;> split <;> exact h
  · exact foldl_keeps State.Inv _ _ _ (fun _ _ h => State.writeKeyFrom_inv _ _ _ _ h)
      (foldl_keeps State.Inv _ _ _ (fun _ _ h => State.mergeUnit_inv _ (State.meetUnit_inv _ _ h)) h)

/-! ### Seasons and queues of base dies -/

/-- A season map update keeps the canonical form. -/
theorem State.mapUpdate_inv {s : State} (event i : Nat) (h : s.Inv) : (s.mapUpdate event i).Inv := by
  unfold State.mapUpdate
  split
  · exact State.setEntry_inv _ _ _ (State.setEntry_inv _ _ _ (State.freshen_inv _ h))
  · exact State.setEntry_inv _ _ _ (State.setEntry_inv _ _ _ h)
  · refine State.setEntry_inv _ _ _ ?_
    split
    · exact h
    · refine State.setEntry_inv _ _ _ ?_
      split
      · exact State.freshen_inv _ h
      · exact h
  · exact State.inv_of_mem (State.setEntry_inv _ _ _ h) rfl
  · exact State.freshen_inv _ h
  · exact h

/-- What reaches a stack from its link keeps the canonical form. -/
theorem State.takeSeason_inv {s : State} (k : Nat) (h : s.Inv) : (s.takeSeason k).Inv := by
  unfold State.takeSeason
  split
  · exact foldl_keeps State.Inv _ _ _ (fun _ _ h => State.mapUpdate_inv _ _ h) (State.inv_of_mem h rfl)
  · exact h

/-- A wake keeps the canonical form. -/
theorem State.wakeRegion_inv {s : State} (i c : Nat) (h : s.Inv) : (s.wakeRegion i c).Inv := by
  unfold State.wakeRegion
  refine State.setEntry_inv _ _ _ ?_
  split
  · exact State.freshen_inv _ h
  · exact h
theorem State.wakeBank_inv {s : State} (t b : Nat) (c : BitVec 2) (h : s.Inv) : (s.wakeBank t b c).Inv := by
  unfold State.wakeBank
  refine State.inv_of_mem ?_ rfl
  split
  · exact State.freshen_inv _ h
  · exact h

/-- A request that is performed keeps the canonical form. -/
theorem State.performReq_inv {s : State} (r : PcReq) (h : s.Inv) : (s.performReq r).Inv := by
  unfold State.performReq
  split
  · exact State.respond_inv _ _ (State.noteReadsFrom_inv _ _ h)
  · dsimp only
    refine State.respond_inv _ _ ?_
    split
    · exact State.inv_of_mem h (State.noteRequest_mem _ _ _ _ _)
    · exact State.writeAllFrom_inv _ _ h
theorem State.serveReq_inv {s : State} (k pc i : Nat) (h : s.Inv) : (s.serveReq k pc i).Inv := by
  unfold State.serveReq
  dsimp only
  split
  · exact h
  · exact State.performReq_inv _ (State.setStack_inv _ _ h)

/-- A command clock keeps the canonical form. -/
theorem State.pcClock_inv {s : State} (k pc : Nat) (h : s.Inv) : (s.pcClock k pc).Inv := by
  unfold State.pcClock
  dsimp only
  have go : ∀ {t : State}, t.Inv → ∀ (c : Bool) (r : Option PcReq), (if c = true then
      t.setStack k ((t.stack k).command t.dcc.toNat .refresh (hbmKey k (pc * 256)) none)
    else match r with
      | some r => t.setStack k ((t.stack k).rowStep t.dcc.toNat r.key0)
      | none => t).Inv := by
    intro t h c r
    split
    · exact h
    · split <;> exact h
  refine go ?_ _ _
  split
  · exact State.serveReq_inv _ _ _ h
  · exact h
theorem State.stackClock_inv {s : State} (k : Nat) (h : s.Inv) : (s.stackClock k).Inv :=
  foldl_keeps State.Inv _ _ _ (fun _ _ h => State.pcClock_inv _ _ h) h

/-! ### Accesses -/

/-- An access that arrives keeps the canonical form. -/
theorem State.touchFrom_inv {s : State} (o : Origin) (ctx : Nat) (c : Nat × Nat) (h : s.Inv) : (s.touchFrom o ctx c).Inv := by
  unfold State.touchFrom
  dsimp only
  split
  · split
    · exact h
    · refine State.regionUse_inv _ ?_
      split
      · exact h
      · exact State.countCtx_inv _ _ (State.wakeRegion_inv _ _ h)
  · refine State.setTile_inv _ _ ?_
    split
    · exact h
    · exact State.countCtx_inv _ _ (State.wakeBank_inv _ _ _ h)
theorem State.touchAllFrom_inv {s : State} (o : Origin) (ctx : Nat) (ks : List (Nat × Nat)) (h : s.Inv) : (s.touchAllFrom o ctx ks).Inv := by
  unfold State.touchAllFrom
  refine foldl_keeps State.Inv _ _ _ (fun s u h => ?_) ?_
  · refine upTo_holds State.Inv _ _ _ (fun _ _ h => ?_) h
    split
    · exact State.serveReq_inv _ _ _ h
    · exact h
  · exact foldl_keeps State.Inv _ _ _ (fun _ _ h => State.touchFrom_inv _ _ _ h)
      (foldl_keeps State.Inv _ _ _ (fun _ _ h => upTo_holds State.Inv _ _ _ (fun _ _ h => State.takeSeason_inv _ h) h) h)

/-- A read keeps the canonical form. -/
theorem State.reportPoison_inv {s : State} (ctx : Nat) (ks : List (Nat × Nat)) (h : s.Inv) : (s.reportPoison ctx ks).Inv :=
  State.noteReadsFrom_inv _ _ (State.touchAllFrom_inv _ _ _ h)
theorem State.loadKeys_inv {s : State} (ctx : Nat) (ks : List (Nat × Nat)) (h : s.Inv) : (s.loadKeys ctx ks).1.Inv :=
  State.reportPoison_inv _ _ h

/-- A write keeps the canonical form. -/
theorem State.writeKeys_inv {s : State} (ctx : Nat) (ks : List (Nat × Nat)) (bs : List Byte) (h : s.Inv) : (s.writeKeys ctx ks bs).Inv :=
  State.writeAllFrom_inv _ _ (State.touchAllFrom_inv _ _ _ h)

/-- Counting units moved changes no byte. -/
theorem State.heatAll_inv {s : State} (vas : List Nat) (h : s.Inv) : (s.heatAll vas).Inv :=
  foldl_keeps State.Inv _ _ _ (fun _ _ h => State.inv_of_mem h rfl) h

/-- Accesses through buffers keep the canonical form. -/
theorem State.readVa_inv {s : State} (o : Origin) (i : Issuer) (va len right : Nat) (h : s.Inv) : (s.readVa o i va len right).1.Inv := by
  unfold State.readVa
  split
  · exact h
  · exact State.heatAll_inv _ (State.noteReadsFrom_inv _ _ (State.touchAllFrom_inv _ _ _ h))
theorem State.writeVa_inv {s : State} (o : Origin) (i : Issuer) (va right : Nat) (bs : List Byte) (h : s.Inv) :
    (s.writeVa o i va right bs).1.Inv := by
  unfold State.writeVa
  split
  · exact h
  · exact State.heatAll_inv _ (State.writeAllFrom_inv _ _ (State.touchAllFrom_inv _ _ _ h))

/-- Memory after reset is canonical. -/
theorem State.reset_inv : State.reset.Inv := rfl

end Sys2Proof.Machine
end

