-- ==== Sys2Proof/Laws/Frames.lean ====
section
/-! SUPPORT. What the memory system may change. A read or a write, with all that it wakes, drains and reports on its way, changes
memory, the tables, base dies, tiles' seasons and event counts; slots, tasks, futures, host queues and the rest stay. -/
namespace Sys2Proof.Machine

/-- t differs from s at most in what the memory system changes. -/
def State.OnlyAccess (s t : State) : Prop := t =
  { s with
    mem := t.mem, used := t.used, poison := t.poison, upsets := t.upsets, sealed := t.sealed, tab := t.tab, pend := t.pend
    hbm := t.hbm, tiles := t.tiles, regionUse := t.regionUse, ctxEvents := t.ctxEvents, devEvents := t.devEvents }

theorem State.OnlyAccess.refl (s : State) : s.OnlyAccess s := rfl

theorem State.OnlyAccess.trans {s t u : State} (h : s.OnlyAccess t) (g : t.OnlyAccess u) : s.OnlyAccess u := by
  unfold State.OnlyAccess at *
  rw [h] at g
  exact g

theorem State.OnlyAccess.slots {s t : State} (h : s.OnlyAccess t) : t.slots = s.slots := by rw [h]
theorem State.OnlyAccess.futures {s t : State} (h : s.OnlyAccess t) : t.futures = s.futures := by rw [h]
theorem State.OnlyAccess.taskQ {s t : State} (h : s.OnlyAccess t) : t.taskQ = s.taskQ := by rw [h]
theorem State.OnlyAccess.hq {s t : State} (h : s.OnlyAccess t) : t.hq = s.hq := by rw [h]
theorem State.OnlyAccess.models {s t : State} (h : s.OnlyAccess t) : t.models = s.models := by rw [h]
theorem State.OnlyAccess.cur {s t : State} (h : s.OnlyAccess t) : t.cur = s.cur := by rw [h]

variable {z : State}

theorem State.freshen_only {s : State} (p : Nat → Bool) (h : z.OnlyAccess s) : z.OnlyAccess (s.freshen p) := h.trans rfl
theorem State.open_only {s : State} (k : Nat) (h : z.OnlyAccess s) : z.OnlyAccess (s.open_ k) := by
  unfold State.open_
  split
  · exact h.trans rfl
  · exact h
theorem State.putByte_only {s : State} (k : Nat) (b : Byte) (h : z.OnlyAccess s) : z.OnlyAccess (s.putByte k b) :=
  (State.open_only k h).trans rfl
theorem State.reseal_only {s : State} (key k : Nat) (h : z.OnlyAccess s) : z.OnlyAccess (s.reseal key k) := (State.open_only k h).trans rfl
/-- Updates beside memory change nothing else. -/
theorem State.upsets_only {t : State} (u : SMap Nat) (h : z.OnlyAccess t) : z.OnlyAccess ({ t with upsets := u } : State) := h.trans rfl
theorem State.regionUse_only {t : State} (u : SMap Nat) (h : z.OnlyAccess t) : z.OnlyAccess ({ t with regionUse := u } : State) := h.trans rfl
theorem State.setStack_only {t : State} (k : Nat) (x : Stack) (h : z.OnlyAccess t) : z.OnlyAccess (t.setStack k x) := h.trans rfl
theorem State.setTile_only {t : State} (k : Nat) (x : Tile) (h : z.OnlyAccess t) : z.OnlyAccess (t.setTile k x) := h.trans rfl
theorem State.countCtx_only {t : State} (c i : Nat) (h : z.OnlyAccess t) : z.OnlyAccess (t.countCtx c i) := h.trans rfl
theorem State.respond_only {t : State} (k : Nat) (m : LinkMsg) (h : z.OnlyAccess t) : z.OnlyAccess (t.respond k m) := h.trans rfl

/-- A write under a key id changes nothing else. -/
theorem State.writeKeyFrom_only {s : State} (o : Origin) (kid k : Nat) (b : Byte) (h : z.OnlyAccess s) : z.OnlyAccess (s.writeKeyFrom o kid k b) := by
  unfold State.writeKeyFrom
  split
  · split
    · exact h
    · split
      · exact h
      · exact State.putByte_only _ _ (State.reseal_only _ _ h)
  · exact State.putByte_only _ _ h

/-- Marking poison changes nothing else. -/
theorem State.markPoison_only {s : State} (k : Nat) (h : z.OnlyAccess s) : z.OnlyAccess (s.markPoison k) :=
  (State.open_only k h).trans rfl

/-- Writing a table entry changes nothing else. -/
theorem State.setEntry_only {s : State} (c i v : Nat) (h : z.OnlyAccess s) : z.OnlyAccess (s.setEntry c i v) := by
  unfold State.setEntry
  split
  · exact upTo_holds z.OnlyAccess _ _ _ (fun _ _ h => State.putByte_only _ _ h) (h.trans rfl)
  · exact h.trans rfl

/-- Noting a request changes its stack alone. -/
theorem State.noteRequest_only {s : State} (o : Origin) (w : Option (Word × BitVec 512)) (kid k : Nat) (h : z.OnlyAccess s) :
    z.OnlyAccess (s.noteRequest o w kid k) := by
  unfold State.noteRequest
  split <;> exact h.trans rfl

/-- What a read meets changes nothing else. -/
theorem State.meetUnit_only {s : State} (kid k : Nat) (h : z.OnlyAccess s) : z.OnlyAccess (s.meetUnit kid k) := by
  unfold State.meetUnit
  split
  · have h1 : z.OnlyAccess ((s.countCorrected k).markFound k) := by
      unfold State.markFound
      have h0 : z.OnlyAccess (s.countCorrected k) := by unfold State.countCorrected; split <;> first | exact h | exact h.trans rfl
      split
      · exact State.markPoison_only _ h0
      · exact h0
    dsimp only
    split
    · exact h1.trans rfl
    · exact h1
  · split
    · exact h.trans rfl
    · split
      · exact State.markPoison_only _ h
      · exact h

/-- Noting reads changes nothing else. -/
theorem State.noteReadsFrom_only {s : State} (o : Origin) (ks : List (Nat × Nat)) (h : z.OnlyAccess s) : z.OnlyAccess (s.noteReadsFrom o ks) := by
  unfold State.noteReadsFrom
  exact foldl_keeps z.OnlyAccess _ _ _ (fun _ _ h => State.meetUnit_only _ _ h)
    (foldl_keeps z.OnlyAccess _ _ _ (fun _ _ h => State.noteRequest_only _ _ _ _ h) h)

/-- A merge changes nothing else. -/
theorem State.mergeUnit_only {s : State} (k : Nat) (h : z.OnlyAccess s) : z.OnlyAccess (s.mergeUnit k) := by
  unfold State.mergeUnit
  split
  · exact State.upsets_only _ (upTo_holds z.OnlyAccess _ _ _ (fun _ _ h => State.putByte_only _ _ h) h)
  · exact h

/-- Page-map entries that became stale change nothing else. -/
theorem State.pmapStale_only {old t : State} (ks : List Nat) (h : z.OnlyAccess t) : z.OnlyAccess (State.pmapStale old t ks) := by
  unfold State.pmapStale
  refine foldl_keeps z.OnlyAccess _ _ _ (fun s i h => ?_) h
  split
  · exact h.trans rfl
  · exact h

/-- Writing bytes together changes nothing else. -/
theorem State.writeAllFrom_only {s : State} (o : Origin) (cells : List ((Nat × Nat) × Byte)) (h : z.OnlyAccess s) : z.OnlyAccess (s.writeAllFrom o cells) := by
  unfold State.writeAllFrom
  refine State.pmapStale_only _ ?_
  refine foldl_keeps z.OnlyAccess _ _ _ (fun _ _ h => State.noteRequest_only _ _ _ _ h) ?_
  refine foldl_keeps z.OnlyAccess _ _ _ (fun t k h => ?_) ?_
  · dsimp only; split <;> split <;> first | exact h | exact h.trans rfl
  · exact foldl_keeps z.OnlyAccess _ _ _ (fun _ _ h => State.writeKeyFrom_only _ _ _ _ h)
      (foldl_keeps z.OnlyAccess _ _ _ (fun _ _ h => State.mergeUnit_only _ (State.meetUnit_only _ _ h)) h)

/-! ### Seasons and queues of base dies -/

/-- A wake changes nothing else. -/
theorem State.wakeRegion_only {s : State} (i c : Nat) (h : z.OnlyAccess s) : z.OnlyAccess (s.wakeRegion i c) := by
  unfold State.wakeRegion
  refine State.setEntry_only _ _ _ ?_
  split
  · exact State.freshen_only _ h
  · exact h
theorem State.wakeBank_only {s : State} (t b : Nat) (c : BitVec 2) (h : z.OnlyAccess s) : z.OnlyAccess (s.wakeBank t b c) := by
  unfold State.wakeBank
  refine State.setTile_only _ _ ?_
  split
  · exact State.freshen_only _ h
  · exact h

/-- A season map update changes nothing else. -/
theorem State.mapUpdate_only {s : State} (event i : Nat) (h : z.OnlyAccess s) : z.OnlyAccess (s.mapUpdate event i) := by
  unfold State.mapUpdate
  split
  · exact State.setEntry_only _ _ _ (State.setEntry_only _ _ _ (State.freshen_only _ h))
  · exact State.setEntry_only _ _ _ (State.setEntry_only _ _ _ h)
  · refine State.setEntry_only _ _ _ ?_
    split
    · exact h
    · exact State.wakeRegion_only _ _ h
  · exact (State.setEntry_only _ _ _ h).trans rfl
  · exact State.freshen_only _ h
  · exact h

/-- What reaches a stack from its link changes nothing else. -/
theorem State.takeSeason_only {s : State} (k : Nat) (h : z.OnlyAccess s) : z.OnlyAccess (s.takeSeason k) := by
  unfold State.takeSeason
  split
  · exact foldl_keeps z.OnlyAccess _ _ _ (fun _ _ h => State.mapUpdate_only _ _ h) (h.trans rfl)
  · exact h

/-- A request that is performed changes nothing else. -/
theorem State.performReq_only {s : State} (r : PcReq) (h : z.OnlyAccess s) : z.OnlyAccess (s.performReq r) := by
  unfold State.performReq
  split
  · exact State.respond_only _ _ (State.noteReadsFrom_only _ _ h)
  · dsimp only
    refine State.respond_only _ _ ?_
    split
    · exact State.noteRequest_only _ _ _ _ h
    · exact State.writeAllFrom_only _ _ h
theorem State.serveReq_only {s : State} (k pc i : Nat) (h : z.OnlyAccess s) : z.OnlyAccess (s.serveReq k pc i) := by
  unfold State.serveReq
  dsimp only
  split
  · exact h
  · exact State.performReq_only _ (State.setStack_only _ _ h)

/-- A command clock changes nothing else. -/
theorem State.pcClock_only {s : State} (k pc : Nat) (h : z.OnlyAccess s) : z.OnlyAccess (s.pcClock k pc) := by
  unfold State.pcClock
  dsimp only
  have go : ∀ {t : State}, z.OnlyAccess t → ∀ (c : Bool) (r : Option PcReq), z.OnlyAccess (if c = true then
      t.setStack k ((t.stack k).command t.dcc.toNat .refresh (hbmKey k (pc * 256)) none)
    else match r with
      | some r => t.setStack k ((t.stack k).rowStep t.dcc.toNat r.key0)
      | none => t) := by
    intro t h c r
    split
    · exact h.trans rfl
    · split <;> first | exact h | exact h.trans rfl
  refine go ?_ _ _
  split
  · exact State.serveReq_only _ _ _ h
  · exact h
theorem State.stackClock_only {s : State} (k : Nat) (h : z.OnlyAccess s) : z.OnlyAccess (s.stackClock k) :=
  foldl_keeps z.OnlyAccess _ _ _ (fun _ _ h => State.pcClock_only _ _ h) h

/-! ### Accesses -/

/-- An access that arrives changes nothing else. -/
theorem State.touchFrom_only {s : State} (o : Origin) (ctx : Nat) (c : Nat × Nat) (h : z.OnlyAccess s) : z.OnlyAccess (s.touchFrom o ctx c) := by
  unfold State.touchFrom
  dsimp only
  split
  · split
    · exact h
    · refine State.regionUse_only _ ?_
      split
      · exact h
      · exact State.countCtx_only _ _ (State.wakeRegion_only _ _ h)
  · refine State.setTile_only _ _ ?_
    split
    · exact h
    · exact State.countCtx_only _ _ (State.wakeBank_only _ _ _ h)
theorem State.touchAllFrom_only {s : State} (o : Origin) (ctx : Nat) (ks : List (Nat × Nat)) (h : z.OnlyAccess s) : z.OnlyAccess (s.touchAllFrom o ctx ks) := by
  unfold State.touchAllFrom
  refine foldl_keeps z.OnlyAccess _ _ _ (fun s u h => ?_) ?_
  · refine upTo_holds z.OnlyAccess _ _ _ (fun _ _ h => ?_) h
    split
    · exact State.serveReq_only _ _ _ h
    · exact h
  · exact foldl_keeps z.OnlyAccess _ _ _ (fun _ _ h => State.touchFrom_only _ _ _ h)
      (foldl_keeps z.OnlyAccess _ _ _ (fun _ _ h => upTo_holds z.OnlyAccess _ _ _ (fun _ _ h => State.takeSeason_only _ h) h) h)

/-- A read changes nothing else. -/
theorem State.reportPoison_only {s : State} (ctx : Nat) (ks : List (Nat × Nat)) (h : z.OnlyAccess s) : z.OnlyAccess (s.reportPoison ctx ks) :=
  State.noteReadsFrom_only _ _ (State.touchAllFrom_only _ _ _ h)
theorem State.loadKeys_only {s : State} (ctx : Nat) (ks : List (Nat × Nat)) (h : z.OnlyAccess s) : z.OnlyAccess (s.loadKeys ctx ks).1 :=
  State.reportPoison_only _ _ h

/-- A write changes nothing else. -/
theorem State.writeKeys_only {s : State} (ctx : Nat) (ks : List (Nat × Nat)) (bs : List Byte) (h : z.OnlyAccess s) : z.OnlyAccess (s.writeKeys ctx ks bs) :=
  State.writeAllFrom_only _ _ (State.touchAllFrom_only _ _ _ h)

/-- Counting units moved changes nothing else. -/
theorem State.heatAll_only {s : State} (vas : List Nat) (h : z.OnlyAccess s) : z.OnlyAccess (s.heatAll vas) :=
  foldl_keeps z.OnlyAccess _ _ _ (fun _ _ h => h.trans rfl) h

/-- Accesses through buffers change nothing else. -/
theorem State.readVa_only {s : State} (o : Origin) (i : Issuer) (va len right : Nat) (h : z.OnlyAccess s) : z.OnlyAccess (s.readVa o i va len right).1 := by
  unfold State.readVa
  split
  · exact h
  · exact State.heatAll_only _ (State.noteReadsFrom_only _ _ (State.touchAllFrom_only _ _ _ h))
theorem State.writeVa_only {s : State} (o : Origin) (i : Issuer) (va right : Nat) (bs : List Byte) (h : z.OnlyAccess s) :
    z.OnlyAccess (s.writeVa o i va right bs).1 := by
  unfold State.writeVa
  split
  · exact h
  · exact State.heatAll_only _ (State.writeAllFrom_only _ _ (State.touchAllFrom_only _ _ _ h))

/-- What the front end reads of a command and of a launch description. -/
theorem State.fetched_only {s : State} (i : Issuer) (va len : Nat) (h : z.OnlyAccess s) : z.OnlyAccess (s.fetched i va len) :=
  State.readVa_only _ _ _ _ _ h
theorem State.readLaunch_only (i : Issuer) (n : Nat) : ∀ {s : State} (va : Nat) (l : Launch), z.OnlyAccess s → z.OnlyAccess (State.readLaunch i n va l s).1 := by
  induction n with
  | zero => exact fun _ _ h => h
  | succ n ih =>
    intro s va l h
    unfold State.readLaunch
    split
    · exact State.fetched_only _ _ _ h
    · dsimp only
      split
      · exact State.fetched_only _ _ _ h
      · split
        · exact State.fetched_only _ _ _ h
        · exact ih _ _ (State.fetched_only _ _ _ h)
theorem State.launchAt_only {s : State} (i : Issuer) (va : Nat) (h : z.OnlyAccess s) : z.OnlyAccess (s.launchAt i va).1 :=
  State.readLaunch_only _ _ _ _ h

end Sys2Proof.Machine
end

