-- ==== Sys2Proof/Laws/Ops.lean ====
section
/-! SUPPORT. What each shared operation can do, said once: bytes written and read back, the forms in which an instruction answers, and
that every shared operation keeps the canonical form of memory. -/
namespace Sys2Proof.Machine

/-! ### Bytes -/

/-- A key that a filter drops reads 0, any other as before. -/
theorem mget_filter (p : Nat → Bool) (m : List Host.Cell) (j : Nat) :
    mget 0#8 (m.filter fun c => p c.1) j = if p j then mget 0#8 m j else 0#8 := by
  induction m with
  | nil => simp
  | cons c r ih =>
    obtain ⟨i, v⟩ := c
    by_cases hp : p i = true <;> by_cases hj : j = i <;> simp_all [mget]

theorem mget_filter_used (p : Nat → Bool) (m : SMap Bool) (j : Nat) :
    mget false (m.filter fun c => p c.1) j = if p j then mget false m j else false := by
  induction m with
  | nil => simp
  | cons c r ih =>
    obtain ⟨i, v⟩ := c
    by_cases hp : p i = true <;> by_cases hj : j = i <;> simp_all [mget]

/-- Freshened units are fresh, the others as before. -/
theorem State.isFresh_freshen (s : State) (p : Nat → Bool) (k : Nat) : (s.freshen p).isFresh k = (p (Machine.unitOf k) || s.isFresh k) := by
  have h := mget_filter_used (fun i => !p i) s.used (Machine.unitOf k)
  unfold State.isFresh State.freshen
  simp only [h]
  cases p (Machine.unitOf k) <;> simp

/-- Freshened units read 0, the others as before (07 R182). -/
theorem State.byte_freshen (s : State) (p : Nat → Bool) (k : Nat) : (s.freshen p).byte k = if p (Machine.unitOf k) then 0#8 else s.byte k := by
  unfold State.byte
  rw [State.isFresh_freshen]
  have h := mget_filter (fun i => !p (Machine.unitOf i)) s.mem k
  cases hp : p (Machine.unitOf k)
  · simp only [Bool.false_or]
    have e : Memory.read (s.freshen p).mem k = Memory.read s.mem k := h.trans (by simp [hp, Memory.read])
    rw [e]
    rfl
  · simp

/-- Opening a unit makes it fresh no longer, and no other. -/
theorem State.isFresh_open (s : State) (k j : Nat) : (s.open_ k).isFresh j = (s.isFresh j && decide (Machine.unitOf j ≠ Machine.unitOf k)) := by
  unfold State.open_
  split
  · next h =>
    show (!mget false (mput (s.freshen fun u => u == Machine.unitOf k).used (Machine.unitOf k) true) (Machine.unitOf j)) = _
    rw [mget_mput]
    by_cases hu : Machine.unitOf j = Machine.unitOf k
    · simp [hu]
    · have hf := State.isFresh_freshen s (fun u => u == Machine.unitOf k) j
      unfold State.isFresh at hf ⊢
      simp [hu, hf]
  · next h =>
    by_cases hu : Machine.unitOf j = Machine.unitOf k
    · have : s.isFresh j = s.isFresh k := by simp only [State.isFresh, hu]
      simp_all
    · simp [hu]

/-- Opening a unit changes no byte. -/
theorem State.byte_open (s : State) (k j : Nat) : (s.open_ k).byte j = s.byte j := by
  unfold State.byte
  rw [State.isFresh_open]
  by_cases hk : s.isFresh k = true
  · have hm : Memory.read (s.open_ k).mem j = if Machine.unitOf j = Machine.unitOf k then 0#8 else Memory.read s.mem j := by
      have h := mget_filter (fun i => !(Machine.unitOf i == Machine.unitOf k)) s.mem j
      unfold State.open_
      rw [if_pos hk]
      show mget 0#8 (s.freshen fun u => u == Machine.unitOf k).mem j = _
      by_cases hu : Machine.unitOf j = Machine.unitOf k
      · exact h.trans (by simp [hu])
      · exact h.trans (by simp [hu, Memory.read])
    rw [hm]
    by_cases hu : Machine.unitOf j = Machine.unitOf k
    · have : s.isFresh j = s.isFresh k := by simp only [State.isFresh, hu]
      simp [hu, this, hk]
    · simp [hu]
  · have ho : s.open_ k = s := by
      unfold State.open_
      rw [if_neg hk]
    rw [ho]
    by_cases hu : Machine.unitOf j = Machine.unitOf k
    · have : s.isFresh j = s.isFresh k := by simp only [State.isFresh, hu]
      simp_all
    · simp [hu]

/-- A byte that was written reads as written, every other as before (07 R182). -/
theorem State.byte_putByte {s : State} (k j : Nat) (b : Byte) (h : s.Inv) : (s.putByte k b).byte j = if j = k then b else s.byte j := by
  have hf : (s.putByte k b).isFresh j = (s.open_ k).isFresh j := rfl
  have hm : Memory.read (s.putByte k b).mem j = if j = k then b else Memory.read (s.open_ k).mem j :=
    Memory.read_write k j b (State.open_inv k h)
  by_cases hj : j = k
  · subst hj
    unfold State.byte
    rw [hf, State.isFresh_open, hm]
    simp
  · rw [if_neg hj, ← State.byte_open s k j]
    unfold State.byte
    rw [hf, hm, if_neg hj]

/-- A byte of a slice that was written under any key id reads as written, every other byte as before. -/
theorem State.byte_writeKeyFrom {s : State} (o : Origin) (kid k j : Nat) (b : Byte) (h : s.Inv) (hk : isHbm k = false) :
    (s.writeKeyFrom o kid k b).byte j = if j = k then b else s.byte j := by
  unfold State.writeKeyFrom
  rw [hk]
  exact State.byte_putByte k j b h

/-- What writing under a key id leaves alone. -/
theorem State.writeKeyFrom_frame (s : State) (o : Origin) (kid k : Nat) (b : Byte) :
    s.writeKeyFrom o kid k b = { s with mem := (s.writeKeyFrom o kid k b).mem, used := (s.writeKeyFrom o kid k b).used, poison := (s.writeKeyFrom o kid k b).poison,
                                        upsets := (s.writeKeyFrom o kid k b).upsets, sealed := (s.writeKeyFrom o kid k b).sealed } := by
  unfold State.writeKeyFrom
  have ho : ∀ (t : State) (n : Nat), ∃ a c d u e, t.open_ n = { t with mem := a, used := c, poison := d, upsets := u, sealed := e } := by
    intro t n
    unfold State.open_
    split
    · exact ⟨_, _, _, _, _, rfl⟩
    · exact ⟨t.mem, t.used, t.poison, t.upsets, t.sealed, rfl⟩
  have hp : ∀ (t : State) (n : Nat) (v : Byte), ∃ a c d u e, t.putByte n v = { t with mem := a, used := c, poison := d, upsets := u, sealed := e } := by
    intro t n v
    obtain ⟨a, c, d, u, e, h⟩ := ho t n
    unfold State.putByte
    rw [h]
    exact ⟨_, _, _, _, _, rfl⟩
  have hr : ∀ (t : State) (q n : Nat), ∃ a c d u e, t.reseal q n = { t with mem := a, used := c, poison := d, upsets := u, sealed := e } := by
    intro t q n
    obtain ⟨a, c, d, u, e, h⟩ := ho t n
    unfold State.reseal
    rw [h]
    exact ⟨_, _, _, _, _, rfl⟩
  have close : ∀ (t : State), (∃ a c d u e, t = { s with mem := a, used := c, poison := d, upsets := u, sealed := e }) →
      t = { s with mem := t.mem, used := t.used, poison := t.poison, upsets := t.upsets, sealed := t.sealed } := by
    rintro t ⟨a, c, d, u, e, rfl⟩
    rfl
  refine close _ ?_
  split
  · split
    · exact ⟨s.mem, s.used, s.poison, s.upsets, s.sealed, rfl⟩
    · split
      · exact ⟨s.mem, s.used, s.poison, s.upsets, s.sealed, rfl⟩
      · obtain ⟨a, c, d, u, e, h⟩ := hr s _ k
        obtain ⟨a2, c2, d2, u2, e2, h2⟩ := hp (s.reseal _ k) k b
        exact ⟨a2, c2, d2, u2, e2, by rw [h2, h]⟩
  · exact hp s k b

/-! ### The forms in which an instruction answers -/

/-- A control-core word waits, or has its effect and the program counter moves on (05 R111). -/
theorem State.direct_cases (s : State) (ss : List (BitVec 5)) (ps : List (BitVec 3)) (f : Slot → Slot) :
    s.me.waits ss ps = true ∧ s.direct ss ps f = .next s ∨
      s.me.waits ss ps = false ∧ s.direct ss ps f = .next (s.upMe fun x => (f x).advance 4) := by
  unfold State.direct
  cases s.me.waits ss ps <;> simp

/-- One that may fault waits, traps, traps after what it has read, or goes on (05 R112). -/
theorem State.directM_cases (s : State) (ss : List (BitVec 5)) (ps : List (BitVec 3)) (cls len : Nat) (f : State → M State) :
    (s.me.waits ss ps = true ∨ f s = .error .wait) ∧ s.directM ss ps cls len f = .next s ∨
      s.me.waits ss ps = false ∧ ((∃ flt, f s = .error (.fault flt) ∧ s.directM ss ps cls len f = .next (s.raiseWord flt cls)) ∨
        (∃ t flt, f s = .error (.after t flt) ∧ s.directM ss ps cls len f = .next (t.raiseWord flt cls)) ∨
        ∃ t, f s = .ok t ∧ s.directM ss ps cls len f = .next (t.upMe fun x => x.advance len)) := by
  unfold State.directM
  cases s.me.waits ss ps
  · cases h : f s with
    | error e =>
      cases e with
      | after u g => exact .inr ⟨rfl, .inr (.inl ⟨u, g, rfl, rfl⟩)⟩
      | _ => simp
    | ok t => simp
  · simp

/-- A class 6 word at dispatch is placed; at issue it waits, traps, or is performed and retires (03 R70, 14 R316). -/
theorem State.sync_cases (s : State) (i : Instr) (srcs : List (BitVec 5)) (d : SyDest) (body : State → Entry → M State) :
    s.phase = .dispatch ∧ s.sync i srcs d body = .next (s.submit i srcs d) ∨
      ∃ en, s.phase = .issue en ∧
        (body s en = .error .wait ∧ s.sync i srcs d body = .next s ∨
          (∃ f, body s en = .error (.fault f) ∧ s.sync i srcs d body = .next (s.raiseEng s.cur .sy f en.tag)) ∨
          (∃ t f, body s en = .error (.after t f) ∧ s.sync i srcs d body = .next (t.raiseEng s.cur .sy f en.tag)) ∨
          ∃ t, body s en = .ok t ∧ s.sync i srcs d body = .next (t.upMe fun x => x.finish .sy en)) := by
  unfold State.sync
  cases hp : s.phase with
  | dispatch => simp
  | issue en =>
    refine .inr ⟨en, rfl, ?_⟩
    cases h : body s en with
    | error e =>
      cases e with
      | after u g => exact .inr (.inr (.inl ⟨u, g, rfl, by simp [h]⟩))
      | _ => simp [h]
    | ok t => simp [h]

/-- A command of an engine waits, issues without effect under a false guard, traps, or has its effect and commits (03 R77, R81, R82). -/
theorem State.issueCmd_cases (s : State) (e : Engine) (k : Ctl) (body : State → Entry → M Done) :
    let en := s.entryNow e
    s.issueCmd e k body = s ∨
      s.me.guardFor en k.guard = false ∧ s.issueCmd e k body = s.commit e k en [] true true ∨
      (∃ f, s.issueCmd e k body = s.raiseEng s.cur e f en.tag ∧
        (body s en = .error (.fault f) ∨ f.code = fTag ∧ en.scoreboard = true ∧ s.me.tagPending e k.ta = true)) ∨
      (∃ t f, s.issueCmd e k body = t.raiseEng s.cur e f en.tag ∧ body s en = .error (.after t f)) ∨
      ∃ d, body s en = .ok d ∧ s.me.held s.dcc.toNat e k en = false ∧ s.me.backed e = false ∧ s.me.guardFor en k.guard = true ∧
        s.issueCmd e k body = d.s.commit e k en d.results d.retire d.token := by
  intro en
  unfold State.issueCmd
  simp only
  split
  · exact .inl rfl
  · next hh =>
    simp only [Bool.or_eq_true, not_or, Bool.not_eq_true] at hh
    split
    · next hg => exact .inr (.inl ⟨by simpa using hg, rfl⟩)
    · next hg =>
      split
      · next ht =>
        simp only [Bool.and_eq_true] at ht
        exact .inr (.inr (.inl ⟨_, rfl, .inr ⟨rfl, ht.1, ht.2⟩⟩))
      · cases hb : body s (s.entryNow e) with
        | error o =>
          cases o with
          | wait => exact .inl rfl
          | fault f => exact .inr (.inr (.inl ⟨f, rfl, .inl rfl⟩))
          | after t f => exact .inr (.inr (.inr (.inl ⟨t, f, rfl, rfl⟩)))
        | ok d => exact .inr (.inr (.inr (.inr ⟨d, rfl, hh.1, hh.2, by simpa using hg, rfl⟩)))

/-- Only the moving slot is changed by a commit. -/
theorem State.commit_frame (s : State) (e : Engine) (k : Ctl) (en : Entry) (rs : List Result) (retire token : Bool) (cap : Option Nat) :
    s.commit e k en rs retire token cap = { s with slots := (s.commit e k en rs retire token cap).slots } ∧
      ∀ n, n ≠ s.cur → (s.commit e k en rs retire token cap).slot n = s.slot n :=
  ⟨rfl, fun _ h => State.slot_upMe_ne _ _ h⟩

/-- Only the moving slot is changed by placing a class 6 word. -/
theorem State.submit_frame (s : State) (i : Instr) (srcs : List (BitVec 5)) (d : SyDest) :
    s.submit i srcs d = { s with slots := (s.submit i srcs d).slots } ∧ ∀ n, n ≠ s.cur → (s.submit i srcs d).slot n = s.slot n := by
  rcases (by
    unfold State.submit
    simp only
    split
    · exact .inl rfl
    · exact .inr ⟨_, rfl⟩ : s.submit i srcs d = s ∨ ∃ f, s.submit i srcs d = s.upMe f) with h | ⟨f, h⟩ <;> rw [h]
  · exact ⟨rfl, fun _ _ => rfl⟩
  · exact ⟨rfl, fun _ h => State.slot_upMe_ne _ _ h⟩

/-! ### Memory stays canonical -/

theorem State.takeLane_inv {s : State} (ctx : Nat) (a : LoadAcc) (l : LaneAcc) (h : s.Inv) : (s.takeLane ctx a l).1.Inv :=
  State.loadKeys_inv _ _ h

theorem State.applyLanes_inv {s : State} (ctx : Nat) (ls : List StoreLane) (h : s.Inv) : (s.applyLanes ctx ls).1.Inv := by
  unfold State.applyLanes
  split
  · exact State.writeKeys_inv _ _ _ h
  · refine foldl_keeps (fun (r : State × List StoreLane × Option Nat) => r.1.Inv) _ _ _ (fun r l hr => ?_) h
    have hr' := State.reportPoison_inv ctx l.acc.keys hr
    dsimp only
    split
    · exact State.writeAllFrom_inv _ _ hr'
    · exact hr'

theorem State.countInbound_mem (s : State) (n : Nat) (phase : W32) (as : List Nat) : (s.countInbound n phase as).mem = s.mem := by
  unfold State.countInbound
  refine foldl_keeps (fun (t : State) => t.mem = s.mem) _ _ _ (fun t m h => ?_) rfl
  simp only
  split
  · exact h
  · split <;> exact h

theorem State.cacheFill_mem (s : State) (id cap tag : Nat) : (s.cacheFill id cap tag).mem = s.mem := by
  unfold State.cacheFill
  dsimp only
  split <;> rfl

theorem State.fillStream_mem (s : State) (n e : Nat) (vas : List Nat) : (s.fillStream n e vas).mem = s.mem := by
  unfold State.fillStream
  refine foldl_keeps (fun (t : State) => t.mem = s.mem) _ _ _ (fun t va h => ?_) rfl
  dsimp only
  split <;> simp [State.cacheFill_mem, h]

theorem State.performLanes_inv {s : State} (n : Nat) (phase : W32) (ls : List StoreLane) (h : s.Inv) : (s.performLanes n phase ls).1.Inv :=
  State.inv_of_mem (State.heatAll_inv (bufAddrs (ls.map (·.acc))) (State.applyLanes_inv (s.slot n).y.ctx.toNat ls h))
    ((State.countInbound_mem _ _ _ _).trans (State.fillStream_mem _ _ _ _))

theorem State.upSlot_inv {s : State} (n : Nat) (f : Slot → Slot) (h : s.Inv) : (s.upSlot n f).Inv := h

theorem State.performLoad_inv {s : State} (n i : Nat) (mask : Word) (h : s.Inv) : (s.performLoad n i mask).Inv := by
  unfold State.performLoad
  split
  · exact h
  · refine State.upSlot_inv _ _ (State.inv_of_mem (State.heatAll_inv _ ?_) (State.fillStream_mem _ _ _ _))
    exact foldl_keeps (fun (r : State × LoadAcc) => r.1.Inv) _ _ _ (fun r l h => State.takeLane_inv _ _ _ h) h

theorem State.performStore_inv {s : State} (n i : Nat) (mask : Word) (h : s.Inv) : (s.performStore n i mask).Inv := by
  unfold State.performStore
  split
  · exact h
  · exact State.upSlot_inv _ _ (State.performLanes_inv _ _ _ h)

theorem State.performAll_inv (fuel n : Nat) : ∀ {s : State}, s.Inv → (s.performAll fuel n).Inv := by
  induction fuel with
  | zero => exact fun h => h
  | succ k ih =>
    intro s h
    unfold State.performAll
    split
    · exact h
    · simp only
      split
      · exact ih (State.performLoad_inv _ _ _ h)
      · split
        · exact ih (State.performStore_inv _ _ _ h)
        · exact h

theorem State.completeMx_mem (s : State) (tile : Nat) : (s.completeMx tile).mem = s.mem := by
  unfold State.completeMx
  simp only
  split
  · split <;> rfl
  · rfl

/-- The cut performs what has issued, and keeps memory canonical (20 R409). -/
theorem State.takeCut_inv {s : State} (n : Nat) (h : s.Inv) : (s.takeCut n).Inv :=
  State.inv_of_mem (State.performAll_inv ((s.slot n).loads.length + (s.slot n).storeQ.length) n (s := s.dropCopyReqs n) h) rfl

theorem State.haltSlot_inv {s : State} (n code : Nat) (h : s.Inv) : (s.haltSlot n code).Inv := h

theorem State.stopSlot_inv {s : State} (n code : Nat) (h : s.Inv) : (s.stopSlot n code).Inv :=
  State.haltSlot_inv n code (State.takeCut_inv n h)

theorem State.putBlock_inv {s : State} (n : Nat) (bs : List Byte) (h : s.Inv) : (s.putBlock n bs).Inv :=
  State.writeVa_inv _ _ _ _ _ (State.readVa_inv _ _ _ _ _ h)

/-- Entering a trap keeps memory canonical (20 R406). -/
theorem State.enterTrap_inv {s : State} (n : Nat) (f : Flt) (tag : Word) (cls src : Nat) (h : s.Inv) : (s.enterTrap n f tag cls src).Inv := by
  have h1 : ((s.takeCut n).upSlot n fun x => x.trapRegs f cls).Inv := State.upSlot_inv n _ (State.takeCut_inv n h)
  unfold State.enterTrap
  simp only
  generalize (s.takeCut n).upSlot n (fun x => x.trapRegs f cls) = u at h1 ⊢
  split
  · exact State.haltSlot_inv n _ h1
  · have h2 := State.upSlot_inv n Slot.trapMode (State.putBlock_inv n ((u.slot n).trapBlock tag src f.info) h1)
    generalize (u.putBlock n ((u.slot n).trapBlock tag src f.info)).upSlot n Slot.trapMode = v at h2 ⊢
    split
    · exact State.haltSlot_inv n _ h2
    · split
      · exact State.haltSlot_inv n _ h2
      · exact State.upSlot_inv n _ h2

theorem State.takeTrap_inv {s : State} (n : Nat) (f : Flt) (tag : Word) (cls src : Nat) (h : s.Inv) : (s.takeTrap n f tag cls src).Inv := by
  unfold State.takeTrap
  split
  · exact State.stopSlot_inv _ _ h
  · exact State.enterTrap_inv _ _ _ _ _ h

theorem State.raise_inv {s : State} (n : Nat) (f : Flt) (tag : Word) (cls src : Nat) (h : s.Inv) : (s.raise n f tag cls src).Inv := by
  unfold State.raise
  simp only
  split
  · exact h
  · split
    · exact State.takeTrap_inv _ _ _ _ _ h
    · exact h

theorem State.raiseEng_inv {s : State} (n : Nat) (e : Engine) (f : Flt) (tag : Word) (h : s.Inv) : (s.raiseEng n e f tag).Inv :=
  State.raise_inv _ _ _ _ _ h

theorem State.raiseWord_inv {s : State} (f : Flt) (cls : Nat) (h : s.Inv) : (s.raiseWord f cls).Inv := State.raise_inv _ _ _ _ _ h

theorem State.raiseLate_inv {s : State} (n : Nat) (e : Engine) (f : Flt) (tag : Word) (h : s.Inv) : (s.raiseLate n e f tag).Inv := by
  unfold State.raiseLate
  simp only
  split
  · exact h
  · exact State.raiseEng_inv _ _ _ _ h

theorem State.retireStoresOf_inv {s : State} (n : Nat) (h : s.Inv) : (s.retireStoresOf n).Inv :=
  foldl_keeps State.Inv _ _ _ (fun _ _ h => State.raiseLate_inv _ _ _ _ h) h

theorem State.deliver_inv {s : State} (n : Nat) (h : s.Inv) : (s.deliver n).Inv := by
  unfold State.deliver
  simp only
  split
  · exact h
  · split
    · exact h
    · split
      · exact h
      · exact State.raiseEng_inv _ _ _ _ h

theorem State.resume_inv {s : State} (n : Nat) (skip : Option Engine) (h : s.Inv) : (s.resume n skip).Inv := by
  unfold State.resume
  split
  · exact State.deliver_inv n h
  · exact h

/-- What an operation answers keeps memory canonical: the state that it leaves, and the state in which it faults. -/
def M.Keeps (r : M State) : Prop :=
  (∀ t, r = .ok t → t.Inv) ∧ ∀ t f, r = .error (.after t f) → t.Inv

/-- A command whose effect keeps memory canonical keeps it as a whole. -/
theorem State.issueCmd_inv {s : State} (e : Engine) (k : Ctl) (body : State → Entry → M Done) (h : s.Inv)
    (hb : ∀ en d, body s en = .ok d → d.s.Inv) (ha : ∀ en t f, body s en = .error (.after t f) → t.Inv) :
    (s.issueCmd e k body).Inv := by
  rcases State.issueCmd_cases s e k body with h1 | ⟨_, h1⟩ | ⟨f, h1, _⟩ | ⟨t, f, h1, ht⟩ | ⟨d, hd, _, _, _, h1⟩ <;> rw [h1]
  · exact h
  · exact h
  · exact State.raiseEng_inv _ _ _ _ h
  · exact State.raiseEng_inv _ _ _ _ (ha _ _ _ ht)
  · exact hb _ _ hd

/-- A control-core word whose effect keeps memory canonical keeps it as a whole. -/
theorem State.directM_inv {s t : State} (ss : List (BitVec 5)) (ps : List (BitVec 3)) (cls len : Nat) (f : State → M State) (h : s.Inv)
    (hf : M.Keeps (f s)) (ht : s.directM ss ps cls len f = .next t) : t.Inv := by
  rcases State.directM_cases s ss ps cls len f with ⟨_, h1⟩ | ⟨_, ⟨g, _, h1⟩ | ⟨u, g, hu, h1⟩ | ⟨u, hu, h1⟩⟩ <;> rw [h1] at ht <;>
    (injection ht with ht; subst ht)
  · exact h
  · exact State.raiseWord_inv _ _ h
  · exact State.raiseWord_inv _ _ (hf.2 _ _ hu)
  · have := hf.1 u hu; exact this

/-- A class 6 word whose effect keeps memory canonical keeps it as a whole. -/
theorem State.sync_inv {s t : State} (i : Instr) (srcs : List (BitVec 5)) (d : SyDest) (body : State → Entry → M State) (h : s.Inv)
    (hb : ∀ en, M.Keeps (body s en)) (ht : s.sync i srcs d body = .next t) : t.Inv := by
  rcases State.sync_cases s i srcs d body with ⟨_, h1⟩ | ⟨en, _, ⟨_, h1⟩ | ⟨f, _, h1⟩ | ⟨u, f, hu, h1⟩ | ⟨u, hu, h1⟩⟩ <;> rw [h1] at ht <;>
    (injection ht with ht; subst ht)
  · exact State.inv_of_mem h (by rw [(State.submit_frame s i srcs d).1])
  · exact h
  · exact State.raiseEng_inv _ _ _ _ h
  · exact State.raiseEng_inv _ _ _ _ ((hb en).2 _ _ hu)
  · have := (hb en).1 u hu; exact this

end Sys2Proof.Machine
end

