-- ==== Sys2Proof/Tests/Decode.lean ====
section
/-! SUPPORT. The decoder against words written out from the spec: the words that its examples and listings print, and for each
instruction one word whose fields stand where 03 R68 to R75, R78, R87 and R88 put them; reserved encodings; ill-formed terms. -/
namespace Sys2Proof.Tests

/-- The control fields of a word that gives none, and of one that gives each (03 R78). -/
def bare : Ctl := ⟨0#4, none, none, none, 0#4, 7#3⟩
def full : Ctl := ⟨9#4, some 3#4, some 12#4, some 1#4, 13#4, 2#3⟩

def direct (l : List Nat) : List (Dec Instr) := l.map fun w => decodeWords (BitVec.ofNat 32 w) 0#32 0#32
def engine (c : BitVec 3) (l : List Nat) : List (Dec Instr) := l.map fun w => decodeEngine c (BitVec.ofNat 80 w)
def refusedWords (l : List Nat) : Bool := (direct l).all fun r => match r with | .ok _ => false | .error _ => true
def refusedEngine (c : BitVec 3) (l : List Nat) : Bool := (engine c l).all fun r => match r with | .ok _ => false | .error _ => true

/-- Words that 03, 05, 06, 09, 10, 14 and 24 to 28 print beside their text. -/
theorem test_decode_printed : direct [
    0x00461100, 0x20000000, 0x20580503, 0x20590503, 0x22E00304, 0x610A0007, 0x4028003F, 0x41010000, 0x60190008, 0xA0800000, 0x0E8E3008,
    0x1108332A, 0x12000022, 0x12000063, 0xC3000054, 0xC3800000, 0x16020800, 0x16040801, 0x0C021000, 0x02120040, 0x17400000, 0xCF212000,
    0xC4500000, 0x166001A0, 0xC52C0103, 0xCE300000, 0xC0A80400, 0xC1280B04, 0xCB280001, 0xCC56C000, 0x16460200, 0xC8100B00, 0xC9300400,
    0xCA2C0600, 0xCEBC1000, 0xCA800000] = [
    .add 3#5 1#5 2#5,
    .patchWordDispatch 1#3 0#6 0#4 false false false 0#16,
    .patchWordDispatch 1#3 0#6 11#4 false false false 0x0503#16,
    .patchWordDispatch 1#3 0#6 11#4 false false true 0x0503#16,
    .patchWordDispatch 1#3 5#6 12#4 false false false 0x0304#16,
    .patchWordDispatch 3#3 2#6 1#4 false true false 7#16,
    .patchWordDispatch 2#3 0#6 5#4 false false false 0x003F#16,
    .patchWordDispatch 2#3 2#6 0#4 false false true 0#16,
    .patchWordDispatch 3#3 0#6 3#4 false false true 8#16,
    .patchWordDispatch 5#3 1#6 0#4 false false false 0#16,
    .ldc .w 7#5 3#5 8#12,
    .amo .cas true .p 4#5 3#5 6#5,
    .fence .acq .d,
    .fence .sc .f,
    .tokp 2#3 5#3 false,
    .rndv,
    .sysr 1#5 0x040#12 0#5,
    .sysr 2#5 0x040#12 1#5,
    .movx 1#5 1#5 0#12,
    .addi 9#5 0#5 64#12,
    .endj,
    .ctradd 8#5 9#5,
    .sync 20#5,
    .sysw 16#5 0x00D#12 0#5,
    .waitc 1#3 11#5 3#8,
    .ctrset 12#5 0#5,
    .enq 4#3 10#5 0#5 false,
    .deq 11#5 10#5 0#5 false 4#3,
    .yieldl .data 10#5 0#5,
    .tktset 0#5 21#5 22#5,
    .sysw 3#5 0x010#12 0#5,
    .spawn 11#5 4#5,
    .dropF 4#3 12#5,
    .awaitl 6#3 11#5,
    .ctrget 16#5 15#5,
    .rpoint].map .ok := by rfl

/-- Engine words that 06 to 10, 27 and 28 print. -/
theorem test_decode_printed_engine :
    decodeEngine 1#3 0x40000001F050102004A8#80 = .ok (.vcvt ⟨0#4, none, none, none, 3#4, 7#3⟩ .fp32 .bf16 .sr 5#5 0#3 1#5 2#5) ∧
    decodeEngine 2#3 0x01C00000700000000110#80 = .ok (.mldcb bare 0#2 1#3 1#3 0#5) ∧
    decodeEngine 2#3 0x00400000700800200003#80 = .ok (.mma bare 0#2 0#4 true 0#5 2#5 0#5 3#12) ∧
    decodeEngine 2#3 0x01000000700000000000#80 = .ok (.mret bare 0#5) ∧
    decodeEngine 3#3 0x04000000700000000000#80 = .ok (.mark false 0#4) ∧
    decodeEngine 3#3 0x00800000780010500800#80 = .ok (.ldb bare .w false true 0#5 0#3 1#5 (.reg 5#5)) ∧
    decodeEngine 4#3 0x00800000702020000500#80 = .ok (.stb bare .w 2#5 0#3 2#5 (.postInc 64#8)) ∧
    decodeEngine 5#3 0x01400000700801300000#80 = .ok (.fillDiscard bare 19#5 0#8 0#4) := by
  refine ⟨rfl, rfl, rfl, rfl, rfl, rfl, rfl, rfl⟩

/-- 03 R72: the long forms (the LIW is that of 26); extension words are data whatever their bits. -/
theorem test_decode_long :
    decodeWords 0xE2500000#32 0x3F000000#32 0x3E800000#32 = .ok (.liw 5#5 0x3E8000003F000000#64) ∧
    decodeWords 0xE57F1234#32 0x89ABCDEF#32 0xFFFFFFFF#32 = .ok (.tdef 5#3 63#6 0x1234FFFFFFFF89ABCDEF#80) ∧
    decodeWords 0xE714E000#32 0xFFFFFFF8#32 0#32 = .ok (.ldcLong .wn 17#5 9#5 0xFFFFFFF8#32) ∧
    decodeWords 0xE914B000#32 8#32 0#32 = .ok (.stcLong .d 17#5 9#5 8#32) := by
  refine ⟨rfl, rfl, rfl, rfl⟩

/-- The instruction that the lowest bytes hold is read in the byte order of 00 R3, whatever stands above it. -/
theorem test_decode_table_word :
    decodeTableWord 32 0x00461100 = some (.add 3#5 1#5 2#5) ∧ decodeTableWord 32 0xE2500000 = some (.liw 5#5 0#64) ∧
    decodeTableWord 32 0x00000000 = none := by decide

/-- One word of each instruction, its fields in the places of 03 R68 to R70 and its opcode of R69: integer. -/
theorem test_decode_integer : direct [
    0x00629F00, 0x00629F01, 0x00629F02, 0x00629F03, 0x00629F04, 0x00629F05, 0x00629F06, 0x00629F07, 0x00629F08, 0x00629F09, 0x00629F0A,
    0x00629F0B, 0x00629F0C, 0x00629F0D, 0x00629F0E, 0x00629F0F, 0x00629F10, 0x00629F11, 0x00629F12, 0x01629F00, 0x00629020, 0x00629021,
    0x00629022, 0x00629023, 0x01629001, 0x01629002, 0x00A29F05] = [
    .add 17#5 9#5 30#5,
    .sub 17#5 9#5 30#5,
    .mul 17#5 9#5 30#5,
    .mulh 17#5 9#5 30#5,
    .mulhn 17#5 9#5 30#5,
    .div 17#5 9#5 30#5,
    .divn 17#5 9#5 30#5,
    .rem 17#5 9#5 30#5,
    .remn 17#5 9#5 30#5,
    .and 17#5 9#5 30#5,
    .or 17#5 9#5 30#5,
    .xor 17#5 9#5 30#5,
    .shl 17#5 9#5 30#5,
    .shr 17#5 9#5 30#5,
    .sha 17#5 9#5 30#5,
    .min 17#5 9#5 30#5,
    .max 17#5 9#5 30#5,
    .minn 17#5 9#5 30#5,
    .maxn 17#5 9#5 30#5,
    .bufa 17#5 9#5 30#5,
    .clz 17#5 9#5,
    .ctz 17#5 9#5,
    .popc 17#5 9#5,
    .bswap 17#5 9#5,
    .bufx 17#5 9#5,
    .bufo 17#5 9#5,
    .sel 5#3 17#5 9#5 30#5].map .ok := by rfl

/-- One word of each instruction, its fields in the places of 03 R68 to R70 and its opcode of R69: tables. -/
theorem test_decode_tables : direct [
    0x19229F00, 0x19629F11, 0x1A229F08, 0x1A629F09, 0x18229F17, 0x18629F17, 0x18809002, 0x18E29F06, 0x18E29F07, 0x19E29F04, 0x19E29F05,
    0x19A29F10, 0x19A29F16] = [
    .shardr 17#5 9#5 30#5,
    .curw 17#5 9#5 30#5,
    .keyw 17#5 9#5 30#5,
    .protw 17#5 9#5 30#5,
    .tbw 17#5 9#5 30#5 0x17#7,
    .tbr 17#5 9#5 30#5 0x17#7,
    .tlbi .vf 9#5,
    .shardw 17#5 9#5 30#5 false,
    .shardw 17#5 9#5 30#5 true,
    .fmmuw 17#5 9#5 30#5 false,
    .fmmuw 17#5 9#5 30#5 true,
    .ctxw 17#5 9#5 30#5 false,
    .ctxw 17#5 9#5 30#5 true].map .ok := by rfl

/-- One word of each instruction, its fields in the places of 03 R68 to R70 and its opcode of R69: predicates. -/
theorem test_decode_predicates : direct [
    0x00CC9F07, 0x010C3280, 0x010C3281, 0x010C3282, 0x010C3003, 0x04CC9FFF] = [
    .cmp .gtn 6#3 9#5 30#5,
    .pand 6#3 3#3 5#3,
    .por 6#3 3#3 5#3,
    .pxor 6#3 3#3 5#3,
    .pnot 6#3 3#3,
    .cmpi .ltn 6#3 9#5 0xFFF#12].map .ok := by rfl

/-- One word of each instruction, its fields in the places of 03 R68 to R70 and its opcode of R69: immediates. -/
theorem test_decode_immediates : direct [
    0x02229801, 0x02629801, 0x02A29801, 0x02E29801, 0x0322902D, 0x0362902D, 0x03A2902D, 0x08A30003] = [
    .addi 17#5 9#5 0x801#12,
    .andi 17#5 9#5 0x801#12,
    .ori 17#5 9#5 0x801#12,
    .xori 17#5 9#5 0x801#12,
    .shli 17#5 9#5 45#6,
    .shri 17#5 9#5 45#6,
    .shai 17#5 9#5 45#6,
    .lui 17#5 0x50003#19].map .ok := by rfl

/-- One word of each instruction, its fields in the places of 03 R68 to R70 and its opcode of R69: control flow. -/
theorem test_decode_control_flow : direct [
    0x09A30003, 0x0A07FFFE, 0x0A6C0001, 0x0A81F000, 0x0C229801, 0x0C629000] = [
    .jal 17#5 0x50003#19,
    .j 0x7FFFE#19,
    .br 5#3 0x40001#19,
    .jalr 0#5 31#5 0#12,
    .movx 17#5 9#5 0x801#12,
    .movxs 17#5 9#5].map .ok := by rfl

/-- One word of each instruction, its fields in the places of 03 R68 to R70 and its opcode of R69: control-core memory. -/
theorem test_decode_control_core_memory : direct [
    0x0E229FF8, 0x0E629FF8, 0x0EA29FF8, 0x0EE29FF8, 0x0F229FF8, 0x0F629FF8, 0x0FA29FF8, 0x10229008, 0x10629008, 0x10A29008, 0x10E29008,
    0x11229F1A, 0x12000064] = [
    .ldc .b 17#5 9#5 0xFF8#12,
    .ldc .h 17#5 9#5 0xFF8#12,
    .ldc .w 17#5 9#5 0xFF8#12,
    .ldc .d 17#5 9#5 0xFF8#12,
    .ldc .bn 17#5 9#5 0xFF8#12,
    .ldc .hn 17#5 9#5 0xFF8#12,
    .ldc .wn 17#5 9#5 0xFF8#12,
    .stc .b 17#5 9#5 8#12,
    .stc .h 17#5 9#5 8#12,
    .stc .w 17#5 9#5 8#12,
    .stc .d 17#5 9#5 8#12,
    .amo .cas true .d 17#5 9#5 30#5,
    .fence .nm .f].map .ok := by rfl

/-- One word of each instruction, its fields in the places of 03 R68 to R70 and its opcode of R69: system. -/
theorem test_decode_system : direct [
    0x14000000, 0x1622025F, 0x16520807, 0x16815780, 0x16C00000, 0x17000000, 0x17400000, 0x17C00000] = [
    .region false,
    .sysr 17#5 0x012#12 31#5,
    .sysw 9#5 0x040#12 7#5,
    .trap 0xABC#12,
    .eret,
    .yieldQ,
    .endj,
    .nop].map .ok := by rfl

/-- One word of each instruction, its fields in the places of 03 R68 to R70 and its opcode of R69: queues. -/
theorem test_decode_queues : direct [
    0xC0A7C608, 0xC127D10D, 0xC1241105, 0xC1A7D10D, 0xC1A41105, 0xC227C60D, 0xC2A41100, 0xC300008A, 0xC3800000] = [
    .enq 6#3 9#5 30#5 true,
    .deq 17#5 9#5 30#5 true 5#3,
    .deq 17#5 9#5 0#5 false 5#3,
    .peek 17#5 9#5 30#5 true 5#3,
    .peek 17#5 9#5 0#5 false 5#3,
    .enqr 6#3 9#5 30#5 13#4,
    .qstat 17#5 9#5,
    .tokp 4#3 2#3 true,
    .rndv].map .ok := by rfl

/-- One word of each instruction, its fields in the places of 03 R68 to R70 and its opcode of R69: synchronisation. -/
theorem test_decode_synchronisation : direct [
    0xC4240000, 0xC4A40000, 0xC4000001, 0xC52406C8, 0xC8241100, 0xC8A40600, 0xC9240600, 0xC9A40600, 0xCA240600, 0xCA800000, 0xCB27C000,
    0xCB27C001, 0xCB27C002, 0xCB27C003, 0xCC27D100, 0xCCA41103, 0xCD241100, 0xCE27C000, 0xCF27C000, 0xCEA41100] = [
    .sync 9#5,
    .arrive 9#5,
    .syncW,
    .waitc 6#3 9#5 200#8,
    .spawn 17#5 9#5,
    .refF 6#3 9#5,
    .dropF 6#3 9#5,
    .await 6#3 9#5,
    .awaitl 6#3 9#5,
    .rpoint,
    .yieldl .future 9#5 30#5,
    .yieldl .data 9#5 30#5,
    .yieldl .room 9#5 30#5,
    .yieldl .counter 9#5 30#5,
    .tktset 17#5 9#5 30#5,
    .tktget 17#5 9#5 3#3,
    .draw 17#5 9#5,
    .ctrset 9#5 30#5,
    .ctradd 9#5 30#5,
    .ctrget 17#5 9#5].map .ok := by rfl

/-- One word of each instruction, its fields in the places of 03 R78 and its opcode of R87 and R88: vector arithmetic. -/
theorem test_decode_vector_arithmetic : engine 1#3 [
    0x02267C8EAB1091E00003, 0x050000007B1091E00008, 0x06C000007B1091E00008, 0x084000007B1091E02002, 0x0A4000007B1091E02002,
    0x0C4000007B1091E02002, 0x0E8000007B1091E00001, 0x100000007B1090000000, 0x12C000007B1091E00000, 0x148000007B1091E00000,
    0x16C000007B1090000008, 0x184000007B1090000000, 0x1A0000007B1090000002, 0x1C0000007B1090000000, 0x200000007B1091E00000,
    0x220000007B1091E00000, 0x240000007B1091E00000, 0x260000007B1091E00000, 0x260000007B1090000815, 0x280000007B1091E00000,
    0x280000007B1090000815, 0x2A0000007B1091E00000, 0x2A0000007B1090000815, 0x2D0000007B1091E00000] = [
    .vadd full .f32 .rdn false 17#5 5#3 9#5 30#5,
    .vsub bare .n32 .rne true 17#5 5#3 9#5 30#5,
    .vmul bare .i32 .rne true 17#5 5#3 9#5 30#5,
    .vfma bare .f16 .rup 17#5 5#3 9#5 30#5 2#5,
    .vfms bare .f16 .rup 17#5 5#3 9#5 30#5 2#5,
    .vfnma bare .f16 .rup 17#5 5#3 9#5 30#5 2#5,
    .vdiv bare .bf16 .rtz 17#5 5#3 9#5 30#5,
    .vsqrt bare .f32 .rne 17#5 5#3 9#5,
    .vmin bare .i32 17#5 5#3 9#5 30#5,
    .vmax bare .bf16 17#5 5#3 9#5 30#5,
    .vabs bare .i32 true 17#5 5#3 9#5,
    .vneg bare .f16 false 17#5 5#3 9#5,
    .vexp2 bare .rup 17#5 5#3 9#5,
    .vlog2 bare .rne 17#5 5#3 9#5,
    .vand bare 17#5 5#3 9#5 30#5,
    .vor bare 17#5 5#3 9#5 30#5,
    .vxor bare 17#5 5#3 9#5 30#5,
    .vshl bare 17#5 5#3 9#5 (.reg 30#5),
    .vshl bare 17#5 5#3 9#5 (.imm 21#5),
    .vshr bare 17#5 5#3 9#5 (.reg 30#5),
    .vshr bare 17#5 5#3 9#5 (.imm 21#5),
    .vsha bare 17#5 5#3 9#5 (.reg 30#5),
    .vsha bare 17#5 5#3 9#5 (.imm 21#5),
    .vmulh bare .n32 17#5 5#3 9#5 30#5].map .ok := by rfl

/-- One word of each instruction, its fields in the places of 03 R78 and its opcode of R87 and R88: vector masks and moves. -/
theorem test_decode_vector_masks_and_moves : engine 1#3 [
    0x300000007A6091E00000, 0x300000007A6091E00001, 0x300000007A6091E00002, 0x300000007A6091E00004, 0x300000007A6091E00006,
    0x300000007A6091E00008, 0x300000007A6091E0000A, 0x320000007B1091E02000, 0x34000000706030500000, 0x36000000706030500000,
    0x38000000706030500000, 0x3A000000706030000000, 0x3C0000007B1030000000, 0x3E000000706030000000, 0x400000007B1091E004A8,
    0x400000007B1090000141, 0x420000007B1091E00002, 0x440000007B109000003E, 0x460000007B1090000073, 0x480000007B1091E0000C,
    0x510000007B1090000000, 0x530000007B1090000000, 0x550000007B1090000000, 0x570000007B1090000000, 0x588000007B1091E02001,
    0x5A0000007B1091E00000, 0x5C0000007B109000003F, 0x740000007B109000003F, 0x760000007B109000003F, 0x5E0000007B1000000801,
    0x600000007B1000000000, 0x700000007B1090000000, 0x720000007B13FC001002, 0x7800000070009000001E, 0x7A00000071100000001E] = [
    .vcmp bare .f32 .eq 6#3 5#3 9#5 30#5,
    .vcmp bare .f32 .ne 6#3 5#3 9#5 30#5,
    .vcmp bare .f32 .lt 6#3 5#3 9#5 30#5,
    .vcmp bare .f32 .le 6#3 5#3 9#5 30#5,
    .vcmp bare .f32 .gt 6#3 5#3 9#5 30#5,
    .vcmp bare .f32 .ge 6#3 5#3 9#5 30#5,
    .vcmp bare .f32 .un 6#3 5#3 9#5 30#5,
    .vsel bare 17#5 5#3 9#5 30#5 2#3,
    .kand bare 6#3 3#3 5#3,
    .kor bare 6#3 3#3 5#3,
    .kxor bare 6#3 3#3 5#3,
    .knot bare 6#3 3#3,
    .kpopc bare 17#5 5#3 3#3,
    .kfirst bare 6#3 3#3,
    .vcvt bare .fp32 .bf16 .sr 17#5 5#3 9#5 30#5,
    .vcvt bare .i16 .n8 .rtz 17#5 5#3 9#5 0#5,
    .vpack bare .w4 17#5 5#3 9#5 30#5,
    .vunpack bare .w4 7#3 true 17#5 5#3 9#5,
    .vlut bare 3#3 6#3 true 17#5 5#3 9#5,
    .vscale bare .e5m2 17#5 5#3 9#5 30#5,
    .vredsum bare .n32 17#5 5#3 9#5,
    .vredmax bare .n32 17#5 5#3 9#5,
    .vredmin bare .n32 17#5 5#3 9#5,
    .vscan bare .n32 17#5 5#3 9#5,
    .vsort bare .bf16 true 17#5 5#3 9#5 30#5 2#5,
    .vperm bare 17#5 5#3 9#5 30#5,
    .vbcast bare 17#5 5#3 9#5 63#6,
    .vget bare 17#5 5#3 9#5 63#6,
    .vput bare 17#5 5#3 9#5 63#6,
    .viota bare 17#5 5#3 0x801#12,
    .vrand bare 17#5 5#3,
    .vmov bare 17#5 5#3 9#5,
    .vmovi bare 17#5 5#3 0x3FC00102#32,
    .vspill bare 9#5 30#5,
    .vfill bare 17#5 30#5].map .ok := by rfl

/-- One word of each instruction, its fields in the places of 03 R78 and its opcode of R87 and R88: matrix. -/
theorem test_decode_matrix : engine 2#3 [
    0x0040000073A091E02FFF, 0x0080000073A091E02FFF, 0x00C0000073A091E02FFF, 0x0040000073A801E0201F, 0x01000000700000002000,
    0x014000007110A1E02C7E, 0x014000007110A0002200, 0x0180000070A000002000, 0x01C00000700000002653, 0x020000007060A0002019,
    0x02400000700091E02015, 0x02800000700091E02015] = [
    .mma bare 3#2 10#4 false 9#5 30#5 2#5 0xFFF#12,
    .mmaz bare 3#2 10#4 false 9#5 30#5 2#5 0xFFF#12,
    .mmap bare 3#2 10#4 false 9#5 30#5 2#5 0xFFF#12,
    .mma bare 3#2 10#4 true 0#5 30#5 2#5 0x01F#12,
    .mret bare 2#5,
    .mdrain bare true true false 17#5 10#4 30#5 2#5 126#8,
    .mdrain bare false false true 17#5 10#4 0#5 2#5 0#8,
    .mzero bare 10#4 2#5,
    .mldcb bare 3#2 5#3 6#3 2#5,
    .mstat bare true 6#3 10#4 9#4 2#5,
    .mpark bare 21#5 9#5 30#5 2#5,
    .munpark bare 21#5 9#5 30#5 2#5].map .ok := by rfl

/-- One word of each instruction, its fields in the places of 03 R78 and its opcode of R87 and R88: loads. -/
theorem test_decode_loads : engine 3#3 [
    0x0040000071109000D201, 0x00400000780090005500, 0x00800000711091E0D802, 0x00C00000711091E15004, 0x01000000711090005000,
    0x01400000711091C05C01, 0x04000001F00000000000] = [
    .ld bare .h true false 17#5 5#3 9#5 (.off 0x80#8),
    .ld bare .w false true 0#5 5#3 9#5 (.postInc 64#8),
    .ldb bare .b true false 17#5 5#3 9#5 (.reg 30#5),
    .ldg bare .w false false 17#5 5#3 9#5 true 30#5 (.off 1#8),
    .ldf bare .w false false 17#5 5#3 9#5 (.off 0#8),
    .lds bare .h false false 17#5 5#3 9#5 28#5 3#2,
    .mark false 3#4].map .ok := by rfl

/-- One word of each instruction, its fields in the places of 03 R78 and its opcode of R87 and R88: stores. -/
theorem test_decode_stores : engine 4#3 [
    0x004000007110900053FD, 0x00800000711091E05800, 0x00C00000711091E1540A, 0x01000000711090005000, 0x01400000711090005012,
    0x10000000711091E15000, 0x14C00000711091EC5000, 0x17000000711091E05000, 0x04000001F00000000000] = [
    .st bare .h 17#5 5#3 9#5 (.off 0xFF#8),
    .stb bare .w 17#5 5#3 9#5 (.reg 30#5),
    .stg bare .b 17#5 5#3 9#5 true 30#5 (.postInc 2#8),
    .stf bare .w 17#5 5#3 9#5 (.off 0#8),
    .stn4 bare 17#5 5#3 9#5 false (.off 4#8),
    .vamo bare .add .f32 17#5 5#3 9#5 30#5 0#3 true (.off 0#8),
    .vamo bare .cas .i32 17#5 5#3 9#5 30#5 6#3 false (.off 0#8),
    .vamo bare .min .n32 17#5 5#3 9#5 30#5 0#3 false (.off 0#8),
    .mark true 3#4].map .ok := by rfl

/-- One word of each instruction, its fields in the places of 03 R78 and its opcode of R87 and R88: copies and near-memory commands. -/
theorem test_decode_copies_and_near_memory_commands : engine 5#3 [
    0x00400000731291E00C8B, 0x00400000711491E00C8B, 0x00800000731091E02C8B, 0x00C00000711891E02C8B, 0x01000000711A91E00C8B,
    0x01400000731001E02C8B, 0x01400000700801E00C8B, 0x04000000711091E02C8B, 0x04800000711091E02C8B, 0x04400000711001E02C8B,
    0x05000000711001E02C8B, 0x04C00000711090002C8B, 0x05400000711000002C8B, 0x05800000700000000C8B] = [
    .cpy bare true false true 17#5 9#5 30#5 200#8 11#4,
    .cpy bare false true false 17#5 9#5 30#5 200#8 11#4,
    .cpy2 bare true false false 17#5 9#5 30#5 2#5 200#8 11#4,
    .cpys bare .b 17#5 9#5 30#5 2#5 200#8 11#4,
    .cpyf bare true false true 17#5 9#5 30#5 200#8 11#4,
    .fill bare true 17#5 30#5 2#5 200#8 11#4,
    .fillDiscard bare 30#5 200#8 11#4,
    .nmaxpy bare 17#5 9#5 30#5 2#5 200#8 11#4,
    .nmfade bare 17#5 9#5 30#5 2#5 200#8 11#4,
    .nmscale bare 17#5 30#5 2#5 200#8 11#4,
    .nmfill bare 17#5 30#5 2#5 200#8 11#4,
    .nmsum bare 17#5 9#5 2#5 200#8 11#4,
    .nmchk bare 17#5 2#5 200#8 11#4,
    .nmfence bare 200#8 11#4].map .ok := by rfl

/-- 03 R69 to R72, R90: a reserved opcode, function, name of a field or unused bit is refused. -/
theorem test_decode_refuses_words : refusedWords [
    0x00000000, 0x00400013, 0x00400024, 0x004000A0, 0x00800008, 0x00C0000A, 0x00D00000, 0x01000004, 0x01000083, 0x01400003, 0x03000040,
    0x04100000, 0x06800000, 0x0A080000, 0x0C400001, 0x11000040, 0x12000005, 0x12000008, 0x14000002, 0x16800001, 0x17C00001, 0x18000018,
    0x18800183, 0x18C00005, 0x19000001, 0x19400010, 0xC0000000, 0xC0800800, 0xC1002000, 0xC3800001, 0xC4000002, 0xCB000004, 0xCB800000,
    0xCD800000, 0xCF800000, 0xE0000000, 0xE2000001, 0xE4000000, 0xE5800000, 0xE6007000, 0xE8004000, 0xEA000000] = true := by decide

/-- 03 R78, R79, R87, R88, 06 R140, 09 R213, R214, 10 R233, 11 R253: the same for engine words: an opcode, a type, a rounding code, a tag
without its valid bit, a second consumed tag without a first, operands and modifier bits that must be zero or that exclude each other. -/
theorem test_decode_refuses_vx : refusedEngine 1#3 [
    0x00000001FB1091E00000, 0x03400001FB1091E00000, 0x08C00001FB1091E00000, 0x02000001FB1091E00005, 0x02000001FB1091E00004,
    0x02000001FB1091E00008, 0x02000001FB1091E01000, 0x02002001FB1091E00000, 0x02000081FB1091E00000, 0x02000001FB1291E00000,
    0x1A400001FB1090000000, 0x17000001FB1090000000, 0x30000001FB1091E00003, 0x30C00001FB1091E0000A, 0x34000001F28030500000,
    0x40000001FB1091E00448, 0x40000001FB1091E0008A, 0x42000001FB1091E00003, 0x44000001FB1090000008, 0x48000001FB1091E0000D,
    0x58000001FB1091E11000, 0x72000001FB1000000100, 0x78000001FB1090000000, 0x22400001FB1091E00000, 0x7C000001FB1091E00000] = true := by decide

theorem test_decode_refuses_mx : refusedEngine 2#3 [
    0x00000001F00091E00000, 0x00400001F43091E00000, 0x00400001F03840800000, 0x01000001F01000000000, 0x01400001F110A0100000,
    0x01400001F110A0000005, 0x01C00001F00000000080, 0x02400001F00090800000, 0x02C00001FB1091E00000] = true := by decide

theorem test_decode_refuses_ld : refusedEngine 3#3 [
    0x00000001F11090000000, 0x00400001F11090000003, 0x00400001F11090008000, 0x00400001F81090000000, 0x00400001F11091E00800,
    0x00800001F11091E00C00, 0x00800001F11091E00804, 0x01400001F11091E00800, 0x04000001F00000000001, 0x04400001FB1091E00000] = true := by decide

theorem test_decode_refuses_st : refusedEngine 4#3 [
    0x00400001F91090000000, 0x01400001F11090000000, 0x11000001F11091E00000, 0x10000001F11091E20000, 0x10400001F11091E00000,
    0x0FC00001FB1091E00000] = true := by decide

theorem test_decode_refuses_cp : refusedEngine 5#3 [
    0x00400001F31491E00000, 0x00C00001F31091E02000, 0x00C00001F11C91E02000, 0x01000001F11491E00000, 0x01400001F01801E00000,
    0x04400001F11091E02000, 0x05800001F01000000000, 0x05C00001FB1091E00000] = true := by decide

end Sys2Proof.Tests
end

