-- ==== Sys2Proof/Tests/Slice0.lean ====
section
/-! SUPPORT. For each check of WellFormed an ill-formed term, which the check refuses. -/
namespace Sys2Proof.Tests

def refusesAll (l : List Instr) : Bool := l.all fun i => !i.wf

/-- Words of the control stream: STC has no zero-extending sizes, TDEF and engine words no class 0 or 6, codes of tables end at 0x17,
TLBI of all has a = 0, DEQ and PEEK without an indirect priority have b = 0. -/
theorem test_wf_refuses_control : refusesAll [
    .stc .bn 1#5 2#5 0#12, .stc .hn 1#5 2#5 0#12, .stcLong .wn 1#5 2#5 0#32,
    .tdef 0#3 0#6 0#80, .tdef 6#3 0#6 0#80, .tbw 1#5 2#5 3#5 0x18#7, .tbr 1#5 2#5 3#5 0x18#7, .tlbi .all 1#5,
    .deq 1#5 2#5 1#5 false 0#3, .peek 1#5 2#5 1#5 false 0#3,
    .patchWordDispatch 0#3 0#6 0#4 false false false 0#16, .patchWordDispatch 6#3 0#6 0#4 false false false 0#16] = true := by decide

/-- VX: a second tag without a first, a rounding mode or SAT that the type does not have, formats and parts out of range. -/
theorem test_wf_refuses_vx : refusesAll [
    .vand { bare with tc1 := some 1#4 } 1#5 0#3 2#5 3#5,
    .vadd bare .f32 .sr false 1#5 0#3 2#5 3#5, .vadd bare .f32 .rne true 1#5 0#3 2#5 3#5, .vadd bare .i32 .rtz false 1#5 0#3 2#5 3#5,
    .vsub bare .f16 .sr false 1#5 0#3 2#5 3#5, .vmul bare .n32 .rup false 1#5 0#3 2#5 3#5,
    .vfma bare .i32 .rne 1#5 0#3 2#5 3#5 4#5, .vfms bare .f32 .sr 1#5 0#3 2#5 3#5 4#5, .vfnma bare .n32 .rne 1#5 0#3 2#5 3#5 4#5,
    .vdiv bare .i32 .rne 1#5 0#3 2#5 3#5, .vdiv bare .bf16 .sr 1#5 0#3 2#5 3#5, .vsqrt bare .n32 .rne 1#5 0#3 2#5,
    .vexp2 bare .sr 1#5 0#3 2#5, .vlog2 bare .sr 1#5 0#3 2#5,
    .vabs bare .n32 false 1#5 0#3 2#5, .vabs bare .f32 true 1#5 0#3 2#5, .vneg bare .n32 false 1#5 0#3 2#5, .vneg bare .bf16 true 1#5 0#3 2#5,
    .vmulh bare .f32 1#5 0#3 2#5 3#5, .vcmp bare .i32 .un 1#3 0#3 2#5 3#5,
    .vcvt bare .i64 .fp32 .rne 1#5 0#3 2#5 0#5, .vcvt bare .fp32 .c4 .rne 1#5 0#3 2#5 0#5, .vcvt bare .fp32 .i8 .sr 1#5 0#3 2#5 3#5,
    .vcvt bare .fp32 .bf16 .rne 1#5 0#3 2#5 3#5, .vunpack bare .w16 2#3 false 1#5 0#3 2#5, .vunpack bare .w8 4#3 true 1#5 0#3 2#5,
    .vscale bare .i8 1#5 0#3 2#5 3#5, .vscale bare .c4 1#5 0#3 2#5 3#5, .vsort bare .f32 false 4#5 0#3 2#5 3#5 4#5] = true := by decide

/-- MX: an A register beside Q, a field of MDRAIN that its flags leave unused and that is not 0, a range of banks that runs backwards. -/
theorem test_wf_refuses_mx : refusesAll [
    .mma bare 0#2 0#4 true 1#5 2#5 3#5 4#12, .mmaz bare 0#2 0#4 true 1#5 2#5 3#5 4#12, .mmap bare 0#2 0#4 true 1#5 2#5 3#5 4#12,
    .mdrain bare false false false 1#5 0#4 2#5 3#5 0#8, .mdrain bare true false false 1#5 0#4 2#5 3#5 1#8,
    .mpark bare 0#5 2#5 1#5 0#5, .munpark bare 0#5 2#5 1#5 0#5] = true := by decide

/-- LD and ST: sign extension of a whole word, a register beside the FIFO, the register form on a scratchpad, a rank past 31, types and
operands that VAMO does not admit. -/
theorem test_wf_refuses_memory : refusesAll [
    .ld bare .w true false 1#5 0#3 2#5 (.off 0#8), .ld bare .h true true 1#5 0#3 2#5 (.off 0#8), .ld bare .w false false 1#5 0#3 2#5 (.reg 3#5),
    .ldb bare .w true false 1#5 0#3 2#5 (.reg 3#5), .ldg bare .w false false 1#5 0#3 2#5 false 3#5 (.reg 3#5),
    .ldf bare .b false true 1#5 0#3 2#5 (.off 0#8), .lds bare .w false false 1#5 0#3 2#5 31#5 1#2,
    .st bare .w 1#5 0#3 2#5 (.reg 3#5), .stg bare .w 1#5 0#3 2#5 false 3#5 (.reg 3#5), .stn4 bare 1#5 0#3 2#5 false (.reg 3#5),
    .vamo bare .and .f32 1#5 0#3 2#5 3#5 0#3 false (.off 0#8), .vamo bare .add .i32 1#5 0#3 2#5 3#5 1#3 false (.off 0#8),
    .vamo bare .add .i32 1#5 0#3 2#5 3#5 0#3 false (.reg 3#5)] = true := by decide

/-- CP: CV together with DV or SV (11 R253). -/
theorem test_wf_refuses_copy : refusesAll [
    .cpy bare true true false 1#5 2#5 3#5 0#8 0#4, .cpy bare false true true 1#5 2#5 3#5 0#8 0#4,
    .cpy2 bare true true false 1#5 2#5 3#5 4#5 0#8 0#4] = true := by decide

end Sys2Proof.Tests
end

