-- ==== Sys2Proof/Tests/Values.lean ====
section
/-! SUPPORT. The values that the spec's tables and worked examples print, each against the model: the control core's arithmetic as executed,
formats and rounding, sums, draws, and addresses. -/
namespace Sys2Proof.Tests

open Sys2Proof Sys2Proof.Machine

/-- What an instruction leaves in S3, run with a in S1 and b in S2. -/
def s3 (i : Instr) (a b : Word) : Option Word :=
  match exec i { State.reset with slots := [(0, { r := { s := [(1, a), (2, b)] } })] } with
  | .next t => some (t.me.getS 3#5)
  | .fault _ => none
  | .refused _ => none

def least : Word := 0x8000000000000000#64

/-- The table of borderline cases of 05 R113 to R115. -/
theorem test_borderline : s3 (.div 3#5 1#5 2#5) least (-1) = some least ∧ s3 (.rem 3#5 1#5 2#5) least (-1) = some 0#64 ∧
    s3 (.divn 3#5 1#5 2#5) least (-1) = some 0#64 ∧ s3 (.remn 3#5 1#5 2#5) least (-1) = some least ∧
    s3 (.mul 3#5 1#5 2#5) least (-1) = some least ∧ s3 (.mulh 3#5 1#5 2#5) least (-1) = some 0#64 ∧
    s3 (.mulhn 3#5 1#5 2#5) least (-1) = some 0x7FFFFFFFFFFFFFFF#64 ∧ s3 (.sha 3#5 1#5 2#5) least 70#64 = some 0xFFFFFFFFFFFFFFFF#64 ∧
    s3 (.shr 3#5 1#5 2#5) least 63#64 = some 1#64 ∧ s3 (.div 3#5 1#5 2#5) 7#64 0#64 = some 0xFFFFFFFFFFFFFFFF#64 ∧
    s3 (.rem 3#5 1#5 2#5) 7#64 0#64 = some 7#64 ∧ s3 (.div 3#5 1#5 2#5) (-7) 2#64 = some (-3) ∧ s3 (.rem 3#5 1#5 2#5) (-7) 2#64 = some (-1) ∧
    s3 (.clz 3#5 1#5) 0#64 0#64 = some 64#64 := by decide +kernel

/-- 02 R47, R48: element 0 of 0xA3 is code 3, 0.5, and element 1 code 10, -1.25; the scale 0x200 is 2.0. -/
theorem test_scaled_c4 : let cb : BitVec 256 := BitVec.ofNat 256 (0x3F00 * 2 ^ 48 + 0xBFA0 * 2 ^ 160)
    let at_ := fun (code : Nat) => f32Fmt.round .rne ((bf16Fmt.decode (cbEntry cb code)).mul (scaleNum 0x200))
    at_ (0xA3 % 16) = 0x3F800000 ∧ at_ (0xA3 / 16) = 0xC0200000 := by decide +kernel

/-- 02 R50: 464 and 463.9 round to 448 in E4M3, and 470 saturates to it. -/
theorem test_e4m3 : [0x43E80000, 0x43E7F333, 0x43EB0000].map (fun w => convert .e4m3 .rne (f32Fmt.decode w)) = [0x7E, 0x7E, 0x7E] := by decide +kernel

/-- 02 R52 and the run of 06: four lanes with the draw that they print (log 1); RNE of the first two. -/
theorem test_stochastic : [0x3F808000, 0xBF808000, 0x40000000, 0x7F800001].map (fun x => bf16Fmt.roundSr 0x7EDB2F28 (f32Fmt.decode x)) =
      [0x3F81, 0xBF81, 0x4000, 0x7FC0] ∧
    [0x3F808000#32, 0xBF808000#32].map (fun x => vcvtOp .fp32 .bf16 .rne 1#64 x 0#32) = [0x3F80#32, 0xBF80#32] := by decide +kernel

/-- 02 R56: the four groups of its table. -/
theorem test_groups : let p := fun (n : Bool) (e : Int) => Num.fin n 1 e
    [[p false 0, p false (-24)], [p false 0, p false (-24), p false (-60)], [p true 0, p true (-24), p true (-60)],
      [p false 0, p false (-24), p true (-60)]].map (fun l => f32Fmt.round .rne (groupValue (l ++ [.zero]) none)) =
      [0x3F800000, 0x3F800001, 0xBF800001, 0x3F800001] := by decide +kernel

/-- 02 R63, its second column and key 0 (its first column is not what R62 gives: log 1), and the table of R64; w of DRAW in 19. -/
theorem test_draws : pralineH 0xE18E3D71#32 = 0x7EDB2F28#32 ∧ praline 0#64 0#64 = 0#32 ∧
    [[100, 50, 50], [99, 50, 51], [0, 0, 0]].map (fun l => winner l 0x7EDB2F28) = [0, 1, 0] ∧ 0x7EDB2F28 * 200 / 2 ^ 32 = 99 := by decide +kernel

/-- The addresses that 07 resolves: an SA, and an offset of a buffer of stacks 4 to 7; and where 12 finds it. -/
theorem test_addresses : tileOfSa 0x23523456 = 2 * 48 + 13 ∧ bankOf 0x23523456 = 5 ∧ bankLocal 0x23523456 = 0x8D16 ∧ granuleOf 0x23523456 = 18 ∧
    placeOf (0x00F0 * 2 ^ 200 + 4 * 2 ^ 216) 0x200000000 0x40 0x605300 = (5, 0x200801300) ∧ regionIdx (hbmKey 5 0x200801300) = 5 * 2 ^ 15 + 0x1004 ∧
    pcOf (hbmKey 5 0x200801300) = 2 * 9 + 1 := by decide +kernel

/-- 10 R248: what a kept element of value 1.0 becomes at rate 126, and what the bank receives. -/
theorem test_dropout : let at_ := fun (rate : Nat) => f32Fmt.round .rne (dropNum 1#64 0 0 0 0 rate (f32Fmt.decode 0x3F800000))
    at_ 126 = 0x3FFC0FC1 ∧ bf16Fmt.round .rne (f32Fmt.decode 0x3FFC0FC1) = 0x3FFC := by decide +kernel

/-- 11 R263: one rounding of the fade. -/
theorem test_fade : f32Fmt.round .rne (nmValue 2 0x3F800000#32 0x33000000#32 (f32Fmt.decode 0x3F800000) (f32Fmt.decode 0x33000000)) = 0x3F7FFFFF := by
  decide +kernel

end Sys2Proof.Tests
end

