-- ==== Sys2Proof/Tests/Witness.lean ====
section
/-! SUPPORT. For every statement with hypotheses a state and operands that meet them, clause by clause. Small states: the state after
reset with a slot, a tile or a few entries given. -/
namespace Sys2Proof.Tests

set_option Elab.async false

open Sys2Proof Sys2Proof.Machine

/-! ### States -/

/-- Reset with slot 0 as given. -/
def at0 (x : Slot) : State := { State.reset with slots := [(0, x)] }

/-- A buffer of one stripe of 2 MiB in stack 0 with every right, tenant 1, page map in region 1 of stack 0, key id 0. -/
def someBuffer : Nat := 2 ^ 255 + 2 ^ 254 + 2 ^ 253 + 2 ^ 252 + 2 ^ 251 + 2 ^ 250 + 2 ^ 232 + 2 ^ 200 + 2 ^ 160 + 2 ^ 21

/-- Context 1 of tenant 1, buffer 1 with its page, segment 0 and a key, stack 0 with two regions in summer; slot 0 as given under tenant 1,
team 1 and context 1, on a tile whose granules are the team's. -/
def base (x : Slot) : State :=
  ({ State.reset with
    slots := [(0, { x with y := { x.y with tenant := 1#8, ctx := 1#12 }, job := { x.job with team := 1 } })]
    tiles := [(0, { owner := (below 64).map fun g => (g, ownerEntry 1 1) })]
    tab := [(tkey 0x00 1, someBuffer), (tkey 0x03 0, 2 ^ 63 + 2 ^ 32), (tkey 0x08 0, keyCount), (tkey 0x0D 0, 16), (tkey 0x0D 1, 16)]
    hbm := [(0, { report := some codeReport })]
    vfs := [(0, { enabled := true })] } : State).setEntry 0x01 (2 ^ 18) (2 ^ 63)

/-- Where buffer 1 begins. -/
def va1 : Word := BitVec.ofNat 64 (2 ^ 40)

theorem ok_of {ε α : Type} {e : Except ε α} (h : e.isOk = true) : ∃ q, e = .ok q := by
  cases e with
  | ok q => exact ⟨q, rfl⟩
  | error f => cases h

theorem okUnit_of {ε : Type} {e : Except ε Unit} (h : e.isOk = true) : e = .ok () := (ok_of h).elim fun _ h => h

theorem okEq_of {ε α : Type} {e : Except ε α} {v : α} (h : e.toOption = some v) : e = .ok v := by
  cases e with
  | ok q => exact congrArg _ (Option.some.inj h)
  | error f => cases h

theorem errEq_of {ε α : Type} {e : Except ε α} {f : ε} (h : (match e with | .error f => some f | .ok _ => none) = some f) : e = .error f := by
  cases e with
  | ok q => cases h
  | error g => exact congrArg _ (Option.some.inj h)

/-! ### The control core -/

/-- Registers with values in S1 to S6: 7, -1, 0, 3, 2^63, 100. -/
def someS : Regs := { s := [(1, 7#64), (2, BitVec.allOnes 64), (4, 3#64), (5, BitVec.ofNat 64 (2 ^ 63)), (6, 100#64)] }

def ctl : State := at0 { r := someS, pc := 0x1000#64 }

theorem wit_ControlResults : ([Instr.add 9#5 1#5 2#5, .sub 9#5 1#5 2#5, .mul 9#5 1#5 2#5, .mulh 9#5 1#5 2#5, .mulhn 9#5 1#5 2#5, .and 9#5 1#5 2#5,
    .or 9#5 1#5 2#5, .xor 9#5 1#5 2#5, .min 9#5 1#5 2#5, .max 9#5 1#5 2#5, .minn 9#5 1#5 2#5, .maxn 0#5 1#5 2#5, .sel 1#3 9#5 1#5 2#5,
    .bufa 9#5 1#5 6#5, .bufa 9#5 2#5 6#5, .bufx 9#5 5#5, .bufo 9#5 5#5, .addi 9#5 1#5 0xFFF#12, .andi 9#5 1#5 0xFFF#12, .ori 9#5 1#5 1#12,
    .xori 9#5 1#5 1#12, .shli 9#5 1#5 63#6, .shri 9#5 1#5 1#6, .shai 9#5 5#5 63#6, .lui 9#5 0x40000#19, .liw 9#5 5#64].all fun i =>
      match sResult ctl.me i with
      | some (_, _, ss, ps, _) => !ctl.me.waits ss ps
      | none => false) = true ∧
    ctl.me.waits [9#5, 1#5] [] = false ∧
    ([Instr.cmp .ltn 1#3 1#5 2#5, .cmpi .ge 1#3 1#5 7#12, .pand 1#3 0#3 2#3, .por 1#3 0#3 2#3, .pxor 0#3 0#3 2#3, .pnot 1#3 0#3].all fun i =>
      match pResult ctl.me i with
      | some (_, _, ss, ps) => !ctl.me.waits ss ps
      | none => false) = true := by decide +kernel

/-- A division by zero, the signed overflow, and another one. -/
theorem wit_Division : (ctl.me.waits [9#5, 1#5, 0#5] [] = false ∧ ctl.me.getS 0#5 = 0#64) ∧
    (ctl.me.waits [9#5, 5#5, 2#5] [] = false ∧ (ctl.me.getS 5#5).toInt = -2 ^ 63 ∧ (ctl.me.getS 2#5).toInt = -1) ∧
    (ctl.me.waits [9#5, 6#5, 1#5] [] = false ∧ ctl.me.getS 1#5 ≠ 0#64 ∧ (ctl.me.getS 6#5).toInt ≠ -2 ^ 63) := by decide +kernel

theorem wit_Shifts : ctl.me.waits [9#5, 2#5, 6#5] [] = false ∧ (ctl.me.getS 6#5).toNat = 100 ∧
    ctl.me.waits [9#5, 2#5, 1#5] [] = false ∧ (ctl.me.getS 1#5).toNat = 7 := by decide +kernel

theorem wit_Jumps : ctl.me.waits [] [1#3] = false ∧ ctl.me.waits [9#5] [] = false ∧
    (ctl.me.waits [9#5, 6#5] [] = false ∧ (ctl.me.getS 6#5 + (4#12).signExtend 64).toNat % 4 = 0) ∧
    (ctl.me.waits [9#5, 1#5] [] = false ∧ (ctl.me.getS 1#5 + (4#12).signExtend 64).toNat % 4 ≠ 0) := by decide +kernel

/-- A slot with a MOVX entry at the head of each of its four queues. -/
def movxSlot : Slot :=
  let q : EngQ := { entries := [{ cmd := .movx 3#5 9#64, seq := 1#32 }], seqNo := 1#32 }
  { e := { ld := q, st := q, cp := q, mx := q } }

theorem wit_EngineMoves : (ctl.me.waits [1#5] [] = false ∧ ∀ e ∈ movxEngines, ctl.me.room e = true) ∧
    (∀ e ∈ movxEngines, ((at0 movxSlot).me.eng e).entries = [{ cmd := .movx 3#5 9#64, seq := 1#32 }] ∧ (at0 movxSlot).me.mayIssue e = true ∧
      (at0 movxSlot).me.xLanding (viewOf e) = false) ∧
    (ctl.me.waits [9#5] [] = false ∧ ctl.me.e.ld.entries = [] ∧ ctl.me.xLanding 0#2 = false) := by decide +kernel

/-- Every defined name, at scheduler level; and every name that SYSW writes for its slot. -/
def sched : State := at0 { r := someS, y := { level := 1#2 } }

theorem wit_SystemRegisters : ([0x000#12, 0x001#12, 0x008#12, 0x009#12, 0x00A#12, 0x00B#12, 0x00C#12, 0x00D#12, 0x010#12, 0x011#12, 0x012#12, 0x018#12,
    0x019#12, 0x020#12, 0x021#12, 0x022#12, 0x028#12, 0x030#12, 0x031#12, 0x032#12, 0x033#12, 0x034#12, 0x040#12].all fun n =>
      match sysView sched n 0#5 with
      | some (lvl, _) => decide (lvl ≤ modeLevel sched) && !sched.me.waits [9#5] [] && !sched.me.sysBusy n 0#5
      | none => false) = true ∧
    ([0x00C#12, 0x00D#12, 0x011#12, 0x018#12, 0x019#12, 0x028#12, 0x030#12, 0x031#12, 0x032#12, 0x033#12, 0x034#12, 0x040#12].all fun n =>
      match sysView sched n 0#5 with
      | some (_, old) => (match sysStored n old (sched.me.getS 2#5) with
        | some (lvl, _) => decide (lvl ≤ modeLevel sched) && !sched.me.waits [2#5] [] && !sched.me.sysBusy n 0#5
        | none => false)
      | none => false) = true := by decide +kernel

theorem wit_ControlTraps_levels : sysView ctl 0x7FF#12 0#5 = none ∧ sysView ctl 0x000#12 1#5 = none ∧
    (sysView ctl 0x033#12 0#5 = some (1, 0#64) ∧ modeLevel ctl < 1) ∧
    (sysView ctl 0x018#12 0#5 = some (0, 0#64) ∧ sysStored 0x018#12 0#64 (ctl.me.getS 1#5) = some (1, 7#64) ∧ modeLevel ctl < 1) ∧
    (1 ≤ modeLevel sched ∧ sched.me.y.inTrap = false) ∧ (at0 { y := { inTrap := true } }).me.y.inTrap = true := by decide +kernel

/-- S1 is misaligned, S6 an aligned address of a tile whose granule is free. -/
theorem wit_ControlTraps_access : ctl.me.waits [9#5, 1#5, 2#5] [] = false ∧ (∀ g ∈ ctl.me.fences, ctl.fenceHolds ctl.cur g = false) ∧
    ctl.fenceHolds ctl.cur ⟨ctl.me.ord + 1, .ls, .p⟩ = false ∧ (ctl.me.getS 1#5).toNat % 4 ≠ 0 ∧
    ((ctl.me.getS 6#5).toNat % 4 = 0 ∧ ∃ f, ctl.checkAt (ctl.issuer ctl.cur) (ccIsVa 100) 100 4 rR = .error f) := by
  refine ⟨by decide +kernel, by decide +kernel, by decide +kernel, by decide +kernel, by decide +kernel, ⟨_, rfl⟩⟩

/-- A byte of buffer 1 that is poisoned. -/
def struck : State := ((base { r := { s := [(1, va1)] } }).putByte (hbmKey 0 0) 1#8).markPoison (hbmKey 0 0)

theorem wit_ControlTraps_poison : struck.me.waits [9#5, 1#5, 2#5] [] = false ∧ (struck.me.getS 1#5).toNat % 8 = 0 ∧
    (∃ q, struck.checkAt (struck.issuer struck.cur) (ccIsVa (2 ^ 40)) (2 ^ 40) 8 rR = .ok q) ∧
    (struck.readKeys (bytesAt struck (2 ^ 40) 8)).2 = true :=
  ⟨by decide +kernel, by decide +kernel, ok_of (by decide +kernel), by decide +kernel⟩

/-- A slot whose trap block stands at the start of buffer 1, its vector at offset 0x1000 of it. -/
def trapping : State :=
  ((((base { y := { cutBase := va1 } }).putByte (hbmKey 0 1) 0x10#8).putByte (hbmKey 0 5) 0x01#8))

/-- What the trap has saved before the handler is fetched. -/
def trapSaved (n : Nat) (f : Flt) (tag : Word) (cls src : Nat) (s : State) : State × State :=
  let u := (s.takeCut n).upSlot n fun x => x.trapRegs f cls
  (u, (u.putBlock n ((u.slot n).trapBlock tag src f.info)).upSlot n Slot.trapMode)

set_option maxRecDepth 20000 in
theorem wit_TrapEntry : (trapping.slot 0).y.inTrap = false ∧ trapping.cutReady 0 false = true ∧ (trapping.slot 0).drain = none ∧
    (trapSaved 0 ⟨0x60, 5⟩ 0#64 0 0 trapping).1.trapVec 0 = some (2 ^ 40 + 0x1000) ∧
    (∃ bs, (trapSaved 0 ⟨0x60, 5⟩ 0#64 0 0 trapping).2.fetch ((trapSaved 0 ⟨0x60, 5⟩ 0#64 0 0 trapping).2.schedIssuer 0) (2 ^ 40 + 0x1000) 4 = .ok bs) :=
  ⟨by decide +kernel, by decide +kernel, by decide +kernel, by decide +kernel, ok_of (by decide +kernel)⟩

/-- The same slot with a fault that waits for its cut. -/
def trapDrain : State := trapping.upSlot 0 fun x => { x with drain := some (⟨0x60, 5⟩, 0#64, 0) }

set_option maxRecDepth 20000 in
theorem wit_TrapEntry_drain : (trapDrain.slot 0).y.inTrap = false ∧ trapDrain.cutReady 0 false = true ∧ 0 = trapDrain.cur ∧
    (trapDrain.slot 0).drain = some (⟨0x60, 5⟩, 0#64, 0 * 8 + 0) ∧
    (trapSaved 0 ⟨0x60, 5⟩ 0#64 0 0 trapDrain).1.trapVec 0 = some (2 ^ 40 + 0x1000) ∧
    (∃ bs, (trapSaved 0 ⟨0x60, 5⟩ 0#64 0 0 trapDrain).2.fetch ((trapSaved 0 ⟨0x60, 5⟩ 0#64 0 0 trapDrain).2.schedIssuer 0) (2 ^ 40 + 0x1000) 4 = .ok bs) :=
  ⟨by decide +kernel, by decide +kernel, by decide +kernel, by decide +kernel, by decide +kernel, ok_of (by decide +kernel)⟩

/-- A slot in a handler; and the parts of a job that ENDJ ends. -/
theorem wit_ReturnsAndParts :
    (let s := at0 { y := { level := 1#2, inTrap := true } }
     1 ≤ modeLevel s ∧ s.me.y.inTrap = true ∧ s.me.anyLatch = false) ∧
    (∀ p ∈ [Part.prologue, .kernel, .epilogue, .idle, .ended], ∀ n ∈ [0, 1, 2],
      (at0 { job := { part := p, trip := n } }).me.y.inTrap = false) := by decide +kernel

theorem wit_RegionsAndFences :
    (let s := at0 { hold := .region true }
     s.me.hold = .region true ∧ s.me.drained = true) ∧
    (∀ w ∈ [true, false], (at0 { hold := .arb w 5#64 }).me.hold = .arb w 5#64 ∧
      ((at0 { hold := .arb w 5#64 }).tile ((at0 { hold := .arb w 5#64 }).cur / 8)).busy = none) ∧
    (1 ≤ (5#3).toNat ∧ (5#3).toNat ≤ 5) ∧
    (let s := { at0 { ord := 5, e := { vx := { entries := [{ cmd := .movx 3#5 9#64, ord := 2 }] } } } with tiles := [(0, { holdVx := some ⟨0, 0, false⟩ })] }
     ((s.tile (s.cur / 8)).holdVx.map (·.slot) = some s.cur) ∧ (∀ en ∈ s.me.e.vx.entries, en.ord ≤ s.me.ord)) := by decide +kernel

/-! ### Accesses of the control core and table words -/

/-- What `Admitted` asks, as a Bool. -/
theorem admitted_of {s : State} {t n right : Nat} {k : AccKind}
    (h : ((s.checkAt (s.issuer s.cur) (ccIsVa t) t n right).isOk && !s.scHolds s.cur (s.me.ord + 1) &&
      !s.fenced s.cur (s.me.ord + 1) k ((bytesAt s t n).map fun q => homeOf q.1)) = true) : Admitted s t n right k := by
  simp only [Bool.and_eq_true, Bool.not_eq_eq_eq_not, Bool.not_true] at h
  exact ⟨ok_of h.1.1, h.1.2, h.2⟩

/-- S1 at the start of the tile's scratchpad and of buffer 1. -/
def acc (a : Word) : State := base { r := { s := [(1, a), (2, 5#64)] } }

theorem wit_ControlLoads : ((acc va1).me.waits [9#5, 1#5] [] = false ∧ ((acc va1).me.getS 1#5).toNat = 2 ^ 40 ∧ Admitted (acc va1) (2 ^ 40) 8 rR .load ∧
    Clean (acc va1) (2 ^ 40) 8) ∧ (Admitted (acc 64#64) 64 4 rR .load ∧ Clean (acc 64#64) 64 4) := by
  refine ⟨⟨by decide +kernel, by decide +kernel, admitted_of (by decide +kernel), ?_⟩, admitted_of (by decide +kernel), ?_⟩ <;>
    unfold Clean <;> decide +kernel

theorem wit_ControlStores : (acc 64#64).me.waits [2#5, 1#5] [] = false ∧ Admitted (acc 64#64) 64 2 rW .store ∧
    Admitted (acc va1) (2 ^ 40) 8 rW .store := ⟨by decide +kernel, admitted_of (by decide +kernel), admitted_of (by decide +kernel)⟩

theorem wit_ControlAtomics : (acc va1).me.waits [9#5, 1#5, 2#5] [] = false ∧
    (acc va1).fenceHolds (acc va1).cur ⟨(acc va1).me.ord + 1, .ls, .p⟩ = false ∧ (2 ^ 40) % 8 = 0 ∧ Admitted (acc va1) (2 ^ 40) 8 rA .both ∧
    Clean (acc va1) (2 ^ 40) 8 ∧ (acc 64#64).fenceHolds (acc 64#64).cur ⟨(acc 64#64).me.ord + 1, .ls, .t⟩ = false ∧ 64 % 4 = 0 ∧
    Admitted (acc 64#64) 64 4 rA .both ∧ Clean (acc 64#64) 64 4 := by
  refine ⟨by decide +kernel, by decide +kernel, by decide, admitted_of (by decide +kernel), ?_, by decide +kernel, by decide, admitted_of (by decide +kernel), ?_⟩ <;>
    unfold Clean <;> decide +kernel

/-- A slot at firmware level with index S1 and image at S2. -/
def tabs (i : Word) (img : Nat) : State :=
  let s := base { r := { s := [(1, i), (2, va1)] }, y := { level := 2#2 } }
  (below 72).foldl (fun s j => s.putByte (hbmKey 0 j) (BitVec.ofNat 8 (img / 256 ^ j))) s

/-- The read of an image of n bytes at S2, with the state after it. -/
def imageOf (s : State) (n : Nat) : Option (State × Nat) := (s.ccRead (2 ^ 40) (bytesAt s (2 ^ 40) n)).toOption

theorem imageRead_of {s : State} {n : Nat} (h : ((s.checkAt (s.issuer s.cur) (ccIsVa (2 ^ 40)) (2 ^ 40) n rR).isOk &&
      !s.scHolds s.cur (s.me.ord + 1) && !s.fenced s.cur (s.me.ord + 1) .load ((bytesAt s (2 ^ 40) n).map fun q => homeOf q.1) &&
      (imageOf s n).isSome) = true) : ∃ s1 v, imageOf s n = some (s1, v) ∧ ImageRead s (2 ^ 40) n s1 v := by
  simp only [Bool.and_eq_true] at h
  obtain ⟨⟨⟨a, b⟩, c⟩, d⟩ := h
  obtain ⟨⟨s1, v⟩, e⟩ := Option.isSome_iff_exists.mp d
  exact ⟨s1, v, e, by decide, admitted_of (by rw [a, b, c]; rfl), okEq_of e⟩

/-- The image of a window entry, read by FMMUW at index 5; one that each of the other words reads at its own index. -/
theorem wit_TableWrites :
    ([Instr.tbw 9#5 1#5 2#5 0x00#7, .tbw 9#5 1#5 2#5 0x01#7, .tbw 9#5 1#5 2#5 0x02#7, .tbw 9#5 1#5 2#5 0x0A#7, .tbw 9#5 1#5 2#5 0x17#7,
      .shardw 9#5 1#5 2#5 false, .shardw 9#5 1#5 2#5 true, .fmmuw 9#5 1#5 2#5 false, .fmmuw 9#5 1#5 2#5 true, .protw 9#5 1#5 2#5].all fun i =>
      match tableWord 9#5 1#5 2#5 i with
      | some (code, lvl, _) =>
        let s := tabs (if code = 1 then va1 else if code = 0x17 then 0#64 else if code = 0x0A then 0#64 else 5#64) 0
        let n := imageBytes code
        !s.me.waits [9#5, 1#5, 2#5] [] && decide (lvl ≤ s.me.y.level.toNat) && decide (s.me.getS 2#5 = va1) &&
        (s.checkAt (s.issuer s.cur) (ccIsVa (2 ^ 40)) (2 ^ 40) n rR).isOk && !s.scHolds s.cur (s.me.ord + 1) &&
        !s.fenced s.cur (s.me.ord + 1) .load ((bytesAt s (2 ^ 40) n).map fun q => homeOf q.1) &&
        (match imageOf s n with
          | some (s1, _) => (s1.tabIndex code (s.me.getS 1#5).toNat).isSome
          | none => false)
      | none => false) = true := by decide +kernel

theorem wit_TableStatuses_out :
    (let s := tabs (BitVec.ofNat 64 (2 ^ 63)) 0
     s.me.waits [9#5, 1#5, 2#5] [] = false ∧ 2 ≤ s.me.y.level.toNat ∧
     ([0x00, 0x01, 0x02, 0x03, 0x04, 0x05, 0x06, 0x07, 0x08, 0x09, 0x0A, 0x0B, 0x0C, 0x0D, 0x10, 0x11, 0x12, 0x13, 0x14, 0x15, 0x16, 0x17].all fun code =>
      let n := imageBytes code
      (s.checkAt (s.issuer s.cur) (ccIsVa (2 ^ 40)) (2 ^ 40) n rR).isOk && !s.scHolds s.cur (s.me.ord + 1) &&
      !s.fenced s.cur (s.me.ord + 1) .load ((bytesAt s (2 ^ 40) n).map fun q => homeOf q.1) &&
      (match imageOf s n with
        | some (s1, _) => [0x04, 0x05, 0x06, 0x07, 0x0C, 0x0D, 0x15].contains code || (s1.tabIndex code (s.me.getS 1#5).toNat).isNone
        | none => false)) = true) := by decide +kernel

theorem wit_TableStatuses_levels : (ctl.me.waits [9#5, 1#5, 2#5] [] = false ∧ ctl.me.y.level.toNat < 1) ∧
    (sched.me.waits [9#5, 1#5, 2#5] [] = false ∧ sched.me.y.level.toNat < 2 ∧ 1 ≤ sched.me.y.level.toNat) ∧
    (let s := { ctl with pend := [⟨tkey 0x0E 0, 0, 0, 0⟩] }
     s.pend[0]? = some ⟨tkey 0x0E 0, 0, 0, 0⟩ ∧ tkey 0x0E 0 / 2 ^ 44 ≠ 0x13 ∧ s.nothingTranslated = true ∧ s.pieces = []) := by decide +kernel

def withTab (s : State) (l : List (Nat × Nat)) : State := { s with tab := l ++ s.tab }

/-- A currency node of tenant 1 at its own index 2; a context of tenant 1, die 0, currency 2. -/
def node2 : Nat := 2 ^ 63 + 1 * 2 ^ 43
def ctx1 : Nat := 2 ^ 127 + 1 * 2 ^ 109 + 2 * 2 ^ 99 + 4096 * 2 ^ 67
/-- A queue of tenant 1, generation 1, 4 entries of 8 bytes, scope .D; and its handle at key 3 of die 0. -/
def queue1 : Nat := 2 ^ 127 + 2 * 2 ^ 120 + 1 * 2 ^ 112 + 1 * 2 ^ 100 + 1 * 2 ^ 98
def handle1 : Nat := 3 * 2 ^ 17 + 1 * 2 ^ 5

/-- What CURW, KEYW and CTXW read at S1 and S2. -/
theorem wit_TableReads_writes :
    ([(0x11, 2#64, node2), (0x08, 7#64, keyCount), (0x10, 1#64, ctx1), (0x16, 3#64, 0)].all fun e =>
      let s := withTab (tabs e.2.1 e.2.2) [(tkey 0x03 0, 2 ^ 63 + 2 ^ 32 + 1 * 2 ^ 24), (tkey 0x11 2, node2), (tkey 0x16 3, queue1)]
      let n := imageBytes e.1
      !s.me.waits [9#5, 1#5, 2#5] [] && decide (2 ≤ s.me.y.level.toNat) &&
      (s.checkAt (s.issuer s.cur) (ccIsVa (2 ^ 40)) (2 ^ 40) n rR).isOk && !s.scHolds s.cur (s.me.ord + 1) &&
      !s.fenced s.cur (s.me.ord + 1) .load ((bytesAt s (2 ^ 40) n).map fun q => homeOf q.1) &&
      (match imageOf s n with
        | some (s1, v) => decide (s1.tabIndex e.1 (s.me.getS 1#5).toNat = some e.2.1.toNat) &&
          (if e.1 = 0x11 then decide (s1.refuseCurrency 2 (keepBits (tabFields 0x11) v) = 0)
           else if e.1 = 0x10 then decide (s1.refuseContext 1 (keepBits (tabFields 0x10) v) = 0)
           else if e.1 = 0x16 then qValid (s1.entry 0x16 3) && !qValid v && decide (qGen (s1.entry 0x16 3) < 4095) else true)
        | none => false)) = true := by decide +kernel

/-- TBR of an entry and of an index out of range, and SHARDR with a descriptor of rank 0. -/
theorem wit_TableReads_reads : ((tabs 5#64 0).me.waits [9#5, 1#5, 2#5] [] = false ∧ 1 ≤ (tabs 5#64 0).me.y.level.toNat ∧ (2 ^ 40) % 8 = 0) ∧
    Admitted (tabs 5#64 0) (2 ^ 40) (imageBytes 0x00) rW .store ∧ (tabs 5#64 0).tabIndex 0x00 5 = some 5 ∧
    (tabs 5#64 0).tabIndex 0x00 (2 ^ 20) = none ∧
    Admitted (tabs 5#64 0) (2 ^ 40) 56 rW .both ∧ Admitted (tabs 5#64 0) (2 ^ 40) 56 rR .both ∧ Clean (tabs 5#64 0) (2 ^ 40) 56 ∧
    valueAt (tabs 5#64 0) (2 ^ 40) 56 / 2 ^ 256 % 2 ^ 8 < 1 := by
  refine ⟨by decide +kernel, admitted_of (by decide +kernel), by decide +kernel, by decide +kernel, admitted_of (by decide +kernel),
    admitted_of (by decide +kernel), by unfold Clean; decide +kernel, by decide +kernel⟩

/-- A sharded buffer of 64 elements, whose one shard lies in buffer 1. -/
def shardDesc : Nat := 2 ^ 383 + 1 * 2 ^ 373 + 64 * 2 ^ 128 + 64
def shardTab : List (Nat × Nat) :=
  [(tkey 0x00 2, someBuffer + 2 ^ 190 + 2 * 2 ^ 180), (tkey 0x06 2, shardDesc), (tkey 0x07 0, 2 ^ 127 + 1 * 2 ^ 95)]

/-- A SHARDR of element 3, or of element 64, which is out of range. -/
def sharded (c : Nat) : State :=
  let s := withTab (tabs (BitVec.ofNat 64 (2 * 2 ^ 40)) (c + 2 ^ 256 * 1 + 2 ^ 264 * 4)) shardTab
  s.upMe fun x => { x with r := { x.r with s := [(1, BitVec.ofNat 64 (2 * 2 ^ 40)), (2, va1)] } }

theorem wit_TableReads_shards : ∀ c ∈ [3, 64], let s := sharded c
    s.me.waits [9#5, 1#5, 2#5] [] = false ∧ 1 ≤ s.me.y.level.toNat ∧ (s.me.getS 2#5).toNat = 2 ^ 40 ∧ Admitted s (2 ^ 40) 56 rW .both ∧
      Admitted s (2 ^ 40) 56 rR .both ∧ Clean s (2 ^ 40) 56 ∧
      (let v := valueAt s (2 ^ 40) 56
       let s1 := afterRead s (2 ^ 40) 56
       let buf := s1.see 0x00 (vaIndex (s.me.getS 1#5).toNat)
       v / 2 ^ 256 % 2 ^ 8 = 1 ∧ v / 2 ^ 264 % 2 ^ 8 = 4 ∧ (s.me.getS 1#5).toNat / 2 ^ 60 = 0 ∧ vaIndex (s.me.getS 1#5).toNat ≠ 0 ∧ natBit buf 255 = true ∧
         s1.ownerOk (s1.issuer s.cur) buf = true ∧
         (shardFound s1 buf 4 1 fun k => v / 2 ^ (64 * k) % 2 ^ 64) = if c = 3 then some (2 ^ 127 + 1 * 2 ^ 95, 12) else none) := by
  intro c hc
  simp only [List.mem_cons, List.not_mem_nil, or_false] at hc
  rcases hc with rfl | rfl <;>
    exact ⟨by decide +kernel, by decide +kernel, by decide +kernel, admitted_of (by decide +kernel), admitted_of (by decide +kernel),
      by unfold Clean; decide +kernel, by decide +kernel⟩

/-! ### Queue and synchronisation words -/

def ent (caps : List (Nat × Word)) : Entry := { cmd := .sy .rpoint, caps := caps, seq := 1#32, ord := 1 }

/-- The state in which an entry is being issued. -/
def issuing (s : State) (en : Entry) : State := { s with phase := .issue en }

theorem wit_SyncWordsPlaced : ctl.phase = .dispatch ∧ ctl.me.room .sy = true ∧
    ([Instr.enq 1#3 1#5 2#5 false, .deq 9#5 1#5 2#5 true 1#3, .peek 9#5 1#5 0#5 false 1#3, .enqr 1#3 1#5 2#5 3#4, .qstat 9#5 1#5, .arrive 1#5,
      .waitc 1#3 1#5 3#8, .spawn 9#5 1#5, .refF 1#3 1#5, .dropF 1#3 1#5, .await 1#3 1#5, .awaitl 0#3 1#5, .rpoint, .yieldl .data 1#5 2#5,
      .tktset 9#5 1#5 2#5, .tktget 0#5 1#5 0#3, .draw 9#5 1#5, .ctrset 1#5 2#5, .ctrget 9#5 1#5, .ctradd 1#5 2#5].all fun i =>
      match Sys2Proof.Machine.syWord i with
      | some (srcs, _, _) => !ctl.me.waits srcs []
      | none => false) = true := by decide +kernel

/-- Queue 3 with no entry, with one, and full; S1 its handle, S2 the start of buffer 1. -/
def queues (q : Nat) (h : Nat) : State :=
  issuing (withTab (base {}) [(tkey 0x16 3, q)]) (ent [(1, BitVec.ofNat 64 h), (2, va1)])

theorem wit_Queues : (∀ t ∈ [0, 1, 4], let s := queues (queue1 + t * 2 ^ 32) handle1
      OwnQueue s handle1 ∧ (∀ k ∈ [AccKind.load, .store], SyClear s (ent [(1, BitVec.ofNat 64 handle1), (2, va1)])
        (qScope (queue1 + t * 2 ^ 32)) (dieHome (queueKey handle1 / 4096)) k) ∧
      qOcc (s.entry 0x16 (queueKey handle1)) = t ∧ Clean s (2 ^ 40) 8) := by
  unfold OwnQueue SyClear Clean
  decide +kernel

theorem wit_Queues_ind : (∀ e ∈ [(rR, AccKind.load), (rW, .store)], let s := queues queue1 handle1
      s.ccCheck (2 ^ 40) 8 e.1 = .ok (bytesAt s (2 ^ 40) 8)) ∧
    (∀ e ∈ [(rR, AccKind.load), (rW, .store)], IndClear (queues queue1 handle1) (ent [(1, BitVec.ofNat 64 handle1), (2, va1)]) (2 ^ 40) 8 e.1 e.2) := by
  refine ⟨?_, ?_⟩ <;> intro e he <;> simp only [List.mem_cons, List.not_mem_nil, or_false] at he <;> rcases he with rfl | rfl
  · exact okEq_of (by decide +kernel)
  · exact okEq_of (by decide +kernel)
  · exact ⟨okEq_of (by decide +kernel), by decide +kernel, by decide +kernel⟩
  · exact ⟨okEq_of (by decide +kernel), by decide +kernel, by decide +kernel⟩

/-- A stale handle; another tenant's queue. Handles of futures likewise. -/
theorem wit_SyncTraps :
    ((queues queue1 0).queueStale 0 = true ∧ ∀ k ∈ [AccKind.load, .store],
      SyClear (queues queue1 0) (ent [(1, 0#64), (2, va1)]) .p (dieHome 0) k) ∧
    ((queues (queue1 + 2 ^ 113) handle1).queueStale handle1 = false ∧
      qTenant ((queues (queue1 + 2 ^ 113) handle1).entry 0x16 (queueKey handle1)) ≠ (queues (queue1 + 2 ^ 113) handle1).me.y.tenant.toNat ∧
      ∀ k ∈ [AccKind.load, .store], SyClear (queues (queue1 + 2 ^ 113) handle1) (ent [(1, BitVec.ofNat 64 handle1), (2, va1)]) .d (dieHome 0) k) := by
  unfold SyClear
  decide +kernel

/-- Future 7 of die 0 in a state, of context 1 of tenant t; S1 its handle. -/
def futureAt (st : FutState) (n t : Nat) : State :=
  issuing { withTab (base { job := { task := some 4 } }) [(tkey 0x10 1, ctx1 - 2 ^ 109 + t * 2 ^ 109)] with
    futures := [(7, { state := st, gen := 1, count := n, ctx := 1 })]
    tasks := [(4, { state := .resident, ctx := 1, team := 1, tq := ⟨0#64, 0#32, [], {}, 0, 0, 1, false, none⟩,
                    rc := ⟨0#64, 0#64, 0#64, 1, 0#64, 0#64, 0#32, 0, 1, 0, 0, 0, [], [], []⟩, preds := [], futPreds := [],
                    refs := [futHandle 7 1], slot := some 0 })] }
    (ent [(1, (futHandle 7 1).setWidth 64)])

def futEnt : Entry := ent [(1, (futHandle 7 1).setWidth 64)]

theorem wit_SyncTraps_futures :
    (∀ s ∈ [futureAt .free 0 1, futureAt .done 2 2, futureAt .reclaimed 2 1], ∀ k ∈ [AccKind.both, .load], FutClear s futEnt (futHandle 7 1) k) ∧
    (futureAt .free 0 1).futStale (futHandle 7 1) = true ∧
    ((futureAt .done 2 2).futStale (futHandle 7 1) = false ∧ ctxTenant ((futureAt .done 2 2).context 1) ≠ 1) ∧
    (OwnFuture (futureAt .reclaimed 2 1) (futHandle 7 1) ∧ ((futureAt .reclaimed 2 1).future 7).state = .reclaimed) := by
  unfold FutClear SyClear OwnFuture
  decide +kernel

/-- Window 5 of tenant 1 to node 1 of the same fabric, with R and W. -/
def window5 : Nat := 2 ^ 127 + 2 ^ 126 + 2 ^ 125 + 1 * 2 ^ 116 + 1 * 2 ^ 104 + 2 ^ 30

/-- The stations reach nodes 0 and 1; `c` credits. -/
def windowed (en : Entry) (c : Nat) (x : Slot) : State :=
  issuing { withTab (base x) [(tkey 0x04 5, window5)] with
    stations := (below 4).map fun k => (k, { members := 3#64, credits := (below 512).map fun v => (v, c) }) } en

theorem wit_RemoteEnqueueAndRoutes : ∀ c ∈ [0, 3], let en := ent [(1, BitVec.ofNat 64 (5 * 2 ^ 32 + handle1)), (2, 9#64)]
    let s := windowed en c {}
    (en.cap 1#5).toNat < 2 ^ 44 ∧ (en.cap 1#5).toNat / 2 ^ 32 = 5 ∧ SyClear s en .f (farHome 5) .store ∧
      (s.checkWindow s.cur s.me.y.tenant.toNat (5 * 2 ^ 40) [(0, 0)] 125).isOk = true ∧
      (let st := s.station (stationFor (winNode window5) (dieOf s.cur))
       st.streamOut (streamOf (dieOf s.cur) 0 (winNode window5)) < 1024 ∧ (st.freeCredit (s.vfOfCtx s.me.y.ctx.toNat) = 0 ↔ c = 0)) := by
  unfold SyClear
  decide +kernel

theorem wit_RemoteEnqueueAndRoutes_rest :
    (at0 { outcomes := [(2#4, .full)] }).me.outcomes = [(2#4, .full)] ∧
    (ctl.phase = .dispatch ∧ ctl.me.room .sy = true ∧ tokEngine 2#3 = some .vx ∧ tokAllowed .vx true 7#3 = true) ∧
    (tokEngine 1#3 = some .st ∧ tokAllowed .st true 3#3 = false ∧ tokEngine 7#3 = none) ∧
    (let s := at0 { hold := .rndv, e := { sy := { active := some { cmd := .sy .rndv } } } }
     s.me.e.sy.active = some { cmd := .sy .rndv } ∧ s.me.hold = .rndv ∧ s.me.job.stopped = false ∧ s.me.job.preempted = false ∧ s.me.drain = none ∧
       s.rndvMay = true) := by decide +kernel

/-- A member of a domain of one, that has or has not arrived. -/
def member (d : DomCounts) (en : Entry) : State :=
  issuing (base { dom := d, e := { sy := { active := some en, seqNo := 1#32 } } }) en

def arr : Entry := ent [(1, 10#64)]

theorem wit_Phases : (ctl.phase = .dispatch ∧ ctl.me.room .sy = true ∧ ctl.me.waits [1#5] [] = false) ∧
    (let s := member { rx := 4#32 } arr
     SyClear s arr (scopeOfDomain arr.domain) (scopeHome s.cur (scopeOfDomain arr.domain)) .store ∧ s.me.dom.arrived = false ∧
       s.me.dom.rx.toNat ≤ (arr.cap 1#5).toNat % 2 ^ 32 ∧ s.me.dom.rx ≠ BitVec.allOnes 32 ∧ arr.arrivedIn = false) ∧
    (let s := member { arrived := true } arr
     SyClear s arr (scopeOfDomain arr.domain) (scopeHome s.cur (scopeOfDomain arr.domain)) .store ∧ s.me.dom.arrived = true) ∧
    (member { due := some 0#32 } arr).me.dom.due = some 0#32 ∧ (member {} arr).me.dom.due = none ∧
    (let en := { arr with caps := (capPhase, 0#64) :: arr.caps }
     let s := member { arrived := true } en
     s.domMembers 1 = [0] ∧ (s.domMembers 1).Nodup ∧ s.me.e.sy.active = some en ∧ en.arrivedIn = true ∧ ∀ n ∈ s.domMembers 1,
       (s.slot n).ringWide (s.domMembers 1).length = false ∧ (s.slot n).dom.arrived = true ∧ (s.slot n).dom.overrun = false ∧
       (s.slot n).dom.rx = 0#32 ∧ (s.slot n).y.inTrap = false ∧ (s.slot n).drain = none ∧ (s.slot n).job.stopped = false ∧
       (s.slot n).job.preempted = false) := by
  unfold SyClear
  decide +kernel

/-! ### Counters, tickets and futures -/

/-- A counter word of context 1, and an entry whose S1 names it. -/
def counting (en : Entry) (x : Slot) (v : Word) : State := issuing { withTab (base x) [(tkey 0x10 1, ctx1)] with counters := [(1 * 256 + 3, v)] } en

def waitEnt : Entry := { ent [(1, 5#64)] with cmd := .sy (.waitc 1#3 1#5 3#8) }

/-- Below its threshold, at it, and with ERR. -/
theorem wit_CountersAndDraws_waits : ∀ v ∈ [4, 5, 2 ^ 63], let s := counting waitEnt { e := { sy := { active := some waitEnt } } } (BitVec.ofNat 64 v)
    SyClear s waitEnt (s.dieScope s.myDie) (dieHome s.myDie) .load ∧ s.me.y.ctx.toNat * 256 + (3#8).toNat = 259 ∧ s.phase = .issue waitEnt ∧
      s.me.e.sy.active = some waitEnt ∧ waitEnt.cmd = .sy (.waitc 1#3 1#5 3#8) ∧ s.me.job.stopped = false ∧
      s.me.job.preempted = false ∧ s.me.drain = none := by
  have h : ∀ v ∈ [4, 5, 2 ^ 63], let s := counting waitEnt { e := { sy := { active := some waitEnt } } } (BitVec.ofNat 64 v)
      SyClear s waitEnt (s.dieScope s.myDie) (dieHome s.myDie) .load ∧ s.me.y.ctx.toNat * 256 + (3#8).toNat = 259 := by unfold SyClear; decide +kernel
  exact fun v hv => ⟨(h v hv).1, (h v hv).2, rfl, rfl, rfl, rfl, rfl, rfl⟩

theorem wit_CountersAndDraws_words : (∀ v ∈ [3, 0x100F - 0x0C, 3 * 4096, 2 ^ 16], let en := ent [(1, BitVec.ofNat 64 v), (2, 9#64)]
    let s := counting en {} 7#64
    (en.cap 1#5).toNat = v ∧ ∀ k ∈ [AccKind.load, .store, .both, .nm], SyClear s en (s.dieScope s.myDie) (dieHome s.myDie) k ∧
      SyClear s en .t (saTile (s.cur / 8)) k ∧ SyClear s en .d (dieHome (dieOf s.cur)) k ∧ SyClear s en .p (dieHome s.myDie) k) := by
  unfold SyClear
  decide +kernel

theorem wit_CountersAndDraws_tickets : let en := ent [(1, 1#64), (2, 9#64)]
    let s := counting en {} 7#64
    s.doomed s.cur = false ∧ (en.cap 1#5).toNat < 4096 ∧ ctxValid (s.entry 0x10 1) = true ∧ ctxTenant (s.entry 0x10 1) = s.me.y.tenant.toNat ∧
      (∀ k ∈ [AccKind.load, .both], SyClear s en .p (dieHome s.myDie) k) ∧ SyClear s en .t (saTile (s.cur / 8)) .both ∧
      ((ent [(1, 0#64)]).cap 1#5).toNat = 0 := by
  unfold SyClear
  decide +kernel

theorem holds_of {s : State} {l : List W32} (h : (s.me.job.task.bind fun k => (mfind s.tasks k).map (·.refs)) = some l) : Holds s l := by
  obtain ⟨k, hk, h⟩ := Option.bind_eq_some_iff.mp h
  obtain ⟨x, hx, h⟩ := Option.map_eq_some_iff.mp h
  exact ⟨k, x, hk, hx, h⟩

/-- A task that holds `l`, with S1 the start of buffer 1, and die 0 with `free` futures left. -/
def spawner (l : List W32) : State := issuing { futureAt .pending 1 1 with
    tasks := (futureAt .pending 1 1).tasks.map fun e => (e.1, { e.2 with refs := l }) } (ent [(1, va1)])

theorem wit_Futures_spawn : SyClear (spawner []) (ent [(1, va1)]) .p (dieHome (spawner []).myDie) .store ∧ 2 ^ 40 ≤ va1.toNat ∧ va1.toNat % 256 = 0 ∧
    (spawner []).checkVa ((spawner []).issuer (spawner []).cur) va1.toNat 256 rR = .ok () ∧ (spawner []).freeFuture (spawner []).myDie = some 0 ∧
    Holds (spawner []) [] ∧ (mget [] (spawner []).taskQ (spawner []).me.y.ctx.toNat).length < 4096 := by
  refine ⟨by unfold SyClear; decide +kernel, by decide, by decide, okUnit_of (by decide +kernel), by decide +kernel, holds_of (by decide +kernel), by decide +kernel⟩

theorem wit_Futures_uses : (∀ s ∈ [futureAt .pending 2 1, futureAt .done 2 1], Holds s [futHandle 7 1] ∧ OwnFuture s (futHandle 7 1) ∧
      (∀ k ∈ [AccKind.both, .load], FutClear s futEnt (futHandle 7 1) k) ∧ (s.future 7).state ≠ .reclaimed ∧ futHandle 7 1 ∈ [futHandle 7 1] ∧
      1 < (s.future 7).count ∧ (s.future 7).count < 0xFFFFF) ∧ (futureAt .pending 2 1).phase = .issue futEnt ∧
    ((futureAt .pending 2 1).future 7).state = .pending ∧ ((futureAt .done 2 1).future 7).state = .done ∧
    futHandle 7 1 ∉ ([] : List W32) := by
  refine ⟨?_, by decide +kernel, by decide +kernel, by decide +kernel, by decide⟩
  intro s hs
  simp only [List.mem_cons, List.not_mem_nil, or_false] at hs
  rcases hs with rfl | rfl <;>
    exact ⟨holds_of (by decide +kernel), by unfold OwnFuture; decide +kernel, by unfold FutClear SyClear; decide +kernel, by decide +kernel, by decide,
      by decide +kernel, by decide +kernel⟩

/-- The slot's head waits as `i`, and lends since cycle 3 or not at all. -/
def lending (s : State) (i : Instr) (caps : List (Nat × Word)) (l : Option Nat) : State :=
  let en : Entry := { ent caps with cmd := .sy i }
  s.upMe fun x => { x with e := { x.e with sy := { active := some en } }, lendSince := l }

theorem wit_LendingWaits :
    (OwnFuture (futureAt .pending 2 1) (futHandle 7 1) ∧ FutClear (futureAt .pending 2 1) futEnt (futHandle 7 1) .load ∧
      ((futureAt .pending 2 1).future 7).state = .pending ∧ (futureAt .pending 2 1).me.lendSince = none) ∧
    (let s := { futureAt .done 2 1 with tasks := [] }
     OwnFuture s (futHandle 7 1) ∧ FutClear s futEnt (futHandle 7 1) .load ∧ (s.future 7).state = .done ∧ futHandle 7 1 ∉ s.myRefs) ∧
    (∀ v ∈ [4, 5], let s := counting (ent [(1, 3#64), (2, 5#64)]) {} (BitVec.ofNat 64 v)
      ((ent [(1, 3#64), (2, 5#64)]).cap 1#5).toNat < 256 ∧ s.me.y.ctx.toNat = 1 ∧ s.me.lendSince = none) ∧
    (∀ t ∈ [0, 1, 4], OwnQueue (queues (queue1 + t * 2 ^ 32) handle1) handle1 ∧
      qOcc ((queues (queue1 + t * 2 ^ 32) handle1).entry 0x16 (queueKey handle1)) = t ∧
      qCap ((queues (queue1 + t * 2 ^ 32) handle1).entry 0x16 (queueKey handle1)) = 4) ∧
    ((ent [(1, 3#64)]).cap 2#5 = 0#64) := by
  unfold OwnFuture FutClear SyClear OwnQueue
  decide +kernel

theorem wit_LendingWaits_head : let s := lending (futureAt .done 2 1) (.awaitl 1#3 1#5) [(1, (futHandle 7 1).setWidth 64)] (some 3)
    Lending s { ent [(1, (futHandle 7 1).setWidth 64)] with cmd := .sy (.awaitl 1#3 1#5) } (.awaitl 1#3 1#5) :=
  ⟨⟨rfl, rfl, rfl, rfl, rfl⟩, rfl⟩

theorem mget_range {α : Type} (d x : α) (m : Nat) : ∀ n k, n ≤ k → k < n + m → mget d ((List.range' n m).map fun j => (j, x)) k = x := by
  induction m with
  | zero => intro n k h1 h2; omega
  | succ m ih =>
    intro n k h1 h2
    simp only [List.range'_succ, List.map_cons, mget]
    split
    · rfl
    · exact ih (n + 1) k (by omega) (by omega)

theorem firstFrom_none (p : Nat → Bool) : ∀ m i, (∀ k, i ≤ k → k < i + m → p k = false) → firstFrom m i p = none := by
  intro m
  induction m with
  | zero => intro i _; rfl
  | succ m ih =>
    intro i h
    simp only [firstFrom, h i (Nat.le_refl i) (by omega), Bool.false_eq_true, if_false]
    exact ih (i + 1) fun k h1 h2 => h k (by omega) (by omega)

/-- With no generation left in any future of die 0. -/
def spentFutures : State := { spawner [] with futures := (List.range' 0 8192).map fun k => (k, { gen := 4095 }) }

theorem wit_Futures_none : spentFutures.freeFuture spentFutures.myDie = none ∧ SyClear spentFutures (ent [(1, va1)]) .p (dieHome spentFutures.myDie) .store ∧
    spentFutures.checkVa (spentFutures.issuer spentFutures.cur) va1.toNat 256 rR = .ok () := by
  refine ⟨?_, by unfold SyClear; decide +kernel, okUnit_of (by decide +kernel)⟩
  have h : spentFutures.myDie = 0 := by decide +kernel
  rw [h, State.freeFuture, firstBelow, firstFrom_none]
  · rfl
  · intro k _ hk
    have e : spentFutures.future (0 * 8192 + k) = { gen := 4095 } := mget_range _ _ 8192 0 _ (by omega) (by omega)
    simp only [e]
    rfl

/-! ### Patch words, issue and landing -/

def noCtl : Ctl := ⟨0#4, none, none, none, 0#4, 7#3⟩

/-- Templates 1 of the five classes, as the spec prints them: VMOVI, MMA, LD, STB, NMFADE; and VFMA under a bound below its minimum. -/
def templates : List (Nat × BitVec 80) :=
  [(1 * 64 + 1, 0x720000007043FC000000#80), (1 * 64 + 2, 0x08000000704010204000#80), (2 * 64 + 1, 0x0040000070304080901F#80),
   (3 * 64 + 1, 0x00400000706030000500#80), (4 * 64 + 1, 0x00800000706020000500#80), (5 * 64 + 1, 0x04800000703040506031#80)]

def patching : State := at0 { tmpl := templates, r := someS }

theorem wit_Patches : (∀ p ∈ [(1, 0x720000007043FC000000), (2, 0x0040000070304080901F), (3, 0x00400000706030000500), (4, 0x00800000706020000500),
      (5, 0x04800000703040506031)], let cls := BitVec.ofNat 3 p.1
      mget 0#80 patching.me.tmpl (tmplKey cls 1#6) = BitVec.ofNat 80 p.2 ∧ Amended (BitVec.ofNat 80 p.2) (BitVec.ofNat 80 p.2) 0 0#16 ∧
      (match classEngine cls, decodeEngine cls (BitVec.ofNat 80 p.2) with
        | some e, .ok i => e != .sy && decide (minBound cls (BitVec.ofNat 80 p.2) ≤ lbCycles (EWord.split (BitVec.ofNat 80 p.2)).lb) &&
          !patching.me.waits (capturesOf i) [] && patching.me.room e
        | _, _ => false) = true) ∧ ValueFits 0 0#16 := by
  unfold Amended
  refine ⟨by decide +kernel, rfl⟩

/-- Field select 5 of the MMA template with K = 256; the routes of VX stand at job start. -/
theorem wit_Patches_amended : Amended 0x0040000070304080901F#80 0x0040000070304080903F#80 5 0x003F#16 ∧ ValueFits 5 0x003F#16 ∧
    patching.me.routeIn .vx ≠ 0#3 ∧ patching.me.routeOut .vx ≠ 0#3 := by
  refine ⟨by unfold Amended; decide +kernel, ?_, by decide +kernel, by decide +kernel⟩
  show (0x003F#16).toNat < 2 ^ (11 + 1 - 0)
  decide

theorem wit_Patches_refused : classEngine 0#3 = none ∧ 14 ≤ (14#4).toNat ∧
    decodeEngine 1#3 (mget 0#80 patching.me.tmpl (tmplKey 1#3 9#6)) = .error .reserved ∧
    ¬ValueFits 7 0x20#16 ∧ (patching.me.routeOut .st = 0#3) ∧
    (Amended 0x08000000704010204000#80 0x08000000704010204000#80 0 0#16 ∧
      ∃ i, decodeEngine 1#3 0x08000000704010204000#80 = .ok i ∧
        lbCycles (EWord.split 0x08000000704010204000#80).lb < minBound 1#3 0x08000000704010204000#80) ∧
    (Amended 0x0040000070304080901F#80 0x004000007FF04080901F#80 1 0xFF#16 ∧ ValueFits 1 0xFF#16 ∧
      decodeEngine 2#3 0x004000007FF04080901F#80 = .error .unusedField) := by
  refine ⟨rfl, by decide, rfl, ?_, by decide +kernel, ⟨by unfold Amended; decide +kernel, ?_⟩, by unfold Amended; decide +kernel, ?_, rfl⟩
  · show ¬(0x20#16).toNat < 2 ^ (65 + 1 - 61)
    decide
  rotate_left
  · show (0xFF#16).toNat < 2 ^ (43 + 1 - 36)
    decide
  · obtain ⟨i, h⟩ := ok_of (e := decodeEngine 1#3 0x08000000704010204000#80) (by decide +kernel)
    exact ⟨i, h, by decide +kernel⟩

/-- A V result with all its lanes, and a K result. -/
def landing (d : Dest) (lanes : Word) : State := at0 { landings := [⟨.vx, [⟨d, 5#2048, lanes⟩], some 3#4, none, 1, 9⟩] }

theorem wit_IssueAndLanding :
    ((landing (.v 4#5) 0xF#64).me.landings[0]? = some ⟨.vx, [⟨.v 4#5, 5#2048, 0xF#64⟩], some 3#4, none, 1, 9⟩ ∧
      lanesAhead ((landing (.v 4#5) 0xF#64).me.landings.take 0) (.v 4#5) = 0#64 ∧ 0xF#64 &&& ~~~0xF#64 = 0#64) ∧
    ((landing (.k 2#3) (BitVec.allOnes 64)).me.landings[0]? = some ⟨.vx, [⟨.k 2#3, 5#2048, BitVec.allOnes 64⟩], some 3#4, none, 1, 9⟩ ∧
      lanesAhead ((landing (.k 2#3) (BitVec.allOnes 64)).me.landings.take 0) (.k 2#3) = 0#64 ∧ 1#64 ≠ 0#64) ∧
    (issuing ctl (ent [])).phase = .issue (ent []) := by decide +kernel

/-- Engine words of VX (VMOVI), LD, ST and CP under a held token, a false guard, and a pending tag. -/
theorem wit_IssueAndLanding_commands : (∀ c ∈ [(1, 0x720000007043FC000000), (3, 0x00400000706030000500), (4, 0x00800000706020000500), (5, 0x04800000703040506031)],
      let cls := BitVec.ofNat 3 c.1
      let en := { ent [] with pop := true, popF := 1#3 }
      (match classEngine cls, decodeEngine cls (BitVec.ofNat 80 c.2), decodeCtl (EWord.split (BitVec.ofNat 80 c.2)) with
        | some e, .ok i, .ok k => e != .mx && (match i with | .mark _ _ => false | _ => true) && (issuing ctl en).me.held 0 e k en &&
          !(issuing ctl (ent [])).me.held 0 e k (ent []) && !(issuing ctl (ent [])).me.backed e &&
          (let z := issuing (at0 { r := { g := 0#8 } }) (ent [])
           !z.me.guardFor (ent []) 6#3 && z.me.guardFor (ent []) 7#3) &&
          (let x := { ent [] with scoreboard := true }
           let y := issuing (at0 { r := { tags := BitVec.allOnes 80 } }) x
           !y.me.held 0 e { k with ta := some 3#4 } x && y.me.tagPending e (some 3#4))
        | _, _, _ => false) = true) := by decide +kernel

/-! ### VX -/

/-- The command that issues. -/
def vxState (x : Slot) : State := issuing (at0 x) (ent [])

/-- What `Ready` asks, as a Bool. -/
def readyB (s : State) (e : Engine) (k : Ctl) (en : Entry) : Bool :=
  !s.me.held s.dcc.toNat e k en && !s.me.backed e && s.me.guardFor en k.guard && !(en.scoreboard && s.me.tagPending e k.ta)

theorem ready_of {s : State} {e : Engine} {k : Ctl} {en : Entry} (h : s.phase = .issue en) (h' : readyB s e k en = true) : Ready s e k en := by
  simp only [readyB, Bool.and_eq_true, Bool.not_eq_eq_eq_not, Bool.not_true] at h'
  exact ⟨by simp only [State.entryNow, h], h'.1.1.1, h'.1.1.2, h'.1.2, h'.2⟩

theorem wit_VectorLanes : Ready (vxState {}) .vx noCtl (ent []) ∧
    ([Instr.vadd noCtl .f32 .rne false 1#5 3#3 2#5 3#5, .vadd noCtl .i32 .rne true 1#5 3#3 2#5 3#5, .vsub noCtl .n32 .rne false 1#5 3#3 2#5 3#5,
      .vmul noCtl .bf16 .rtz false 1#5 3#3 2#5 3#5, .vfma noCtl .f32 .rne 1#5 3#3 2#5 3#5 4#5, .vfms noCtl .f16 .rup 1#5 3#3 2#5 3#5 4#5,
      .vfnma noCtl .f32 .rdn 1#5 3#3 2#5 3#5 4#5, .vdiv noCtl .f32 .rne 1#5 3#3 2#5 3#5, .vsqrt noCtl .f32 .rne 1#5 3#3 2#5,
      .vexp2 noCtl .rne 1#5 3#3 2#5, .vlog2 noCtl .rne 1#5 3#3 2#5, .vmin noCtl .f32 1#5 3#3 2#5 3#5, .vmax noCtl .n32 1#5 3#3 2#5 3#5,
      .vabs noCtl .i32 true 1#5 3#3 2#5, .vneg noCtl .f32 false 1#5 3#3 2#5, .vand noCtl 1#5 3#3 2#5 3#5, .vor noCtl 1#5 3#3 2#5 3#5,
      .vxor noCtl 1#5 3#3 2#5 3#5, .vshl noCtl 1#5 3#3 2#5 (.reg 3#5), .vshr noCtl 1#5 3#3 2#5 (.imm 31#5), .vsha noCtl 1#5 3#3 2#5 (.imm 1#5),
      .vmulh noCtl .i32 1#5 3#3 2#5 3#5, .vsel noCtl 1#5 3#3 2#5 3#5 1#3, .kpopc noCtl 1#5 3#3 1#3, .vcvt noCtl .fp32 .bf16 .sr 1#5 3#3 2#5 3#5,
      .vunpack noCtl .w8 3#3 true 1#5 3#3 2#5, .vscale noCtl .e4m3 1#5 3#3 2#5 3#5, .vperm noCtl 1#5 3#3 2#5 3#5, .vbcast noCtl 1#5 3#3 2#5 63#6,
      .vget noCtl 1#5 3#3 2#5 63#6, .viota noCtl 1#5 3#3 0xFFF#12, .vmov noCtl 1#5 0#3 2#5, .vmovi noCtl 1#5 3#3 7#32].all fun i =>
      (laneWord (vxState {}).me (ent []) i).isSome) = true :=
  ⟨ready_of rfl (by decide +kernel), by decide +kernel⟩

theorem wit_VectorMasksAndFolds : Ready (vxState {}) .vx noCtl (ent []) ∧
    ([Instr.vcmp noCtl .f32 .un 1#3 3#3 2#5 3#5, .kand noCtl 1#3 2#3 3#3, .kor noCtl 0#3 2#3 3#3, .kxor noCtl 1#3 2#3 3#3, .knot noCtl 1#3 2#3,
      .kfirst noCtl 1#3 2#3].all fun i => (maskWord (vxState {}).me i).isSome) = true ∧
    ([Instr.vredsum noCtl .f32 1#5 3#3 2#5, .vredmax noCtl .i32 1#5 3#3 2#5, .vredmin noCtl .bf16 1#5 3#3 2#5, .vscan noCtl .n32 1#5 3#3 2#5].all
      fun i => (wholeWord (vxState {}).me i).isSome) = true :=
  ⟨ready_of rfl (by decide +kernel), by decide +kernel, by decide +kernel⟩

/-- Spill entry 2 names column 5 of Z1. -/
def spilled : State := vxState { y := { spill := [(2, (SpillLoc.col 1 5).word)] } }

theorem wit_VectorSortAndOthers : Ready spilled .vx noCtl (ent []) ∧
    spillLocOf (spilled.me.spillMap 3) = none ∧ spillLocOf (spilled.me.spillMap 2) = some (.col 1 5) ∧ (spilled.tile 0).colPoison 1 5 = false ∧
    (spilled.tile 0).freeCol = some (0, 0) :=
  ⟨ready_of rfl (by decide +kernel), by decide +kernel, by decide +kernel,
    by decide +kernel, by decide +kernel⟩

/-! ### MX -/

theorem okAnd_of {ε α : Type} {e : Except ε α} {p : α → Bool} (h : (match e with | .ok a => p a | .error _ => false) = true) :
    ∃ a, e = .ok a ∧ p a = true := by
  cases e with
  | ok a => exact ⟨a, rfl, h⟩
  | error f => cases h

/-- X8 at the first bank group and X9 at the third of tile t, in the view of MX, as E4M3; Z3 is allocated to the first slot. -/
def mxSlot (t : Nat) : Slot := (({} : Slot).setX 3#2 8#5 (BitVec.ofNat 64 (saTile t * 2 ^ 22))).setX 3#2 9#5 (BitVec.ofNat 64 (saTile t * 2 ^ 22 + 2 ^ 21))
def mxTile : Tile := { owner := [(0, 0x808001#24), (32, 0x808001#24)], fmt := (below 16).map fun b => (b, 11#16), zAlloc := [(3, some 0)] }

def mxEnt : Entry := { ent [(2, 5#64)] with stampBase := 0#64 }

/-- A slot of tile 0 that issues an MX command, drawn or at its stamp 5. -/
def mxState (stamped : Bool) (f : Slot → Slot) : State :=
  let s := base (f (mxSlot 0))
  { issuing s mxEnt with dcc := 5#64, tiles := [(0, { mxTile with stamped := stamped })] }

/-- What `MxStarts` asks, as a Bool. -/
def mxStartsB (s : State) (k : Ctl) (c : BitVec 5) (en : Entry) (occ : Nat) (need : MxNeed) : Bool :=
  readyB s .mx k en && (mine s).busy.isNone && s.mxHas s.cur en need &&
    (!(mine s).stamped || (decide (s.dcc = stampOf en c) && ownsWindow s.cur (mine s).windowLen (stampOf en c).toNat &&
      decide ((stampOf en c).toNat + occ ≤ ((stampOf en c).toNat / (mine s).windowLen + 1) * (mine s).windowLen)))

theorem mxStarts_of {s : State} {k : Ctl} {c : BitVec 5} {en : Entry} {occ : Nat} {need : MxNeed} (h : s.phase = .issue en)
    (h' : mxStartsB s k c en occ need = true) : MxStarts s k c en occ need := by
  simp only [mxStartsB, Bool.and_eq_true, Bool.or_eq_true, Option.isNone_iff_eq_none, decide_eq_true_eq, Bool.not_eq_eq_eq_not, Bool.not_true] at h'
  refine ⟨h, ready_of h h'.1.1.1, h'.1.1.2, h'.1.2, fun hs => ?_⟩
  rcases h'.2 with n | ⟨⟨a, b⟩, c⟩
  · rw [hs] at n; cases n
  · exact ⟨a, b, c⟩

/-- The occupancy and the needs of the forms. -/
def mxForms (s : State) : List (Nat × MxNeed) :=
  ([1, 4, 16, 64, 128].map fun occ => (occ, ({} : MxNeed))) ++
  ([64, 32].map fun rows => (mmaOcc 9#5 0#12 s mxEnt, mmaNeed false 8#5 9#5 0#12 rows s s.cur)) ++
  [(64, drainNeed false 8#5 9#5 s s.cur), (128, drainNeed true 8#5 9#5 s s.cur)]

theorem wit_MatrixControl : ∀ b, ∀ p ∈ mxForms (mxState b id), MxStarts (mxState b id) noCtl 2#5 mxEnt p.1 p.2 := by
  have h : ∀ b : Bool, ((mxForms (mxState b id)).all fun p => mxStartsB (mxState b id) noCtl 2#5 mxEnt p.1 p.2) = true := by decide +kernel
  exact fun b p hp => mxStarts_of rfl (List.all_eq_true.mp (h b) p hp)

/-- Z3 belongs to the slot, Z5 to nobody, and Z6 to another slot. -/
theorem wit_MatrixControl_tiles : OwnZ (mxState false id) 3 ∧ OwnZ (mxState true id) 5 ∧
    (∀ o, (mine (mxState false id)).allocOf 3 = some o → o = 0) ∧
    (let s := { mxState false id with tiles := [(0, { mxTile with zAlloc := [(6, some 4)] })] }
     (mine s).allocOf 6 = some 4 ∧ 4 ≠ s.cur % 8 ∧ ((mxForms s).all fun p => mxStartsB s noCtl 2#5 mxEnt p.1 p.2) = true) := by
  refine ⟨⟨by decide +kernel, by decide +kernel⟩, ⟨by decide +kernel, by decide +kernel⟩, ?_, by decide +kernel⟩
  intro o h
  have e : (mine (mxState false id)).allocOf 3 = some 0 := by decide +kernel
  rw [e] at h
  exact (Option.some.inj h).symm

/-- K = 8 on E4M3 operands; the same with A from the data queue, whose one entry has come or is on its way. -/
theorem wit_MatrixMultiply : ∃ p, (mxState false id).mmaPlan 0 mxEnt 0#2 3#4 false 8#5 9#5 0#12 64 = .ok p ∧
    (((operandsMet (mxState false id) 0 p 64).planBad 0 p 64).isNone && decide (p.pops ≤ (mxState false id).me.mxq.length) &&
      decide ((mine (mxState false id)).allocOf 3 = some 0)) = true := okAnd_of (by decide +kernel)

/-- Six entries in the LD→MX data queue, or four with two more loads on their way. -/
def queued (here : Bool) : State :=
  let e : LoadData := ⟨4#5, BitVec.allOnes 64, 0#2048, 0#64, 0, none, none, 0#64⟩
  let l : LoadAcc := ⟨{ ent [] with issued := true }, true, 4#5, false, 0#64, [], 0#2048, 0#64, 0, none, 0⟩
  mxState false fun x => if here then { x with mxq := [e, e, e, e, e, e] } else { x with mxq := [e, e, e, e], loads := [l, l] }

/-- K = 24: two groups, of which the second is short. -/
theorem wit_MatrixMultiply_queue : ∀ here, MxStarts (queued here) noCtl 2#5 mxEnt (mmaOcc 9#5 2#12 (queued here) mxEnt)
      (mmaNeed true 8#5 9#5 2#12 64 (queued here) 0) ∧
    ∃ p, (queued here).mmaPlan 0 mxEnt 0#2 3#4 true 8#5 9#5 2#12 64 = .ok p ∧
    (((operandsMet (queued here) 0 p 64).planBad 0 p 64).isNone && (decide (p.pops ≤ (queued here).me.mxq.length) == here)) = true := by
  intro here
  cases here <;> exact ⟨mxStarts_of rfl (by decide +kernel), okAnd_of (by decide +kernel)⟩

/-- The first slots of tiles 0 and 1, both with an MMAP of Z3 and K = 8 at the head of MX. -/
def pairState : State :=
  let word := match encode (.mmap noCtl 0#2 3#4 false 8#5 9#5 2#5 0#12) with
    | some (.engine _ w) => w
    | _ => 0#80
  let en : Entry := { mxEnt with cmd := .eng word }
  let x := fun t => { mxSlot t with e := { mx := { entries := [en], seqNo := 1#32 } }, y := { tenant := 1#8, ctx := 1#12 }, job := { team := 1 } }
  { State.reset with phase := .issue en, slots := [(0, x 0), (8, x 1)]
                     tiles := [(0, { mxTile with holdMx := some ⟨0, 0, false⟩ }), (1, { mxTile with holdMx := some ⟨8, 0, false⟩ })] }

theorem wit_MatrixMultiply_pair :
    mxStartsB pairState noCtl 2#5 (pairState.entryNow .mx) (mmaOcc 9#5 0#12 pairState (pairState.entryNow .mx))
      (mmaNeed false 8#5 9#5 0#12 32 pairState 0) = true ∧
    (match pairState.partner pairState.cur none, pairState.entryNow .mx with
      | some h, en => pairState.partnerReady h && ((pairState.tile (h.n / 8)).stamped == (mine pairState).stamped) &&
        decide ((pairState.tile (h.n / 8)).allocOf h.z.toNat = some (h.n % 8)) && decide ((mine pairState).allocOf 3 = some (pairState.cur % 8)) &&
        (match pairState.mmaPlan pairState.cur en 0#2 3#4 false 8#5 9#5 0#12 32, pairState.mmaPlan h.n h.en h.pt h.z h.q h.a h.b h.kk 32 with
          | .ok p, .ok r => decide (p.k = r.k) && decide (p.pt = r.pt) && decide (fmtOf p.a.reg = fmtOf r.a.reg) && decide (fmtOf p.b.reg = fmtOf r.b.reg) &&
            (let w := operandsMet (operandsMet pairState pairState.cur p 32) h.n r 32
             (w.planBad pairState.cur p 32).isNone && (w.planBad h.n r 32).isNone)
          | _, _ => false)
      | none, _ => false) = true := by decide +kernel

/-- Z3 is drained to the address in X8, with a residual at X9, which lies apart; S1 to S3 are parked in column 0 of Z0, and come back. -/
theorem wit_MatrixDrainAndParking : ∃ p, (mxState false id).drainPlan 0 mxEnt true 8#5 9#5 3#4 = .ok p ∧
    (match p.res with
      | some (x, f) => decide (scaledOf p.fd = false) && decide (p.dst + drainLen p.fd ≤ x) &&
        ((below 64).all fun m => (below 64).all fun i => (resBadAt (residualMet (mxState false id) p).poisoned 0 f x m i).isNone)
      | none => false) = true := okAnd_of (by decide +kernel)

theorem wit_MatrixDrainAndParking_parking : (1#5).toNat ≤ (3#5).toNat ∧ spillLocOf ((mxState false id).me.spillMap 1) = none ∧
    (mine (mxState false id)).freeCol = some (0, 0) ∧
    (let s := mxState false fun x => { x with y := { x.y with spill := [(1, (SpillLoc.col 0 0).word)] } }
     spillLocOf (s.me.spillMap 1) = some (.col 0 0) ∧ (mine s).colPoison 0 0 = false ∧ mxStartsB s noCtl 2#5 mxEnt 4 {} = true) := by decide +kernel

/-- The word of an engine command. -/
def wordOf (i : Instr) : BitVec 80 :=
  match encode i with
  | some (.engine _ w) => w
  | _ => 0#80

/-- Slot 1 of tile 0 with MRET at the head of MX, whose stamp is reached; slot 0 moves. -/
def stampedState : State :=
  let en : Entry := { cmd := .eng (wordOf (.mret noCtl 0#5)), seq := 1#32 }
  { State.reset with
    slots := [(1, { e := { mx := { entries := [en], seqNo := 1#32 } } })]
    tiles := [(0, { stamped := true })] }

theorem wit_Arbitration_stamped : (mine stampedState).stamped = true ∧ (stampedState.slot 1).mayIssue .mx = true ∧
    (mine { stampedState with tiles := [] }).stamped = false ∧
    (match (stampedState.slot 1).e.mx.entries with
      | [en] => en.isEng && (match decodeEngine 2#3 en.word with
        | .ok i => (match i with | .mret _ _ => true | _ => false) && (match exec i { stampedState with cur := 1, phase := .issue en } with
          | .next u => (below 8).all fun m => (m = 1 || (stampedState.slot m).e.mx.entries.isEmpty) && (u.slot m).e.mx.entries.isEmpty
          | _ => false)
        | .error _ => false)
      | _ => false) = true := by decide +kernel

/-- Slots 0 to n - 1 of tile 0 with a command at the head of MX, VX and CP. -/
def contested (n : Nat) : State :=
  let q := fun i => ({ entries := [{ cmd := .eng (wordOf i), seq := 1#32 }], seqNo := 1#32 } : EngQ)
  { State.reset with
    slots := (below n).map fun k => (k, { e := { mx := q (.mret noCtl 0#5), vx := q (.vmovi noCtl 1#5 0#3 5#32), cp := q (.nmfence noCtl 0#8 0#4) } }) }

theorem wit_Arbitration_draw : ∀ e ∈ ([.mx, .vx, .cp] : List Engine), ∀ n ∈ [1, 3], (mine (contested n)).draws e = true ∧ (mine (contested n)).holdOf e = none ∧
    (let cands := ((List.range 8).map fun i => (contested n).cur / 8 * 8 + i).filter fun k => (contested n).headReady k e
     cands.length = n ∧ ∀ k ∈ cands, (contested n).pairs k = false) := by decide +kernel

/-- Both arrays of the pair are free, and each tile's one candidate is the MMAP at its head. -/
theorem wit_Arbitration_pair :
    let s := { pairState with phase := .dispatch, tiles := [(0, mxTile), (1, mxTile)] }
    let cands := fun (t : Nat) => ((List.range 8).map fun i => t * 8 + i).filter fun n => s.headReady n .mx
    (mine s).draws .mx = true ∧ (mine s).holdMx = none ∧ s.cur / 8 / 48 * 48 + Nat.xor (s.cur / 8 % 48) 1 = 1 ∧ (s.tile 1).holdMx = none ∧
      cands 0 = [0] ∧ cands 1 = [8] ∧ s.pairs 0 = true ∧ s.pairs 8 = true := by decide +kernel

/-- Engines held since cycle 10: at cycle 300, and at cycle 20 by a slot that has nothing more. -/
def holding (now : Nat) : State :=
  { State.reset with dcc := BitVec.ofNat 64 now
                     tiles := [(0, { holdMx := some ⟨2, 10, false⟩, holdVx := some ⟨2, 10, false⟩, holdCp := some ⟨2, 10, false⟩ })] }

theorem wit_Arbitration_quantum : (∀ now ∈ [20, 300], ∀ e ∈ ([.mx, .vx, .cp] : List Engine), (mine (holding now)).holdOf e = some ⟨2, 10, false⟩ ∧
      (mine (holding now)).busy = none ∧ (((holding now).slot 2).eng e).entries = []) ∧
    256 ≤ (holding 300).dcc.toNat - 10 ∧ (0 < (holding 20).dcc.toNat - 10 ∧ (holding 20).dcc.toNat - 10 < 256) := by decide +kernel

/-- A YIELD after word 4 of VX and of CP, with word 6 still queued. -/
theorem wit_Arbitration_yield :
    let q : EngQ := { entries := [{ cmd := .movx 3#5 9#64, seq := 6#32 }], seqNo := 6#32 }
    let s := { holding 20 with slots := [(2, { e := { vx := q, cp := q }, yieldVx := some 4, yieldCp := some 4 })] }
    ∀ e ∈ ([.vx, .cp] : List Engine), (mine s).holdOf e = some ⟨2, 10, false⟩ ∧
      (if e = .vx then (s.slot 2).yieldVx else (s.slot 2).yieldCp) = some 4 ∧ 0 < s.dcc.toNat - 10 ∧
      ∀ en ∈ ((s.slot 2).eng e).entries, 0 < (en.seq - BitVec.ofNat 32 4).toNat ∧ (en.seq - BitVec.ofNat 32 4).toNat < 2 ^ 31 := by decide +kernel

/-! ### LD and ST -/

/-- The lane that a check answers. -/
def got (e : Except Flt LaneAcc) : LaneAcc :=
  match e with
  | .ok a => a
  | .error _ => ⟨0, 0, 0, 0, 0, none⟩

theorem got_of {e : Except Flt LaneAcc} (h : e.isOk = true) : e = .ok (got e) := by
  cases e with
  | ok a => rfl
  | error f => cases h

/-- Mask K1 with lanes 0 and 2; X1 at `a` and X2 at buffer 1, in the views of LD and ST; window 5 to another node; a sharded buffer 2. -/
def lsSlot (a : Word) : Slot :=
  (((({} : Slot).setK 1#3 5#64).setX 0#2 1#5 a).setX 1#2 1#5 a).setX 0#2 2#5 va1
def lsState (a : Word) (en : Entry) : State :=
  { withTab (base (lsSlot a)) ((tkey 0x04 5, window5) :: shardTab) with
    phase := .issue en
    stations := (below 4).map fun k => (k, { members := 3#64 }) }

def lsEnt : Entry := ent [(3, 4#64)]

theorem wit_AccessesIssue_ready : ∀ a ∈ [va1, 64#64, 66#64, BitVec.ofNat 64 (2 * 2 ^ 40), BitVec.ofNat 64 (5 * 2 ^ 40)], let s := lsState a lsEnt
    Ready s .ld noCtl lsEnt ∧ LdRoom s lsEnt ∧ Ready s .st noCtl lsEnt ∧ StRoom s lsEnt ∧ s.me.replay = [] := by
  intro a h
  simp only [List.mem_cons, List.not_mem_nil, or_false] at h
  rcases h with rfl | rfl | rfl | rfl | rfl <;>
    exact ⟨ready_of rfl (by decide +kernel), ⟨by decide +kernel, by decide +kernel⟩, ready_of rfl (by decide +kernel), ⟨by decide +kernel, by decide +kernel⟩,
      by decide +kernel⟩

/-- LDB and STB at buffer 1 and LD and ST at the start of the tile, each lane of K1: every form of address. -/
theorem wit_AccessesIssue_contiguous : ∀ v ∈ [true, false], ∀ p ∈ [(0, rR), (1, rW)],
    let s := if v then lsState va1 lsEnt else lsState 64#64 lsEnt
    ∀ f ∈ [AddrForm.off 1#8, .postInc 0xFF#8, .reg 3#5], let ea := effective f (s.me.getX (BitVec.ofNat 2 p.1) 1#5) 4 lsEnt
      lanesOf (s.me.getK 1#3) = [0, 2] ∧ (ea.toNat % 4 = 0) ∧
      ∀ i ∈ [0, 2], (s.laneAt (s.issuer s.cur) v (some ea.toNat) p.2 i (ea + BitVec.ofNat 64 (4 * i)).toNat 4).isOk = true ∧
        s.fenced s.cur lsEnt.ord .load [(got (s.laneAt (s.issuer s.cur) v (some ea.toNat) p.2 i (ea + BitVec.ofNat 64 (4 * i)).toNat 4)).home] = false ∧
        (got (s.laneAt (s.issuer s.cur) v (some ea.toNat) p.2 i (ea + BitVec.ofNat 64 (4 * i)).toNat 4)).lane = i := by decide +kernel

/-- LDG with its index vector in buffer 1. -/
theorem wit_AccessesIssue_gather : let s := lsState 64#64 lsEnt
    let keys := s.keysAt true (2 ^ 40) 256
    (s.me.getX 0#2 2#5).toNat = 2 ^ 40 ∧ (∃ p, s.checkAt (s.issuer s.cur) true (2 ^ 40) 256 rR = .ok p) ∧
      s.fenced s.cur lsEnt.ord .load (keys.map fun p => homeOf p.1) = false ∧ s.me.loads = [] ∧ ((met s keys).readKeys keys).2 = false :=
  ⟨by decide +kernel, ok_of (by decide +kernel), by decide +kernel, by decide +kernel, by decide +kernel⟩

theorem wit_AccessesIssue_gathered : let s := lsState va1 lsEnt
    let u := afterIndex s true (2 ^ 40)
    ∀ i ∈ [0, 2], let a := (effective (.off 0#8) va1 4 lsEnt + BitVec.ofNat 64 (4 * (lane (0#2048) i).toNat)).toNat
      a % 4 = 0 ∧ (u.laneAt (s.issuer s.cur) true none rR i a 4).isOk = true ∧
        u.fenced s.cur lsEnt.ord .load [(got (u.laneAt (s.issuer s.cur) true none rR i a 4)).home] = false := by decide +kernel

/-- LDS of the sharded buffer 2, whose one shard lies in buffer 1. -/
theorem wit_AccessesIssue_shard : let s := lsState (BitVec.ofNat 64 (2 * 2 ^ 40)) lsEnt
    s.shardEntry (s.issuer s.cur) (2 * 2 ^ 40) 4 = .ok shardDesc ∧
      (let v := s.fillShard s.cur (2 * 2 ^ 40)
       ∀ i ∈ [0, 2], (v.shardLane shardDesc 4 [4 + i] i).isOk = true ∧ (got (v.shardLane shardDesc 4 [4 + i] i)).remote = none ∧
         v.fenced s.cur lsEnt.ord .load [(got (v.shardLane shardDesc 4 [4 + i] i)).home] = false) :=
  ⟨okEq_of (by decide +kernel), by decide +kernel⟩

/-- VAMO, STG and STN4 with indices 0. -/
theorem wit_AccessesIssue_scatter : let s := lsState va1 lsEnt
    ∀ p ∈ [(4, rA), (4, rW), (1, rW)], ∀ i ∈ [0, 2],
      let a := (effective (.off 0#8) va1 p.1 lsEnt + BitVec.ofNat 64 (p.1 * (lane (s.me.getV 7#5) i).toNat)).toNat
      a % p.1 = 0 ∧ (s.laneAt (s.issuer s.cur) true none p.2 i a p.1).isOk = true ∧
        s.fenced s.cur lsEnt.ord .both [(got (s.laneAt (s.issuer s.cur) true none p.2 i a p.1)).home] = false ∧
        (got (s.laneAt (s.issuer s.cur) true none p.2 i a p.1)).lane = i := by decide +kernel

/-- A misaligned address; window 5; and a stripe of buffer 1 that is not mapped. -/
theorem wit_FarAndParked : (effective (.off 0#8) 66#64 4 lsEnt).toNat % 4 ≠ 0 ∧
    (let s := lsState (BitVec.ofNat 64 (5 * 2 ^ 40)) lsEnt
     ∀ b ∈ [125, 126], (s.checkWindow s.cur s.me.y.tenant.toNat (5 * 2 ^ 40) [(0, 4), (8, 4)] b).isOk = true ∧
       s.fenced s.cur lsEnt.ord .load [(LaneAcc.mk 0 (5 * 2 ^ 40) 4 0 0 (some (5, 0))).home] = false) ∧
    (let s := (lsState va1 lsEnt).setEntry 0x01 (2 ^ 18) 0
     s.laneAt (s.issuer s.cur) true (some (2 ^ 40)) rW 0 (2 ^ 40) 4 = .error ⟨0x13, 2 ^ 40⟩ ∧
       s.fenced s.cur lsEnt.ord .store (s.parkedHomes true [(2 ^ 40, 4), (2 ^ 40 + 8, 4)]) = false) := by
  exact ⟨by decide +kernel, by decide +kernel, errEq_of (by decide +kernel), by decide +kernel⟩

/-- The lanes of an access to buffer 1, one or two of them; a load and a store of these. -/
def someLanes (two : Bool) : List LaneAcc :=
  let l := fun i => LaneAcc.mk i (2 ^ 40 + 4 * i) 4 (hbmKey 0 (4 * i)) 0 none
  if two then [l 0, l 2] else [l 0]
def loading (q two : Bool) : State := base { loads := [⟨ent [], q, 4#5, false, 5#64, someLanes two, 0#2048, 0#64, 0, none, 0⟩] }
def storing (two : Bool) : State := base { storeQ := [⟨ent [], (someLanes two).map fun a => ⟨a, 7#32, .plain⟩, rW, none, 0#32, none⟩] }

/-- Lane 0 is performed now: it is the last one, or another one follows. -/
theorem wit_AccessesPerform : (∀ q t : Bool,
    (match (loading q t).me.loads with
      | [a] => (match a.lanes with
        | l :: r => (1#64).getLsbD l.lane && (r.all fun p => !(1#64).getLsbD p.lane) && (loading q t).loadLaneOk 0 a l && decide (l.lane < 64) &&
          !((met (loading q t) l.keys).readKeys l.keys).2
        | [] => false)
      | _ => false) = true) ∧
    (∀ t : Bool, (match (storing t).me.storeQ with
      | [a] => (match a.lanes with
        | l :: r => (1#64).getLsbD l.acc.lane && (r.all fun p => !(1#64).getLsbD p.acc.lane) && (storing t).storeLaneOk 0 a l && a.bad.isNone &&
          ((met (storing t) l.acc.keys).laneBytes l).isSome
        | [] => false)
      | _ => false) = true) := by decide +kernel

/-- Data at the head of the load data queue, with and without poison; MARKs; and a store parked at an address that is mapped now. -/
def dataHead (poison : Word) : State := at0 { ldq := [⟨4#5, 5#64, 9#2048, poison, 64, none, none, 0#64⟩] }
def markEnt : Entry := { cmd := .eng (wordOf (.mark false 3#4)), seq := 1#32 }
def marks (issued : Bool) : State :=
  let q : EngQ := if issued then { active := some { markEnt with issued := true }, seqNo := 1#32 } else { entries := [markEnt], seqNo := 1#32 }
  at0 { e := { ld := q, st := q } }
def parked : State :=
  base { replay := [⟨ent [], [⟨LaneAcc.mk 0 (2 ^ 40) 4 (hbmKey 0 0) 0 none, 7#32, .plain⟩], rW, none, 0#32, none⟩] }

theorem wit_LoadStoreEvents : (dataHead 0#64).me.ldq.length = 1 ∧
    ((dataHead 1#64).me.e.ld.latch = none ∧ (dataHead 1#64).me.drain = none ∧ (dataHead 1#64).me.y.inTrap = false ∧
      (dataHead 1#64).me.job.stopped = false ∧ (dataHead 1#64).me.job.preempted = false) ∧
    (markEnt.isMark = true ∧ markEnt.pop = false ∧ markEnt.push = false ∧ (∀ e ∈ [Engine.ld, .st], ((marks false).me.eng e).entries = [markEnt] ∧
      ((marks false).me.eng e).active = none ∧ (marks false).me.backed e = false)) ∧
    ((marks true).me.e.ld.active = (marks true).me.e.st.active ∧ ((marks true).me.e.ld.active.any (·.isMark)) = true ∧ (marks true).me.loads = [] ∧
      (marks true).me.storeQ = [] ∧ (marks true).me.replay = []) ∧
    (match parked.me.replay with
      | [a] => (match parked.replayLanes parked.cur a with
        | .ok ls => !a.lanes.isEmpty && (parked.performLanes parked.cur a.phase ls).2.isNone
        | .error _ => false)
      | _ => false) = true := by decide +kernel

/-! ### CP -/

/-- X1 and X2 in the view of CP; S3 a length, S4 a pattern or strides, S5 a bank mask. -/
def cpEnt (n : Nat) : Entry := ent [(3, BitVec.ofNat 64 n), (4, 9#64), (5, 0xF#64)]
def cpState (a b : Word) (n : Nat) (x : Slot) : State :=
  issuing (withTab (base ((x.setX 2#2 1#5 a).setX 2#2 2#5 b)) shardTab) (cpEnt n)

/-- A copy of 64 bytes, of elements between two banks, and of a rectangle; a length of 2^40. -/
theorem wit_CopiesStart : CpReady (cpState 0#64 4096#64 64 {}) noCtl (cpEnt 64) ∧ ((cpEnt 64).cap 3#5).toNat < 2 ^ 40 ∧
    (cpState 0#64 4096#64 64 {}).cvChecks 0#64 4096#64 64 = .ok () ∧
    (let s := cpState 0#64 4096#64 (2 ^ 32 + 16) {}
     ∀ r < 1, s.cvChecks (BitVec.ofNat 64 (rowAt 0#64 0 r)) (BitVec.ofNat 64 (rowAt 4096#64 9 r)) 16 = .ok ()) ∧
    (CpReady (cpState 0#64 4096#64 (2 ^ 40) {}) noCtl (cpEnt (2 ^ 40)) ∧ 2 ^ 40 ≤ ((cpEnt (2 ^ 40)).cap 3#5).toNat) := by
  refine ⟨ready_of rfl (by decide +kernel), by decide +kernel, okUnit_of (by decide +kernel), ?_, ready_of rfl (by decide +kernel),
    by decide +kernel⟩
  intro s r hr
  have h : r = 0 := by omega
  rw [h]
  exact okUnit_of (by decide +kernel)

/-- A sharded copy of one buffer to itself; and banks that may be discarded. -/
theorem wit_CopiesStart_shard : let s := cpState (BitVec.ofNat 64 (2 * 2 ^ 40)) (BitVec.ofNat 64 (2 * 2 ^ 40)) 16 {}
    s.scHolds s.cur (cpEnt 16).ord = false ∧ s.shardEntry (s.issuer s.cur) (2 * 2 ^ 40) (Config.openWord s.freeCtr).toNat = .ok shardDesc ∧
      ((cpEnt 16).cap 4#5).toNat + 16 ≤ (extentsOf shardDesc).foldl (· * ·) 1 :=
  ⟨by decide +kernel, okEq_of (by decide +kernel), by decide +kernel⟩

theorem wit_CopiesStart_discard : let s := cpState 0#64 0#64 16 {}
    ((cpEnt 16).cap 5#5).toNat < 2 ^ 16 ∧
      (∀ g, g < 64 → natBits 0xF (g / 16 * 4 + 3) (g / 16 * 4) ≠ 0 → s.admits (s.issuer s.cur) (saTile 0 * 2 ^ 22 + g * 2 ^ 16) = true) := by decide +kernel

/-- Near-memory commands of 64 elements of buffer 1, two ranges and one. -/
theorem wit_CopiesStart_near : let s := cpState va1 (va1 + 4096#64) 64 {}
    CpReady s noCtl (cpEnt 64) ∧ s.me.journal = [] ∧
      (∀ l ∈ [[(va1, 256), (va1 + 4096#64, 256)], [(va1, 256)], [(va1, 4), (va1 + 4096#64, 256)]], (s.nmCheck l 64#64).isOk = true ∧
        s.clearFor s.cur (cpEnt 64).ord .nm (l.flatMap fun r => s.rangeHomes true r.1.toNat r.2) = true) ∧
      ((cpEnt 64).cap 4#5).setWidth 32 ≠ 0#32 ∧ ((cpEnt 64).cap 6#5).setWidth 32 = 0#32 :=
  ⟨ready_of rfl (by decide +kernel), by decide +kernel, by decide +kernel, by decide +kernel, by decide +kernel⟩

/-- A copy in the journal from buffer 1 to the tile, of 32 bytes; a fill; one with nothing left; and a discard of four banks. -/
def copying (i : Instr) (n : Nat) : State :=
  let en : Entry := { cpEnt n with issued := true }
  base { journal := [⟨i, en, 0#64, va1, 0, false, 0, false, [], 0#32, []⟩] }

theorem wit_CopiesPerform : (∀ i ∈ [Instr.cpy noCtl false false true 1#5 2#5 3#5 0#8 1#4, .fill noCtl false 1#5 3#5 4#5 0#8 1#4],
    let s := copying i 32
    (match s.me.journal with
      | [j] => !j.entry.isNm && s.me.copiesRun j && s.copyClear s.cur j && (s.copyReqs s.cur j.entry.seq).isEmpty &&
        (match planOf j.instr j.entry with
          | some p => !p.cv && decide (p.dst = .sa) && decide (s.unitOf p j = some 0) &&
            (let d0 := rowAt j.xd p.dstStride 0
             let s0 := rowAt j.xs p.srcStride 0
             let o := (rawSpan d0 p.len 0).1
             let len := (rawSpan d0 p.len 0).2
             let d := (d0 + o) % 2 ^ 64
             let a := (s0 + o) % 2 ^ 64
             let from_ := s.keysAt (p.src == .va) a len
             (s.rawChecks s.cur p d a len).isOk && (p.src != .va || !((met s from_).readKeys from_).2) && j.was.isEmpty)
          | none => false)
      | _ => false) = true) ∧
    (let s := copying (.fillDiscard noCtl 5#5 0#8 1#4) 32
     match s.me.journal with
      | [j] => !j.entry.isNm && s.me.copiesRun j && s.copyClear s.cur j && decide (j.unit = 0) && decide ((j.entry.cap 5#5).toNat = 0xF) &&
        (s.slots.all fun e => !e.2.usesBanks 0 0xF && !s.copyUses e.1 0 0xF) && (mine s).busy.isNone
      | _ => false) = true ∧
    (let s := copying (.cpy noCtl false false true 1#5 2#5 3#5 0#8 1#4) 0
     match s.me.journal with
      | [j] => !j.entry.isNm && s.me.copiesRun j && !s.copyLeft j && s.ctrClear s.cur j
      | _ => false) = true := by
  refine ⟨?_, by decide +kernel, by decide +kernel⟩
  intro i hi
  simp only [List.mem_cons, List.not_mem_nil, or_false] at hi
  rcases hi with rfl | rfl <;> decide +kernel

/-- A piece at stack 0, of two elements or of 32 of a region that is filled whole, not done or done; the last partial sum but one, and the last. -/
def nearMem (op : Nat) (done whole : Bool) : State :=
  { base {} with pieces := [⟨0, 1#32, op, 0, 0, 0, 0, 64, 0, 1#32, 2#32, if whole then 32 else 2, done, false, 1, whole⟩] }
def summing (left : Nat) : State :=
  let a : NmPartial := ⟨0, 1#32, 0, 5, false, false, false, false, false⟩
  { base {} with partials := [a], sums := [⟨0, 1#32, 1, 0, 0, 0, left, { a with sum := 0 }⟩] }

theorem wit_NearMemoryPerforms : (∀ op ∈ [0, 1, 2, 3, 4, 5, 9], let s := nearMem op false false
      ∀ p ∈ s.pieces, p.done = false ∧ s.nmAhead p.slot p.ord p.names = false ∧ s.nmHolds p.stack p.op = decide (op ≠ 9) ∧
        (s.routeTo (.die (p.slot / 384)) p.stack).isSome = true ∧ (op ≤ 5 → p.op ≤ 5) ∧ p.n ≤ 2 ^ 14 ∧ p.addr % 4 = 0 ∧ p.whole = false ∧
        (s.nmReach p).nmLost p = []) ∧
    (let s := nearMem 0 true false
     s.pieces.length = 1 ∧ ∀ p ∈ s.pieces, p.done = true) ∧
    (∀ l ∈ [1, 2], let s := summing l
      s.partials.length = 1 ∧ s.sums.length = 1 ∧ (s.ringRoute 0 0).isSome = true ∧ s.nmHolds 0 6 = true ∧
        s.piecesAhead 0 1 (hbmKey 0 0) = false ∧ s.nmAhead 0 1 (fun j => decide (j = hbmKey 0 0)) = false ∧
        ∀ a ∈ s.partials, ∀ q ∈ s.sums, q.slot = a.slot ∧ q.seq = a.seq ∧ q.left = l ∧ q.stack = 0 ∧ a.stack = 0 ∧ hbmKey q.stack q.addr = hbmKey 0 0) := by
  decide +kernel

/-- A piece of a region that a zero fill covers, all of whose bytes are served. -/
theorem wit_NearMemoryPerforms_whole : let s := nearMem 4 false true
    ∀ p ∈ s.pieces, p.whole = true ∧ 0 < p.n ∧ p.n ≤ 2 ^ 14 ∧ s.nmAhead p.slot p.ord p.names = false ∧
      (∀ q ∈ s.pieces.eraseIdx 0, q.whole = false ∨ q.done = true) ∧
      (let t := s.touchAllFrom (.base p.stack) (s.slot p.slot).y.ctx.toNat p.dstKeys
       ∀ c ∈ p.dstKeys, t.unserved (.base p.stack) c.2 c.1 = none) := by decide +kernel

/-! ### Tasks, teams and seasons -/

def rec1 : TaskRec := ⟨0#64, 0#64, 0#64, 1, 0#64, 0#64, 0#32, 0, 1, 0, 0, 0, [], [], []⟩
def tqe (h : W32) : TqEntry := ⟨va1, h, [], {}, 0, 0, 1, false, none⟩
def task1 (st : TaskState) (slot : Option Nat) : Task :=
  { state := st, ctx := 1, team := 1, tq := tqe (futHandle 7 1), rc := rec1, preds := [], futPreds := [], refs := [], slot := slot }

/-- Context 1 with its record at the start of buffer 1, die 0 with a CSA array in it, and the task and the team given. -/
def schedState (x : Slot) (ts : List (Nat × Task)) (tms : List (Nat × Team)) : State :=
  let s := withTab (base x) [(tkey 0x10 1, ctx1), (tkey 0x11 2, node2), (tkey 0x17 0, 2 ^ 40)]
  { s.putByte (hbmKey 0 0x38) 1#8 with tasks := ts, teams := tms, futures := [(7, { state := .pending, gen := 1, count := 1, ctx := 1 })] }

theorem wit_TaskSet : let s := { schedState {} [] [] with taskQ := [(1, [tqe (futHandle 7 1)])] }
    (s.die 0).failed = false ∧ s.nextQueue 0 = some 1 ∧ mget [] s.taskQ 1 = [tqe (futHandle 7 1)] ∧ s.freeIndex 0 = some 0 ∧
      (let v := { s.setDie 0 { s.die 0 with lastCtx := 1 } with taskQ := mput s.taskQ 1 [] }
       (v.recordAt 1 va1).2.isSome = true) ∧
      (let u := schedState {} [(4, task1 .finished none)] []
       (mfind u.tasks 4).isSome = true ∧ (task1 .finished none).state = .finished) := by decide +kernel

def team1 (st : TeamState) (ts : List Nat) (ns : List Nat) : Team := { die := 0, ctx := 1, tasks := ts, state := st, since := 1, slots := ns }

/-- A lone waiting team with a task; a pre-empted one; two that are drawn from, swapped; and one that waits for room. -/
theorem wit_TeamPlacement : (let s := schedState {} [(0, task1 .ready none)] [(3, team1 .waiting [0] [])]
     (s.die 0).failed = false ∧ (s.die 0).precede = none ∧ s.candidates 0 = [3] ∧ (s.team 3).state = .waiting ∧ (s.team 3).tasks = [0] ∧
       (mfind s.tasks 0).isSome = true ∧ (s.placeOf false 3).isSome = true) ∧
    (let s := { schedState {} [(0, task1 .ready none)] [(3, team1 .waiting [0] [])] with tab := (tkey 0x17 0, 2 ^ 40) :: (base {}).tab }
     s.csaOf 0 = 2 ^ 40 ∧ ∀ q ∈ s.keysAt true (s.csaOf 0 + 0xD100) 8, s.seasonOf q.1 ≠ 2 ∧
       (isHbm q.1 = true → (s.stack (stackOf q.1)).toStack = [] ∧ (s.stack (stackOf q.1)).queue (pcOf q.1) = [])) ∧
    (let s := schedState { job := { task := some 0, preempted := true } } [(0, task1 .resident (some 0))] [(1, team1 .preempted [0] [0])]
     (s.die 0).failed = false ∧ (s.die 0).precede = none ∧ s.candidates 0 = [1] ∧ (s.team 1).state = .preempted ∧
       ∀ n ∈ (s.team 1).slots, (s.slot n).anyLatch = false) ∧
    (let s := schedState {} [(0, task1 .swapped none), (1, task1 .swapped none)] [(3, team1 .swapped [0] [8]), (4, team1 .swapped [1] [16])]
     (s.die 0).failed = false ∧ (s.die 0).precede = none ∧ 1 < (s.candidates 0).length ∧ ∀ w ∈ s.candidates 0, (s.team w).state = .swapped) ∧
    (let s := { schedState { job := { task := some 0 } } [(0, task1 .resident (some 0)), (1, task1 .swapped none)] [(3, team1 .swapped [1] [0])] with dcc := BitVec.ofNat 64 (2 ^ 40) }
     (s.die 0).precede = none ∧ (s.team 3).die = 0 ∧ s.teamReady 3 = true ∧ s.teamFits 3 = false ∧
       (s.team 3).since + 2 ^ natBits (s.entry 0x13 0) 16 12 ≤ s.dcc.toNat) := by decide +kernel

/-- The task of slot 0 in its part `p`, asked to give its slot up. -/
def asked (p : Part) (bounds : List (List W32)) : State :=
  { schedState { job := { task := some 0, part := p, preemptReq := true, bounds := bounds }, y := { iterBudget := 100#32 } }
      [(0, task1 .resident (some 0))] [(1, team1 .resident [0] [0])] with dcc := 5000#64 }

theorem wit_PreemptionAndEnds : ((asked .kernel []).team 1).state = .resident ∧
    (let feed : MmaFeed := ⟨3, 8, 0, 11#16, 11#16, none, (0, 0), 32, 2, [], 0, some 8⟩
     let s := { asked .kernel [] with tiles := [(0, { busy := some ⟨0, ent [], 9000, 0, false, some feed⟩ })]
                                      teams := [(1, team1 .resident [0] [0]), (2, team1 .resident [1] [8])]
                                      slots := (asked .kernel []).slots ++ [(8, ({ job := { team := 2, task := some 1 } } : Slot))] }
     (s.team 1).state = .resident ∧ s.pairedTeams 1 = [2] ∧ (s.team 2).state = .resident) ∧
    (let s := asked .kernel [[0#32, 0#32, 0#32, 0#32, 0#32, 0#32]]
     s.me.job.preemptReq = true ∧ s.me.atBoundary = true ∧ CanCut s ∧ s.me.job.part = .kernel ∧ s.me.y.iterBudget ≠ 0#32 ∧
       s.me.y.iterBudget.toNat < s.dcc.toNat - s.me.job.iterStart.toNat) ∧
    (let s := asked .ended [[0#32, 0#32, 0#32, 0#32, 0#32, 0#32]]
     s.me.job.preemptReq = true ∧ s.me.atBoundary = true ∧ CanCut s) ∧
    (let s := (asked .ended []).upMe fun x => { x with job := { x.job with preemptReq := false } }
     s.me.job.part = .ended ∧ s.me.job.preemptReq = false ∧ s.me.calm = true ∧ s.me.quiet (s.tile (s.cur / 8)) s.cur = true ∧ s.homeFailed s.cur = false ∧
       s.me.job.task = some 0 ∧ (mfind s.tasks 0).isSome = true ∧ (task1 .resident (some 0)).slot = some s.cur ∧
       s.futStale (task1 .resident (some 0)).tq.handle = false ∧ (s.future 7).state = .pending ∧ 0 < (s.future 7).count ∧ (s.future 7).front = false) ∧
    (let s := { (asked .kernel []).upMe fun x => { x with job := { x.job with preempted := true } } with
       futures := [(7, { state := .reclaimed, gen := 1, count := 1, ctx := 1 })] }
     s.doomed s.cur = true ∧ s.me.job.preempted = true ∧ s.me.job.task = some 0) := by
  unfold CanCut
  decide +kernel

/-- Slot 0 at a cut, its CSA at the start of buffer 1, and a slot that is saved at 2^40 + 0x10000. -/
def cutState : State :=
  { schedState { job := { task := some 0, preempted := true }, y := { csaBase := va1 } } [(0, task1 .resident (some 0))] [(1, team1 .preempted [0] [0])] with
    csa := [(2 ^ 40 + 0x10000, { job := { task := some 1, preempted := true, team := 1 } })] }

theorem checkStripe_of {s : State} {e va first last pm seg : Nat} (h1 : s.see 0x01 (pmapIdx e (first / 2 ^ 21)) = pm) (h2 : s.see 0x03 (bufVf e) = seg)
    (h3 : natBit pm 63 = true) (h4 : natBit seg 63 = true)
    (h5 : ∀ j, j < last - first + 1 → natBits seg 15 0 * 2 ^ 21 ≤ (placeOf e (natBits seg 15 0 * 2 ^ 21) (natBits pm 18 0) (first + j)).2 ∧
      (placeOf e (natBits seg 15 0 * 2 ^ 21) (natBits pm 18 0) (first + j)).2 < natBits seg 15 0 * 2 ^ 21 + natBits seg 47 32 * 2 ^ 21) :
    s.checkStripe e va first last = .ok () := by
  unfold State.checkStripe
  simp only [h1, h2, h3, h4, must, if_true]
  rw [List.find?_eq_none.mpr]
  · rfl
  · intro j hj
    have h := h5 j (List.mem_range.mp hj)
    rw [decide_eq_true h.1, decide_eq_true h.2]
    decide

theorem checkVa_of {s : State} {i : Issuer} {va len right e : Nat} (h : s.checkEntry i va len right = .ok e) (hl : len ≠ 0)
    (h2 : ¬min (vaOffset va + len - 1) (vaOffset va / 2 ^ 21 * 2 ^ 21 + 2 ^ 21 - 1) < vaOffset va + len - 1)
    (h3 : s.checkStripe e va (vaOffset va) (min (vaOffset va + len - 1) (vaOffset va / 2 ^ 21 * 2 ^ 21 + 2 ^ 21 - 1)) = .ok ()) :
    s.checkVa i va len right = .ok () := by
  unfold State.checkVa
  rw [h]
  show (if len = 0 then _ else _) = _
  rw [if_neg hl]
  unfold State.checkStripes
  simp only [h3, if_neg h2]
  rfl

theorem cut_stripe : cutState.checkStripe someBuffer (2 ^ 40) 0 65535 = .ok () := by
  have hg : bufGran someBuffer = 256 := by decide +kernel
  have hn : bufStacks someBuffer = 1 := by decide +kernel
  have h0 : natBits (2 ^ 63 + 2 ^ 32) 15 0 = 0 ∧ natBits (2 ^ 63 + 2 ^ 32) 47 32 = 1 ∧ natBits (2 ^ 63) 18 0 = 0 := by decide +kernel
  refine checkStripe_of (pm := 2 ^ 63) (seg := 2 ^ 63 + 2 ^ 32) (by decide +kernel) (by decide +kernel) (by decide +kernel) (by decide +kernel) ?_
  intro j hj
  simp only [placeOf, hg, hn, h0]
  omega

theorem saved_of {s : State} {n : Nat} (h : s.checkVa (s.schedIssuer n) (s.slot n).y.csaBase.toNat 0x10000 rW = .ok ()) : (s.saveSlot n).2 = true := by
  simp only [State.saveSlot, h]

theorem wit_Swaps : (cutState.me.cutDone = true ∧ cutState.me.y.csaBase.toNat ≠ 0 ∧
      cutState.checkVa (cutState.schedIssuer cutState.cur) (2 ^ 40) 0x10000 rW = .ok () ∧ (2 ^ 40 + 0x10000) ≠ cutState.me.y.csaBase.toNat ∧
      (mfind cutState.csa (2 ^ 40 + 0x10000)).isSome = true) ∧
    ((cutState.team 1).state = .preempted ∧
      ((cutState.team 1).slots.filter fun n => (cutState.slot n).job.team = 1 && (cutState.slot n).job.task.isSome) = [0] ∧
      (cutState.slot 0).cutDone = true ∧ (cutState.saveSlot 0).2 = true) := by
  have h : cutState.checkVa (cutState.schedIssuer cutState.cur) (2 ^ 40) 0x10000 rW = .ok () :=
    checkVa_of (e := someBuffer) (okEq_of (by decide +kernel)) (by decide) (by decide +kernel) cut_stripe
  exact ⟨⟨by decide +kernel, by decide +kernel, h, by decide +kernel, by decide +kernel⟩, by decide +kernel, by decide +kernel, by decide +kernel, saved_of h⟩

/-- A swapped team that takes precedence, its one member saved. -/
def swappedState : State :=
  { schedState {} [(1, task1 .swapped none)] [(3, team1 .swapped [1] [8])] with
    dies := [(0, { precede := some 3 })]
    csa := [(2 ^ 40 + 0x10000, { job := { task := some 1, preempted := true, team := 3 } })] }

theorem wit_Swaps_in : (swappedState.team 3).state = .swapped ∧ (swappedState.die (swappedState.team 3).die).precede = some 3 ∧
    ((swappedState.team 3).tasks.zip (swappedState.team 3).slots).filter (fun p => swappedState.inFlight p.1) = [(1, 8)] ∧
    (swappedState.slot 8).vacant = true ∧ (swappedState.team 3).image = [] ∧ swappedState.csaKey 1 = some (2 ^ 40 + 0x10000) ∧
    (mfind swappedState.csa (2 ^ 40 + 0x10000)).isSome = true := by decide +kernel

/-- A pool of `pool` granules on die 0; queue 3 is swapped, queue 5 resident with its bytes at the start of the pool. -/
def poolState (pool share : Nat) : State :=
  { withTab (base {}) [(tkey 0x16 3, queue1 + 2 ^ 126), (tkey 0x16 5, queue1), (tkey 0x14 1, share)] with
    dies := [(0, { pool := pool })], qSwaps := [3] }

theorem wit_QueueSwapsAndSeasons : (let s := poolState 1 1
     s.qSwaps.find? (fun j => decide (j / 4096 = 0) && ((s.poolRoom 0 (qBytes (s.entry 0x16 j))).isSome &&
        decide (s.tenantBytes 0 (qTenant (s.entry 0x16 j)) + qBytes (s.entry 0x16 j) ≤ s.tenantShare 0 (qTenant (s.entry 0x16 j))))) = some 3 ∧
       (s.poolRoom 0 (qBytes (s.entry 0x16 3))).isSome = true) ∧
    (∀ share ∈ [0, 1], let s := poolState 0 share
     s.qSwaps.find? (fun j => decide (j / 4096 = 0) && decide (qTenant (s.entry 0x16 j) = (1#8).toNat)) = some 3 ∧ s.poolRoom 0 (qBytes (s.entry 0x16 3)) = none ∧
       (((s.residentQueues 0).filter fun j => decide (s.tenantShare 0 (qTenant (s.entry 0x16 j)) < s.tenantBytes 0 (qTenant (s.entry 0x16 j)))) =
         if share = 0 then [5] else []) ∧ s.residentQueues 0 = [5] ∧ (share = 1 → s.tenantBytes 0 1 + qBytes (s.entry 0x16 3) ≤ s.tenantShare 0 1)) := by
  decide +kernel

/-- Bank 2 of tile 0 and region 4 of stack 1 in season c, at a late cycle; a hold that has ended. -/
def seasonState (c : Nat) : State :=
  { State.reset with
    dcc := BitVec.ofNat 64 (2 ^ 40), tiles := [(0, { season := [(2, BitVec.ofNat 2 c)] })], tab := [(tkey 0x0D (1 * 2 ^ 15 + 4), c)]
    slots := [(0, { bwHold := if c = 3 then some ⟨4, [], some 9⟩ else none })] }

theorem wit_QueueSwapsAndSeasons_seasons : (mget 2#2 ((seasonState 0).tile 0).season 2 = 0#2 ∧ (seasonState 0).bankHeld 0 2 = false ∧
      2 ^ natBits ((seasonState 0).entry 0x13 (0 / 48)) 11 7 ≤ (seasonState 0).dcc.toNat - mget 0 ((seasonState 0).tile 0).lastUse 2) ∧
    mget 2#2 ((seasonState 3).tile 0).season 2 = 3#2 ∧
    ((seasonState 0).regionSeason (1 * 2 ^ 15 + 4) = 0 ∧ (seasonState 0).regionHeld 1 4 = false ∧ natBit ((seasonState 0).entry 0x0D (1 * 2 ^ 15 + 4)) 2 = false ∧
      2 ^ natBits ((seasonState 0).entry 0x13 (1 / 2)) 11 7 ≤ (seasonState 0).dcc.toNat - mget 0 (seasonState 0).regionUse (1 * 2 ^ 15 + 4)) ∧
    (seasonState 3).regionSeason (1 * 2 ^ 15 + 4) = 3 ∧
    ((seasonState 3).me.bwHold = some ⟨4, [], some 9⟩ ∧ 9 ≤ (seasonState 3).dcc.toNat) := by decide +kernel

/-! ### The host -/

/-- A queue of 16 commands of context 1, its rings at 0x2000 and 0x3000 of buffer 1; and one command taken so far. -/
def hqRec : BitVec 128 := BitVec.ofNat 128 (2 ^ 127 + 4 * 2 ^ 123 + 1 * 2 ^ 111 + 0x2000 * 2 ^ 40 + 0x3000)

/-- Bytes of buffer 1 from an offset on. -/
def putAt (s : State) (o : Nat) (bs : List Nat) : State := ((below bs.length).zip bs).foldl (fun s p => s.putByte (hbmKey 0 (o + p.1)) (BitVec.ofNat 8 p.2)) s

/-- Bring-up complete, both ports up, VF 0 of tenant 1 running, with queue 0 as given. -/
def hostState (q : HostQ) (v : Tdisp) : State :=
  { withTab (base {}) [(tkey 0x10 1, ctx1), (tkey 0x03 0, 2 ^ 63 + 2 ^ 32 + 1 * 2 ^ 24)] with
    mgmt := { ready := true }, portA := { up := true, tenant := 1#8 }, portB := { up := true }, hq := [(hqKey (.vf 0#9) 0#4, q)]
    vfs := [(0, { enabled := true, state := v })] }

theorem wit_HostQueuesAndAccesses_rings : let s := hostState { record := hqRec, tail := 3#32 } .run
    s.fnUp (.vf 0#9) = true ∧ (s.hostQ (hqKey (.vf 0#9) 0#4)).valid = true ∧ s.fnError (.vf 0#9) = false ∧ s.fnUp (.pf false) = true := by decide +kernel

theorem wit_HostQueuesAndAccesses_create : let s := hostState {} .unlocked
    let r := hqRec.toNat
    s.fnUp (.vf 0#9) = true ∧ (s.hostQ (hqKey (.vf 0#9) 0#4)).valid = false ∧ natBit r 127 = true ∧ 4 ≤ natBits r 126 123 ∧ natBits r 126 123 ≤ 12 ∧
      natBits r 79 40 % 4096 = 0 ∧ natBits r 39 0 % 4096 = 0 ∧ ctxValid (s.context (natBits r 122 111)) = true ∧ (s.vf 0).state = .unlocked ∧
      (s.vf 0).teardown = false ∧ s.vfOfCtx (natBits r 122 111) = 0 := by decide +kernel

theorem wit_HostQueuesAndAccesses_completion : let s := hostState { record := hqRec, ready := [⟨0, 0, 0#32, 1#32, true⟩] } .run
    let x := s.hostQ (hqKey (.vf 0#9) 0#4)
    s.fnUp (.vf 0#9) = true ∧ x.valid = true ∧ x.ready = [⟨0, 0, 0#32, 1#32, true⟩] ∧ (x.done - x.cqhead).toNat < 2 ^ natBits x.record.toNat 126 123 ∧
      s.winBuf (.vf 0#9) = some 1 ∧ (s.checkVa (s.fnIssuer (.vf 0#9)) (2 ^ 40 + natBits x.record.toNat 39 0 + 16 * 0) 16 rW).isOk = true := by decide +kernel

theorem wit_HostQueuesAndAccesses_window : (let s := hostState {} .run
     s.fnUp (.vf 0#9) = true ∧ (s.checkVa (s.fnIssuer (.vf 0#9)) (2 ^ 40) 8 rR).isOk = true ∧ (s.checkVa (s.fnIssuer (.vf 0#9)) (2 ^ 40) 8 rW).isOk = true ∧
       (s.checkVa (s.fnIssuer (.vf 0#9)) 0 8 rR).isOk = false) ∧ State.reset.fnUp (.vf 0#9) = false ∧
    (let s := hostState {} .run
     s.sem 3 = none ∧ { s with sems := [(3, some true)] }.sem 3 = some true ∧ s.fnUp (.pf true) = true) := by decide +kernel

/-- The command at the head of queue 0: its bytes; at 0x4000 a description with one task, at 0x5000 one with 2 tasks, at 0x6000 none. -/
def command (bs : List Nat) (m : Model) : State :=
  let s := hostState { record := hqRec, tail := 1#32 } .run
  let s := putAt (putAt (putAt s 0x2000 bs) 0x4000 [1, 0, 0, 0, 0, 0, 0, 0, 0, 0, 0, 0, 0, 1]) 0x5000 [9]
  { s with models := [(0, m)] }

/-- What the front end reads there: the state after the command, and the description at a VA with the state after it. -/
def taken (s : State) : State := s.afterCommand (.vf 0#9) (s.hostQ 0)
def described (s : State) (va : Nat) : State × Option Launch := (taken s).launchAt (s.fnIssuer (.vf 0#9)) va

def model1 (descr : Nat) : Model := { valid := true, gen := 7#32, descr := BitVec.ofNat 64 (2 ^ 40 + descr) }

/-- Taken: INVOKE with reserved flags, of a slot without a model, one that unloads, an old generation, a bad address, a description that cannot be
read, and one that can. -/
theorem wit_HostCommands_invoke : (∀ e ∈ [([1, 0x20, 0, 0, 7], model1 0x4000), ([1, 0, 0, 0, 7], {}), ([1, 0, 0, 0, 7], { model1 0x4000 with unloading := true }),
      ([1, 0, 0, 0, 6], model1 0x4000), ([1, 1, 0, 0, 7], model1 0x4000), ([1, 0, 0, 0, 7], model1 0x5000), ([1, 0, 0, 0, 7], model1 0x4000)],
      (command e.1 e.2).intakes (.vf 0#9) ((command e.1 e.2).hostQ (hqKey (.vf 0#9) 0#4)) = true) ∧
    (let s := command [1, 0x20, 0, 0, 7] (model1 0x4000)
     (s.commandAt (.vf 0#9) (s.hostQ 0) 0).bad = true) ∧
    (let s := command [1, 1, 0, 0, 7] (model1 0x4000)
     let c := s.commandAt (.vf 0#9) (s.hostQ 0) 0
     c.bad = false ∧ c.opc = 1 ∧ c.mgen = 7 ∧ badAddr (c.addrs.getD 0 0) = true ∧ c.nbuf = 1) ∧
    (let s := command [1, 0, 0, 0, 7] (model1 0x5000)
     (described s (s.model 0).descr.toNat).2.isNone = true) := by decide +kernel

theorem wit_HostCommands_launch : let s := command [1, 0, 0, 0, 7] (model1 0x4000)
    let c := s.commandAt (.vf 0#9) (s.hostQ 0) 0
    let l : Launch := { tasks := [2 ^ 40] }
    c.bad = false ∧ c.opc = 1 ∧ c.nbuf = 0 ∧ s.modelKey (s.hostQ 0) c.mslot = 0 ∧ (s.model 0).valid = true ∧ (s.model 0).unloading = false ∧ c.mgen = (s.model 0).gen.toNat ∧
      (described s (s.model 0).descr.toNat).2 = some l ∧ (mget [] s.taskQ 1).length + 1 ≤ 4096 ∧
      (let w := (described s (s.model 0).descr.toNat).1
       w.overLimit 1 l = false ∧ 1 ≤ w.freeFutures (ctxDie (s.context 1)) ∧ w.freeFuture (ctxDie (s.context 1)) = some 0) := by decide +kernel

/-- A description with nine roots at 0x6000, which is over the limit of its team. -/
def ninefold : State :=
  (List.range 9).foldl (fun s i => putAt s (0x6000 + 16 * i) [1, 0, 0, 0, 0, 0, 0, 0, 0, 0, 0, 0, 0, 1]) (command [1, 0, 0, 0, 7] (model1 0x6000))

theorem wit_HostCommands_limits : ninefold.intakes (.vf 0#9) (ninefold.hostQ (hqKey (.vf 0#9) 0#4)) = true ∧
    (match described ninefold (2 ^ 40 + 0x6000) with
      | (w, some l) => decide (l.tasks.length = 9) && w.overLimit 1 l
      | _ => false) = true := by decide +kernel

/-- MODEL_LOAD of the description at 0x4000 and of one at buffer 0; MODEL_UNLOAD with reserved flags, of an empty slot, of an old generation,
and of a slot that may be unloaded. -/
theorem wit_HostCommands_models : (∀ e ∈ [([2, 1, 0, 0, 0, 0, 0, 0, 0x40, 0, 0, 0, 0x10], {}), ([2, 1], {}), ([3, 0x20, 0, 0, 7], model1 0x4000), ([3, 0, 0, 0, 7], {}),
      ([3, 0, 0, 0, 6], model1 0x4000), ([3, 0, 0, 0, 7], model1 0x4000)],
      (command e.1 e.2).intakes (.vf 0#9) ((command e.1 e.2).hostQ (hqKey (.vf 0#9) 0#4)) = true) ∧
    (let s := command [2, 1, 0, 0, 0, 0, 0, 0, 0x40, 0, 0, 0, 0x10] {}
     let c := s.commandAt (.vf 0#9) (s.hostQ 0) 0
     c.opc = 2 ∧ c.bad = false ∧ c.nbuf ≠ 0 ∧ badAddr (c.addrs.getD 0 0) = false ∧
       (described s (natBits (c.addrs.getD 0 0) 55 36 * 2 ^ 40 + natBits (c.addrs.getD 0 0) 35 0 * 256)).2 = some { tasks := [2 ^ 40] }) ∧
    (let s := command [2, 1, 0, 0, 0, 0, 0, 0, 0x50, 0, 0, 0, 0x10] {}
     let c := s.commandAt (.vf 0#9) (s.hostQ 0) 0
     c.opc = 2 ∧ c.bad = false ∧ c.nbuf ≠ 0 ∧ badAddr (c.addrs.getD 0 0) = false ∧
       (described s (natBits (c.addrs.getD 0 0) 55 36 * 2 ^ 40 + natBits (c.addrs.getD 0 0) 35 0 * 256)).2 = none) ∧
    (let s := command [2, 1] {}
     let c := s.commandAt (.vf 0#9) (s.hostQ 0) 0
     c.opc = 2 ∧ badAddr (c.addrs.getD 0 0) = true) ∧
    (let s := command [3, 0x20, 0, 0, 7] (model1 0x4000)
     let c := s.commandAt (.vf 0#9) (s.hostQ 0) 0
     c.opc = 3 ∧ c.bad = true ∧ (s.hostQ 0).flight = []) ∧
    (let s := command [3, 0, 0, 0, 7] (model1 0x4000)
     let c := s.commandAt (.vf 0#9) (s.hostQ 0) 0
     c.opc = 3 ∧ c.bad = false ∧ (s.model 0).valid = true ∧ (s.model 0).unloading = false ∧ c.mgen = (s.model 0).gen.toNat ∧ s.modelBusy 0 = false) ∧
    (let s := { command [3, 0, 0, 0, 7] (model1 0x4000) with hq := [(0, { record := hqRec, tail := 1#32, flight := [⟨9, [5#32], 5#32, 7#32, false, 0⟩] })] }
     s.modelBusy 0 = true ∧ ∀ d ∈ (s.hostQ 0).flight, d.futures ≠ []) := by decide +kernel

theorem wit_Management : (let s := hostState {} .run
     (s.port true).up = true ∧ s.sem 0 ≠ some true) ∧
    (let s := { hostState {} .run with sems := [(0, some true)] }
     (s.port true).up = true ∧ s.sem 0 = some true) ∧ isControl true (.reset true) = true ∧ isControl true (.fwupd true false) = true ∧
    isControl true (.powerLimitWrite true 9#16) = true ∧ 5#48 ≠ 0#48 := by decide +kernel

theorem wit_Functions : (let s := { State.reset with mgmt := { State.reset.mgmt with ready := true } }
     s.mgmt.ready = true ∧ (s.port false).up = false) ∧
    (let s := hostState {} .run
     s.fnUp (.pf false) = true ∧ (s.vfs.filter fun (e : Nat × Vf) => e.2.enabled && e.2.portB == false).length < 255 ∧ (s.vf 1).enabled = false ∧
       (s.vf 1).retired = false ∧ ∀ j, j < 1 → (s.vf j).enabled = true ∨ (s.vf j).retired = true) ∧
    (∀ r : Bool, let s := hostState { record := hqRec, resetting := r } .run
     (s.hostQ 0).valid = true ∧ s.tagged 0 = [] ∧ s.taggedQueued 0 = [] ∧ (s.hostQ 0).resetting = r ∧ s.resetDone 0 = true) ∧
    (∀ t : Bool, let s := { hostState {} .run with vfs := [(0, { enabled := true, teardown := t })] }
     (s.vf 0).enabled = true ∧ (s.vf 0).teardown = t ∧ s.queuesOf 0 = []) := by decide +kernel

/-- No function has a queue. -/
theorem wit_Functions_links : ∀ v, (hostState {} .run).queuesOf v = [] := by
  intro v
  have h : ∀ k, ((hostState {} .run).hostQ k).valid = false := by
    intro k
    show (if k = hqKey (.vf 0#9) 0#4 then ({} : HostQ) else {}).record.getLsbD 127 = false
    split <;> decide
  simp [State.queuesOf, h]

theorem wit_InterfacesAndAttestation : (∀ v ∈ [Tdisp.unlocked, .locked, .run, .error], let s := { hostState {} v with portA := { up := true, spdm := { session := true } } }
     s.fnUp (.vf 0#9) = true ∧ (s.port (s.vf 0).portB).spdm.session = true ∧ s.queuesOf 0 = [] ∧ (s.vf 0).state = v) ∧
    (let s := hostState {} .run
     (s.vf 0).enabled = true ∧ (s.vf 0).state = .run ∧ s.queuesOf 0 = [] ∧ s.fnUp (.pf true) = true) ∧
    (let s := { hostState {} .run with portA := {} }
     (s.port (s.vf 0).portB).up = false) ∧
    (∀ n ∈ [0, 1, 2, 3], ({ hostState {} .run with portB := { up := true, spdm := { stage := n, handshake := true } } } : State).fnUp (.pf true) = true) := by decide +kernel

/-- The command, the task queue of its context and the futures as given. -/
def crowded (q : List TqEntry) (f : SMap Future) : State := { command [1, 0, 0, 0, 7] (model1 0x4000) with taskQ := [(1, q)], futures := f }

theorem crowded_queue (q : List TqEntry) (f : SMap Future) : mget [] (crowded q f).taskQ 1 = q  := by unfold crowded; rfl

theorem free_of {s : State} {f : SMap Future} (h : s.futures = f) : s.freeFutures 0 =
    8192 - (f.filter fun (e : Nat × Future) => decide (e.1 / 8192 = 0) && (e.2.state != .free || decide (4095 ≤ e.2.gen))).length := by
  subst h
  rfl

/-- Futures of die 0 without a generation left. -/
def noneLeft : SMap Future := (List.range' 0 8192).map fun k => (k, ({ gen := 4095 } : Future))

theorem noneLeft_all : (noneLeft.filter fun (e : Nat × Future) => decide (e.1 / 8192 = 0) && (e.2.state != .free || decide (4095 ≤ e.2.gen))).length = 8192 := by
  rw [List.filter_eq_self.mpr]
  · rw [noneLeft, List.length_map, List.length_range']
  · intro e he
    obtain ⟨k, hk, rfl⟩ := List.mem_map.mp he
    have h := List.mem_range'.mp hk
    simp only [Bool.and_eq_true, decide_eq_true_eq, Bool.or_eq_true]
    exact ⟨by omega, .inr (Nat.le_refl _)⟩

theorem described_futures (s : State) (va : Nat) : (described s va).1.futures = s.futures :=
  (State.launchAt_only _ _ (State.fetched_only _ _ _ (State.OnlyAccess.refl s))).futures

/-- A task queue that is full, and futures without a generation left, the launch not over its limit. -/
theorem wit_HostCommands_room : (described (crowded (List.replicate 4096 (tqe 0#32)) []) (2 ^ 40 + 0x4000)).1.overLimit 1 { tasks := [2 ^ 40] } = false ∧
    (described (crowded [] noneLeft) (2 ^ 40 + 0x4000)).1.overLimit 1 { tasks := [2 ^ 40] } = false ∧
    (described (crowded [] noneLeft) (2 ^ 40 + 0x4000)).2 = some { tasks := [2 ^ 40] } ∧
    (described (crowded (List.replicate 4096 (tqe 0#32)) []) (2 ^ 40 + 0x4000)).2 = some { tasks := [2 ^ 40] } ∧
    4096 < (mget [] (crowded (List.replicate 4096 (tqe 0#32)) []).taskQ 1).length + 1 ∧
    (mget [] (crowded [] noneLeft).taskQ 1).length + 1 ≤ 4096 ∧ (described (crowded [] noneLeft) (2 ^ 40 + 0x4000)).1.freeFutures 0 < 1 := by
  refine ⟨by decide +kernel, by decide +kernel, by decide +kernel, by decide +kernel, ?_, ?_, ?_⟩
  · rw [crowded_queue, List.length_replicate]
    decide
  · rw [crowded_queue]
    decide
  · rw [free_of (f := noneLeft) (described_futures _ _), noneLeft_all]
    decide

/-! ### Links, stacks and the fabric -/

theorem wit_InterfacesAndAttestation_failed : (let s := { hostState {} .run with hbm := (below 16).map fun k => (k, ({ out := true } : Stack)) }
    (s.vf 0).enabled = true ∧ (s.vf 0).state = .run ∧ s.queuesOf 0 = [] ∧ s.fabricFailed = true) := by decide +kernel

/-- The last unit of stack 15, and the first of stack 0, whose key is valid. -/
def hdr (stk : Nat) (u : Nat) : LinkHdr := ⟨0#2, BitVec.ofNat 4 stk, 0#10, 5#12, BitVec.ofNat 30 u⟩

/-- The state with a queue at PC 0 of stack 0, and its open rows. -/
def queueing (q : List PcReq) (rows : SMap Nat) : State :=
  { base {} with hbm := [(0, { report := some codeReport, queues := [(0, q)], rows := rows })] }

/-- A read of the first unit of stack 0, where its queue is empty and where it is full, and of the last unit of stack 15, which is not served; the clock
with its row open and closed; and answers on a link. -/
theorem wit_BaseDieRequests : pcOf (2 ^ 40 + 0 * 2 ^ 36 + 0 * 64) = 0 ∧
    (∀ n ∈ [0, 16], let v := (queueing (List.replicate n ⟨hdr 0 0, none, 0⟩) []).drainSeasons 0
      v.unserved (.die 0) 0 (2 ^ 40 + 0 * 2 ^ 36 + 0 * 64) = none ∧ ((v.stack 0).queue 0).length = n) ∧
    ((base {}).drainSeasons 15).unserved (.die 7) 0 (2 ^ 40 + 15 * 2 ^ 36 + (2 ^ 30 - 1) * 64) ≠ none ∧
    (∀ b : Bool, let r : PcReq := ⟨hdr 0 0, none, 0⟩
      let s := queueing [r] (if b then [(bankNo r.key0, rowNo r.key0)] else [])
      (s.stack 0).queue 0 = [r] ∧ r.h.stk.toNat = 0 ∧ pcOf r.key0 = 0 ∧ s.unserved r.origin r.h.key.toNat r.key0 = none ∧
        s.regionSeason (regionIdx r.key0) = 0 ∧ mfind (s.stack 0).rows (bankNo r.key0) = if b then some (rowNo r.key0) else none) ∧
    (∀ m ∈ [LinkMsg.data (hdr 0 3) 7#512, .wack (hdr 15 (2 ^ 30 - 1)), .poison (hdr 15 0)],
      ({ State.reset with hbm := [(15, { fromStack := [m] })] } : State).stack (15#4).toNat = { fromStack := [m] }) := by decide +kernel

/-- Stack 4 with a season map update on its way, a history of two commands of PC 63, and channel 31 trained at 40 degrees. -/
def stack4 (event : Nat) : Stack :=
  { toStack := [.season event 32767 1], trainTemp := [(31, 40)]
    hist := [(63, [⟨.activate, hbmKey 4 (63 * 256), 5, none, []⟩, ⟨.read, hbmKey 4 (63 * 256), 6, none, []⟩])] }

/-- A byte of the tile's first granule and one of region 0 of stack 0, both used; a row of the latter with two passes that corrected. -/
def scrubState (poison upset : Bool) : State :=
  let s := base {}
  let k := hbmKey 0 0
  { s with
    used := s.used ++ [(unitOf 0x100, true), (unitOf k, true)], tiles := [(0, { owner := [(0, ownerEntry 1 1)], season := [(0, 0#2)] })]
    hbm := [(0, { report := some codeReport, scrubHits := [(rowNo k, (2, 7))] })]
    poison := if poison then [(poisonUnit 0x100, true), (poisonUnit k, true)] else []
    upsets := if upset then [(poisonUnit 0x100, 2), (poisonUnit k, 2)] else [] }

theorem wit_StackLinksAndService : (∀ e ∈ [0, 1, 2, 3, 4], let s : State := { State.reset with hbm := [(4, stack4 e)] }
     (s.stack 4).toStack = [.season e 32767 1] ∧ 32767 < 2 ^ 15 ∧ e < 5 ∧ (s.stack 4).fromStack = [] ∧ natBit (s.stack 4).failedPcs 63 = false ∧
       (let h := mget [] (s.stack 4).hist 63
        1 < h.length ∧ h.length ≤ 32 ∧ (∀ c ∈ h, pcOf c.key = 63 ∧ c.key % 64 = 0)) ∧
       (∀ p ∈ [62, 63], (s.stack 4).queue p = []) ∧ mget 0 s.devEvents (4 / 2 * 4096 + 70) + 4 < 2 ^ 48 ∧
       s.wakeWaits 4 31 = false ∧ mfind (s.stack 4).trainTemp 31 = some 40 ∧ 40 + 8 ≤ (48#8).toNat ∧ (32#8).toNat + 8 ≤ 40) ∧
    (∀ p u : Bool, let s := scrubState p u
     ∀ k ∈ [0x100, hbmKey 0 0], s.scrubbed k = true ∧ s.isFresh k = false ∧ isHbm k = decide (k ≠ 0x100) ∧ s.poisoned k = p ∧
       s.upset k = (if u then 2 else 0)) ∧
    (let s := scrubState false false
     let k := hbmKey 0 0
     mget (0, 0) (s.stack 0).scrubHits (rowNo k) = (2, 7) ∧ 7 ≠ s.dcc.toNat / 2 ^ 45 + 1 ∧ mget 0 (s.stack 0).spareUsed (bankNo k) < 16) ∧
    (47#6).toNat < 48 ∧ (∀ i, i < 8 → (State.reset.slot (47 * 8 + i)).job.task = none) ∧
    (∀ j, j < 48 → (State.reset.tile (0 + j)).spareUsed ≠ some true) := by decide +kernel

/-- A request of this package for itself by window entry 9: 8 bytes at offset 64, queue handle given where it matters. -/
def near (dst : Nat) (mask : Word) : SlotHdr := ⟨false, false, 2#12, BitVec.ofNat 12 dst, 1#3, 4#16, 0#9, 1#12, 9#12, 64#40, 1#8, none, 6#16, mask⟩

/-- The bytes of buffer 1 are open at MMU entry 9 to every node of the fabric; stream of writes and of reads at 4; queue 3 as given. -/
def farState (mmu q : Nat) : State :=
  { withTab (base {}) [(tkey 0x05 9, mmu), (tkey 0x16 3, q), (tkey 0x03 0, 2 ^ 63 + 2 ^ 50 + 2 ^ 32 + 1 * 2 ^ 24)] with
    stations := [(0, { relSeq := [(streamOf 1 0 2, 4#16), (streamOf 1 1 2, 4#16)], shares := [(1, 1)] })] }

def mmu9 : Nat := 2 ^ 127 + 2 ^ 126 + 2 ^ 125 + 1 * 2 ^ 116 + 0xFFF * 2 ^ 104 + 1 * 2 ^ 84 + 4096 * 2 ^ 41

def slot3 (op : SlotOp) (h : W32) : RingSlot := { op := op, h := near 0 0xFF#64, data := 0x1122#512, handle := h }

/-- Slots on their way, back, and here without room. -/
theorem wit_InboundRequests_arrive : (let s := farState mmu9 queue1
     let h := near 5 1#64
     h.ret = false ∧ h.dstNode.toNat ≠ s.ownNode ∧ (near 0 1#64).dstNode.toNat = s.ownNode) ∧
    (let s := farState mmu9 queue1
     ({ near 5 1#64 with ret := true }).srcNode.toNat ≠ s.ownNode ∧
       ({ near 5 1#64 with ret := true, srcNode := 0#12 } : SlotHdr).srcNode.toNat = s.ownNode ∧ s.tagReset none = false ∧ s.tagReset (some 3#13) = false) ∧
    (∀ p ∈ [false, true], let s : State := { State.reset with stations := [(0, { held := [(7, 512)] })] }
     ({ near 0 1#64 with pass2 := p }).dstNode.toNat = s.ownNode ∧ (s.station 0).accepts 1 = false) := by decide +kernel

theorem wit_InboundRequests_reaches : ∀ op ∈ [SlotOp.write, .read, .enqr], ∀ m ∈ [0, mmu9, mmu9 - 2 ^ 126 - 2 ^ 125], Reaches (farState m queue1) 0 (slot3 op 3#32) := by
  unfold Reaches
  decide +kernel

/-- Refused: an entry that is not valid, and one without the right. -/
theorem wit_InboundRequests_refused : ∀ m ∈ [0, mmu9 - 2 ^ 126 - 2 ^ 125], let s := farState m queue1
    (∃ f, s.mmuBytes (near 0 0xFF#64) 125 rW = .error f) ∧ (∃ f, s.mmuBytes (near 0 0xFF#64) 126 rR = .error f) ∧
      ∃ f, s.mmuCheck (near 0 0xFF#64) [(near 0 0xFF#64).offset.toNat] 125 = .error f := by
  have e : ∀ {α : Type} {x : Except Flt α}, x.isOk = false → ∃ f, x = .error f := by
    intro α x h
    cases x with
    | ok q => cases h
    | error f => exact ⟨f, rfl⟩
  intro m hm
  have h : ∀ m ∈ [0, mmu9 - 2 ^ 126 - 2 ^ 125], ((farState m queue1).mmuBytes (near 0 0xFF#64) 125 rW).isOk = false ∧
      ((farState m queue1).mmuBytes (near 0 0xFF#64) 126 rR).isOk = false ∧
      ((farState m queue1).mmuCheck (near 0 0xFF#64) [(near 0 0xFF#64).offset.toNat] 125).isOk = false := by decide +kernel
  exact ⟨e (h m hm).1, e (h m hm).2.1, e (h m hm).2.2⟩

/-- Admitted as a write and as a read. -/
theorem wit_InboundRequests_performed : (∃ q, (farState mmu9 queue1).mmuBytes (near 0 0xFF#64) 125 rW = .ok q) ∧
    ∃ q, (farState mmu9 queue1).mmuBytes (near 0 0xFF#64) 126 rR = .ok q := ⟨ok_of (by decide +kernel), ok_of (by decide +kernel)⟩

/-- ENQR: a stale handle, a queue of another tenant, a full one, and one with room. -/
theorem wit_InboundRequests_enqr :
    ((farState mmu9 queue1).mmuCheck (near 0 0xFF#64) [(near 0 0xFF#64).offset.toNat] 125).isOk = true ∧
    (farState mmu9 queue1).queueStale 3 = true ∧
    (∀ q ∈ [queue1, queue1 + 4 * 2 ^ 32], (farState mmu9 q).queueStale handle1 = false ∧ qTenant ((farState mmu9 q).entry 0x16 (queueKey handle1)) = natBits mmu9 123 116) ∧
    (let q := queue1 + 4 * 2 ^ 32
     qOcc ((farState mmu9 q).entry 0x16 (queueKey handle1)) = qCap ((farState mmu9 q).entry 0x16 (queueKey handle1))) ∧
    qOcc ((farState mmu9 queue1).entry 0x16 (queueKey handle1)) < qCap ((farState mmu9 queue1).entry 0x16 (queueKey handle1)) ∧
    (let q := queue1 + 2 ^ 113
     (farState mmu9 q).queueStale handle1 = false ∧ qTenant ((farState mmu9 q).entry 0x16 (queueKey handle1)) ≠ natBits mmu9 123 116) := by decide +kernel

/-- A request in flight of slot 0, for a load of sequence number 2, for a store or an ENQR. -/
def inFlight (k : ReqFor) (op : SlotOp) (live : Bool) : FabReq :=
  ⟨6, 0, k, 9, 0, 0, { op := op, h := near 5 0xFF#64, data := 0#512 }, true, false, live, 0#512, 0#2, 0, 1, true⟩

def answerHdr : SlotHdr := { near 0 0#64 with srcNode := 5#12 }

def origin (x : Station) : State := { base {} with stations := [(0, x)] }

theorem wit_InboundResponses : (near 5 0#64).dstNode.toNat ≠ State.reset.ownNode ∧
    (∀ e ∈ [(SlotOp.write, SlotOp.wack), (.write, .fault 0x40), (.read, .data), (.enqr, .outcome .full)],
      let s := origin { reqs := [inFlight (.store 2#32) e.1 false] }
      answerHdr.dstNode.toNat = s.ownNode ∧ (s.station 0).reqs = [inFlight (.store 2#32) e.1 false] ∧ (6 : Nat) = answerHdr.reqId.toNat ∧
        answersTo e.1 e.2 = true ∧ (s.station 0).tokens = []) ∧
    (let s := origin { reqs := [inFlight (.load 2#32) .read true] }
     answerHdr.dstNode.toNat = s.ownNode ∧ (s.station 0).reqs = [inFlight (.load 2#32) .read true] ∧ (s.station 0).tokens = []) ∧
    (let s := origin { reqs := [inFlight (.enqr 3#4) .enqr true] }
     answerHdr.dstNode.toNat = s.ownNode ∧ (s.station 0).reqs = [inFlight (.enqr 3#4) .enqr true] ∧ (s.slot 0).y.csaBase.toNat = 0) ∧
    (let s := origin { owed := [(6, 0)] }
     answerHdr.dstNode.toNat = s.ownNode ∧ (s.station 0).owed = [(answerHdr.reqId.toNat, 0)] ∧ (s.station 0).reqs = []) ∧
    ({ answerHdr with srcNode := 0#12 }).srcNode.toNat = State.reset.ownNode ∧ answerHdr.srcNode.toNat ≠ (origin {}).ownNode ∧
    ((origin { returned := [slot3 .read 0#32] }).station 0).returned = [slot3 .read 0#32] ∧ (8#4).toNat < 9 ∧ (0#4).toNat < 9 := by decide +kernel

/-! ### The whole machine -/

/-- Slot 0 about to dispatch the words at the start of buffer 1. -/
def codeState (ws : List Nat) : State :=
  let s := base { job := { part := .kernel, trip := 1 }, pc := va1 }
  { ((below ws.length).zip ws).foldl (fun s p => (below 4).foldl (fun s j => s.putByte (hbmKey 0 (4 * p.1 + j)) (BitVec.ofNat 8 (p.2 / 256 ^ j))) s) s with
    agenda := [.dispatch 0] }

/-- The state in which the first move of the agenda is made. -/
def moving (s : State) (n : Nat) : State := { ({ s with agenda := s.agenda.drop 1 } : State).settle with cur := n }

/-- What a word fetch leaves, and what its check answers. -/
def afterFetch (s : State) (a : Word) : State := (s.readVa (.die (s.cur / 384)) (s.issuer s.cur) a.toNat 4 rX).1.fillCore s.cur a.toNat

theorem fetches_of {s : State} {a : Word} {w : W32}
    (h : ((s.readVa (.die (s.cur / 384)) (s.issuer s.cur) a.toNat 4 rX).2.toOption.map fun bs => BitVec.ofNat 32 (leNat bs)) = some w) :
    Fetches s a w (afterFetch s a) := by
  unfold Fetches afterFetch
  generalize hx : s.readVa (.die (s.cur / 384)) (s.issuer s.cur) a.toNat 4 rX = x at h
  obtain ⟨t, r⟩ := x
  cases r with
  | ok bs => exact ⟨t, bs, rfl, (Option.some.inj h).symm, rfl⟩
  | error f => cases h

theorem refuses_of {s : State} {a : Word} (h : (s.readVa (.die (s.cur / 384)) (s.issuer s.cur) a.toNat 4 rX).2.isOk = false) :
    ∃ t f, s.readVa (.die (s.cur / 384)) (s.issuer s.cur) a.toNat 4 rX = (t, .error f) := by
  generalize s.readVa (.die (s.cur / 384)) (s.issuer s.cur) a.toNat 4 rX = x at h ⊢
  obtain ⟨t, r⟩ := x
  cases r with
  | ok bs => cases h
  | error f => exact ⟨t, f, rfl⟩

/-- The next of an outcome. -/
theorem next_of {o : Res} (h : (match o with | .next _ => true | _ => false) = true) : ∃ t, o = .next t := by
  cases o with
  | next t => exact ⟨t, rfl⟩
  | fault f => cases h
  | refused r => cases h

theorem wit_StepKeepsMemoryCanonical : (codeState [0x00461100]).Inv ∧ ∃ t, step (codeState [0x00461100]) = .next t := by
  refine ⟨by unfold State.Inv; decide +kernel, next_of (by decide +kernel)⟩

/-- An instruction of one word, and a reserved word. -/
theorem wit_StepExecutesDecoded_one : (codeState [0x00461100]).agenda = [.dispatch 0] ∧ (moving (codeState [0x00461100]) 0).me.dispatches = true ∧
    (∃ v, Fetches (moving (codeState [0x00461100]) 0) va1 0x00461100#32 v) ∧ (moving (codeState [0x00461100]) 0).me.pc = va1 ∧
    wordsOf 0x00461100#32 = .ok 1 ∧ decodeWords 0x00461100#32 0#32 0#32 = .ok (.add 3#5 1#5 2#5) ∧
    (∃ v, Fetches (moving (codeState [0x00400013]) 0) va1 0x00400013#32 v) ∧ (moving (codeState [0x00400013]) 0).me.dispatches = true ∧
    wordsOf 0x00400013#32 = .ok 1 ∧ ∃ e, decodeWords 0x00400013#32 0#32 0#32 = .error e :=
  ⟨rfl, by decide +kernel, ⟨_, fetches_of (by decide +kernel)⟩, by decide +kernel, rfl, rfl, ⟨_, fetches_of (by decide +kernel)⟩, by decide +kernel, rfl, _, rfl⟩

/-- Instructions of two and of three words. -/
theorem wit_StepExecutesDecoded_more : (moving (codeState [0xE914B000, 8]) 0).me.dispatches = true ∧
    (∃ v v', Fetches (moving (codeState [0xE914B000, 8]) 0) va1 0xE914B000#32 v ∧ wordsOf 0xE914B000#32 = .ok 2 ∧ Fetches v (va1 + 4#64) 8#32 v' ∧
      decodeWords 0xE914B000#32 8#32 0#32 = .ok (.stcLong .d 17#5 9#5 8#32)) ∧
    (moving (codeState [0xE2500000, 0x3F000000, 0x3E800000]) 0).me.dispatches = true ∧
    ∃ v v' v'', Fetches (moving (codeState [0xE2500000, 0x3F000000, 0x3E800000]) 0) va1 0xE2500000#32 v ∧ wordsOf 0xE2500000#32 = .ok 3 ∧
      Fetches v (va1 + 4#64) 0x3F000000#32 v' ∧ Fetches v' (va1 + 8#64) 0x3E800000#32 v'' ∧
      decodeWords 0xE2500000#32 0x3F000000#32 0x3E800000#32 = .ok (.liw 5#5 0x3E8000003F000000#64) :=
  ⟨by decide +kernel, ⟨_, _, fetches_of (by decide +kernel), rfl, fetches_of (by decide +kernel), rfl⟩, by decide +kernel,
    ⟨_, _, _, fetches_of (by decide +kernel), rfl, fetches_of (by decide +kernel), fetches_of (by decide +kernel), rfl⟩⟩

/-- An error in the second sector of stack 0. -/
theorem wit_StepExecutesDecoded_upset : (let s : State := { State.reset with agenda := [.upset (2 ^ 35 + 1) 1] }
    s.agenda = [.upset (2 ^ 35 + 1) 1] ∧ ∃ t, step s = .next t) := ⟨rfl, next_of (by decide +kernel)⟩

/-- A fetch from a buffer that is not valid; an extension word beyond the end of the buffer. -/
theorem wit_StepExecutesDecoded_fault :
    (let s := { at0 { job := { part := .kernel, trip := 1 }, pc := va1 } with agenda := [.dispatch 0] }
     (moving s 0).me.dispatches = true ∧
       ∃ t f, (moving s 0).readVa (.die ((moving s 0).cur / 384)) ((moving s 0).issuer (moving s 0).cur) (moving s 0).me.pc.toNat 4 rX = (t, .error f)) ∧
    (let s := base { job := { part := .kernel, trip := 1 }, pc := va1 + 0x1FFFFC#64 }
     let s := { (below 4).foldl (fun s j => s.putByte (hbmKey 0 (0x1FFFFC + j)) (BitVec.ofNat 8 (0xE914B000 / 256 ^ j))) s with agenda := [.dispatch 0] }
     (moving s 0).me.dispatches = true ∧ ∃ v, Fetches (moving s 0) (va1 + 0x1FFFFC#64) 0xE914B000#32 v ∧
       ∃ t f, v.readVa (.die (v.cur / 384)) (v.issuer v.cur) (va1 + 0x1FFFFC#64 + 4#64).toNat 4 rX = (t, .error f)) :=
  ⟨⟨by decide +kernel, refuses_of (by decide +kernel)⟩, by decide +kernel, _, fetches_of (by decide +kernel), refuses_of (by decide +kernel)⟩

theorem turn_of {u : State} {arb limit : Nat} {slots : List Nat} {f : State → Res} (h : mfind (u.tile (u.cur / 8)).turns arb = none)
    (g : ∀ m ∈ slots, ({ u with cur := m } : State).moves f = true → u.cur ≤ m) : Turn u arb limit slots f := by
  unfold Turn
  rw [h]
  exact g

theorem turn_on {u : State} {arb limit c : Nat} {slots : List Nat} {f : State → Res} (h : mfind (u.tile (u.cur / 8)).turns arb = some (u.cur, c))
    (g : c < limit) : Turn u arb limit slots f := by
  unfold Turn
  rw [h]
  exact .inl ⟨rfl, g⟩

/-- It is slot 0's turn, no other slot of its control core having words; or its turn goes on. -/
theorem wit_StepExecutesDecoded_turn : Turn (moving (codeState [0x00461100]) 0) 0 2 [0, 1, 2, 3] State.takeWord ∧
    Turn (moving { codeState [0x00461100] with tiles := [(0, { turns := [(0, (0, 1))] })] } 0) 0 2 [0, 1, 2, 3] State.takeWord :=
  ⟨turn_of (by decide +kernel) (by decide +kernel), turn_on (c := 1) (by decide +kernel) (by decide)⟩

/-- A word of each engine that decodes. -/
def headWord : Engine → BitVec 80
  | .vx => 0x40000001F050102004A8#80
  | .mx => 0x01000000700000000000#80
  | .ld => 0x04000000700000000000#80
  | .st => 0x00800000702020000500#80
  | .cp => 0x01400000700801300000#80
  | .sy => 0#80

/-- Slot 9 with SYNC T3 at the head of its SY queue, or taken from there, and a word at the head of another; tile 1 with the holder of a quantum. -/
def headState (e : Engine) (hold : Option Quantum) (act : Bool) : State :=
  let en : Entry := { cmd := .eng (headWord e), seq := 1#32 }
  let sy : Entry := { cmd := .sy (.sync 3#5), seq := 1#32 }
  let x : Slot := { e := { sy := if act then { active := some sy } else { entries := [sy] } } }
  { State.reset with slots := [(9, x.setEng e { entries := [en] })], tiles := [(1, ({} : Tile).setHold e hold)] }

/-- Engines that are not drawn for, in slot 9's turn, and engines that are, held by slot 9; an entry of SY that goes on. -/
theorem wit_StepExecutesDecoded_heads : (let u := moving (headState .ld none false) 9
     u.me.e.sy.active = none ∧ u.me.e.sy.entries.map (·.cmd) = [.sy (.sync 3#5)] ∧ u.me.mayIssue .sy = true) ∧
    (let u := moving (headState .ld none true) 9
     u.me.e.sy.active.map (·.cmd) = some (.sy (.sync 3#5)) ∧ u.me.mayIssue .sy = true) ∧
    (∀ e ∈ [Engine.ld, .st], let u := moving (headState e none false) 9
     (u.me.eng e).active = none ∧ (u.me.eng e).entries.map (·.cmd) = [.eng (headWord e)] ∧ u.me.mayIssue e = true) ∧
    (∀ e ∈ [Engine.vx, .mx, .cp], let u := moving (headState e (some ⟨9, 0, true⟩) false) 9
     (u.me.eng e).active = none ∧ (u.me.eng e).entries.map (·.cmd) = [.eng (headWord e)] ∧ u.me.mayIssue e = true ∧ (u.tile 1).busy = none ∧
       (u.tile 1).holdOf e = some ⟨9, 0, true⟩) ∧
    ((({ moving (headState .mx none false) 9 with tiles := [(1, { stamped := true })] } : State).tile 1).stamped = true) ∧
    ∀ e ∈ [Engine.vx, .mx, .ld, .st, .cp], (decodeEngine (BitVec.ofNat 3 (classOf e)) (headWord e)).toOption.isSome = true := by
  decide +kernel

theorem wit_StepExecutesDecoded_turns : Turn (moving (headState .ld none false) 9) 4 1 [8, 9, 10, 11, 12, 13, 14, 15] (fun v => v.issueFirst .sy) ∧
    Turn (moving (headState .ld none false) 9) 2 1 [8, 9, 10, 11, 12, 13, 14, 15] (fun v => v.issueFirst .ld) ∧
    Turn (moving (headState .st none false) 9) 3 1 [8, 9, 10, 11, 12, 13, 14, 15] (fun v => v.issueFirst .st) :=
  ⟨turn_of (by decide +kernel) (by decide +kernel), turn_of (by decide +kernel) (by decide +kernel), turn_of (by decide +kernel) (by decide +kernel)⟩

theorem wit_EncodeDecode : decodeWords 0xE2500000#32 0x3F000000#32 0x3E800000#32 = .ok (.liw 5#5 0x3E8000003F000000#64) ∧
    decodeEngine 2#3 (headWord .mx) = .ok (.mret ⟨0#4, none, none, none, 0#4, 7#3⟩ 0#5) := ⟨rfl, rfl⟩

theorem wit_DecodeEncode : (Instr.liw 5#5 0x3E8000003F000000#64).wf = true ∧
    encode (.liw 5#5 0x3E8000003F000000#64) = some (.words [0xE2500000#32, 0x3F000000#32, 0x3E800000#32]) ∧
    (Instr.mret ⟨0#4, none, none, none, 0#4, 7#3⟩ 0#5).wf = true ∧
    encode (.mret ⟨0#4, none, none, none, 0#4, 7#3⟩ 0#5) = some (.engine 2#3 (headWord .mx)) := ⟨rfl, rfl, rfl, rfl⟩

end Sys2Proof.Tests
end

/-! SUPPORT. The laws of a step (01 R16, R26; 03 R66; 05 R127): turns, fetches, what an arbiter answers, and the end of a cycle. -/
namespace Sys2Proof.Machine

/-! ### Turns (01 R16, R26) -/

/-- The place of slot m in the cyclic order that begins after `last`. -/
def turnRank (last m : Nat) : Nat := if last < m then m else m + 3072

/-- In a list whose ranks rise, what stands before n is what ranks below it. -/
theorem mem_takeWhile_ne_iff {r : Nat → Nat} {n : Nat} {l : List Nat} (hl : l.Pairwise fun a b => r a < r b) (hn : n ∈ l) (m : Nat) :
    m ∈ l.takeWhile (· ≠ n) ↔ m ∈ l ∧ r m < r n := by
  induction l with
  | nil => simp at hn
  | cons a l ih =>
    obtain ⟨ha, hl⟩ := List.pairwise_cons.1 hl
    by_cases e : a = n
    · subst e
      have : ∀ b ∈ l, ¬ r b < r a := fun b hb => by have := ha b hb; omega
      simp only [ne_eq, not_true_eq_false, decide_false, Bool.false_eq_true, not_false_eq_true, List.takeWhile_cons_of_neg,
        List.not_mem_nil, List.mem_cons, false_iff, not_and]
      rintro (rfl | hm)
      · omega
      · exact this m hm
    · have hn' : n ∈ l := (List.mem_cons.1 hn).resolve_left (Ne.symm e)
      rw [List.takeWhile_cons_of_pos (by simpa using e), List.mem_cons, List.mem_cons, ih hl hn']
      constructor
      · rintro (rfl | ⟨hm, hr⟩)
        · exact ⟨.inl rfl, ha n hn'⟩
        · exact ⟨.inr hm, hr⟩
      · rintro ⟨rfl | hm, hr⟩
        · exact .inl rfl
        · exact .inr ⟨hm, hr⟩

/-- The cyclic order after k lists the slots by rising rank. -/
theorem pairwise_turnRank {slots : List Nat} (k : Nat) (hs : slots.Pairwise (· < ·)) (hb : ∀ m ∈ slots, m < 3072) :
    ((slots.filter fun m => decide (k < m)) ++ slots.filter fun m => decide (m ≤ k)).Pairwise fun a b => turnRank k a < turnRank k b := by
  rw [List.pairwise_append]
  refine ⟨?_, ?_, fun a ha b hb' => ?_⟩
  · refine (hs.filter _).imp_of_mem fun {a b} ha hb' h => ?_
    simp only [List.mem_filter, decide_eq_true_eq] at ha hb'
    simp only [turnRank, if_pos ha.2, if_pos hb'.2]
    exact h
  · refine (hs.filter _).imp_of_mem fun {a b} ha hb' h => ?_
    simp only [List.mem_filter, decide_eq_true_eq] at ha hb'
    simp only [turnRank, if_neg (Nat.not_lt.2 ha.2), if_neg (Nat.not_lt.2 hb'.2)]
    omega
  · simp only [List.mem_filter, decide_eq_true_eq] at ha hb'
    have := hb a ha.1
    simp only [turnRank, if_pos ha.2, if_neg (Nat.not_lt.2 hb'.2)]
    omega

/-- Slots that stand ahead of n after k are those of lower rank. -/
theorem mem_aheadOf_some {slots : List Nat} {n : Nat} (k m : Nat) (hs : slots.Pairwise (· < ·)) (hb : ∀ m ∈ slots, m < 3072)
    (hn : n ∈ slots) : m ∈ aheadOf slots (some k) n ↔ m ∈ slots ∧ turnRank k m < turnRank k n := by
  have mem : ∀ j, j ∈ (slots.filter fun m => decide (k < m)) ++ (slots.filter fun m => decide (m ≤ k)) ↔ j ∈ slots := by
    intro j
    simp only [List.mem_append, List.mem_filter, decide_eq_true_eq, ← and_or_left]
    exact and_iff_left (Nat.lt_or_ge k j)
  unfold aheadOf
  rw [mem_takeWhile_ne_iff (pairwise_turnRank k hs hb) ((mem n).2 hn), mem]

/-- Slots that stand ahead of n before any was served are the lower ones. -/
theorem mem_aheadOf_none {slots : List Nat} {n : Nat} (m : Nat) (hs : slots.Pairwise (· < ·)) (hn : n ∈ slots) :
    m ∈ aheadOf slots none n ↔ m ∈ slots ∧ m < n :=
  mem_takeWhile_ne_iff (r := id) hs hn m

/-- The model's arbiter serves the moving slot exactly when it is that slot's turn. -/
theorem turnOf_iff_turn {s : State} {arb limit : Nat} {slots : List Nat} {f : State → Res} (hs : slots.Pairwise (· < ·))
    (hb : ∀ m ∈ slots, m < 3072) (hn : s.cur ∈ slots) :
    (s.tile (tileOf s.cur)).turnOf arb limit slots s.cur (fun m => ({ s with cur := m } : State).moves f) = true ↔
      Turn s arb limit slots f := by
  have first : ∀ (r : Nat → Nat) (l : List Nat), (∀ m, m ∈ l ↔ m ∈ slots ∧ r m < r s.cur) →
      ((l.all fun m => !({ s with cur := m } : State).moves f) = true ↔
        ∀ m ∈ slots, ({ s with cur := m } : State).moves f = true → r s.cur ≤ r m) := by
    intro r l hl
    simp only [List.all_eq_true, hl, Bool.not_eq_true', and_imp]
    refine forall₂_congr fun m _ => ?_
    rw [← Nat.not_lt]
    cases ({ s with cur := m } : State).moves f <;> simp
  unfold Tile.turnOf Turn
  change _ ↔ match mfind (s.tile (tileOf s.cur)).turns arb with
    | some (k, c) => _
    | none => _
  cases mfind (s.tile (tileOf s.cur)).turns arb with
  | some p =>
    obtain ⟨k, c⟩ := p
    simp only [Bool.or_eq_true, Bool.and_eq_true, decide_eq_true_eq]
    exact or_congr_right (first (turnRank k) _ fun m => mem_aheadOf_some k m hs hb hn)
  | none => exact first id _ fun m => mem_aheadOf_none m hs hn

/-- The slots of a control core and of a tile stand in ascending order. -/
theorem pairwise_offsets (b n : Nat) : ((List.range n).map fun j => b + j).Pairwise (· < ·) := by
  rw [List.pairwise_map]
  exact List.pairwise_lt_range.imp fun {i j} (h : i < j) => Nat.add_lt_add_left h b

theorem mem_offsets {b n m : Nat} : m ∈ (List.range n).map (fun j => b + j) ↔ b ≤ m ∧ m < b + n := by
  simp only [List.mem_map, List.mem_range]
  constructor
  · rintro ⟨j, hj, rfl⟩
    omega
  · rintro ⟨h1, h2⟩
    exact ⟨m - b, by omega, by omega⟩

section Turns
variable {s : State} {arb limit b n : Nat} {f : State → Res}

/-- In its turn a slot's move is made and counted. -/
theorem inTurn_of_turn (hn : b ≤ s.cur ∧ s.cur < b + n) (hb : b + n ≤ 3072)
    (h : Turn s arb limit ((List.range n).map fun j => b + j) f) :
    s.inTurn arb limit ((List.range n).map fun j => b + j) f = served s arb limit (f s) := by
  have hlt : ∀ m ∈ (List.range n).map (fun j => b + j), m < 3072 := fun m hm => by have := mem_offsets.1 hm; omega
  unfold State.inTurn
  rw [if_pos ((turnOf_iff_turn (pairwise_offsets b n) hlt (mem_offsets.2 hn)).2 h)]
  cases f s <;> rfl

/-- Out of its turn a slot makes no move. -/
theorem inTurn_of_not_turn (hn : b ≤ s.cur ∧ s.cur < b + n) (hb : b + n ≤ 3072)
    (h : ¬ Turn s arb limit ((List.range n).map fun j => b + j) f) :
    s.inTurn arb limit ((List.range n).map fun j => b + j) f = .next s := by
  have hlt : ∀ m ∈ (List.range n).map (fun j => b + j), m < 3072 := fun m hm => by have := mem_offsets.1 hm; omega
  unfold State.inTurn
  rw [if_neg (mt (turnOf_iff_turn (pairwise_offsets b n) hlt (mem_offsets.2 hn)).1 h)]

end Turns

/-- A move that changes nothing is not counted. -/
theorem served_next_self (s : State) (arb limit : Nat) : served s arb limit (.next s) = .next s := if_pos rfl

/-! ### Fetches (03 R66, R72, R73; 05 R127) -/

theorem fetchWord_of_fetches {s u : State} {a : Word} {w : W32} (h : Fetches s a w u) : s.fetchWord a = (u, .ok w) := by
  obtain ⟨t, bs, hr, rfl, rfl⟩ := h
  have hc : t.cur = s.cur := by
    have := (State.readVa_only (.die (s.cur / 384)) (s.issuer s.cur) a.toNat 4 rX (State.OnlyAccess.refl s)).cur
    rwa [hr] at this
  have hr' : s.readVa s.origin (s.issuer s.cur) a.toNat 4 rX = (t, .ok bs) := hr
  unfold State.fetchWord
  rw [hr']
  simp only [hc]

theorem fetchWord_of_refused {s t : State} {a : Word} {f : Flt}
    (h : s.readVa (.die (s.cur / 384)) (s.issuer s.cur) a.toNat 4 rX = (t, .error f)) : s.fetchWord a = (t, .error f) := by
  have h' : s.readVa s.origin (s.issuer s.cur) a.toNat 4 rX = (t, .error f) := h
  unfold State.fetchWord
  rw [h']

/-- A fetch leaves the moving slot. -/
theorem cur_of_fetches {s u : State} {a : Word} {w : W32} (h : Fetches s a w u) : u.cur = s.cur := by
  obtain ⟨t, bs, hr, -, rfl⟩ := h
  have hc := (State.readVa_only (.die (s.cur / 384)) (s.issuer s.cur) a.toNat 4 rX (State.OnlyAccess.refl s)).cur
  rw [hr] at hc
  have fill : ∀ (x : State) (id cap tag : Nat), (x.cacheFill id cap tag).cur = x.cur := by
    intro x id cap tag
    unfold State.cacheFill
    dsimp only
    split <;> rfl
  unfold State.fillCore
  rw [fill, fill]
  exact hc

section Fetch
variable {s u v x : State} {w y z : W32} {f : Flt}

/-- The first word is not readable. -/
theorem fetchInstr_fault (h : s.fetchWord s.me.pc = (u, .error f)) :
    s.fetchInstr = (.fault (BitVec.ofNat 16 f.code) s.me.pc, u) := by
  simp only [State.fetchInstr, h]

/-- The first word begins no instruction. -/
theorem fetchInstr_reserved {e : DecErr} (h : s.fetchWord s.me.pc = (u, .ok w)) (hw : wordsOf w = .error e) :
    s.fetchInstr = (.reserved w, u) := by
  simp only [State.fetchInstr, h, hw]

/-- An instruction of one word. -/
theorem fetchInstr_one (h : s.fetchWord s.me.pc = (u, .ok w)) (hw : wordsOf w = .ok 1) :
    s.fetchInstr = (wholeInstr w 0#32 0#32, u) := by
  simp [State.fetchInstr, h, hw]

/-- The second word is not readable. -/
theorem fetchInstr_second_fault (h : s.fetchWord s.me.pc = (u, .ok w)) (hw : wordsOf w = .ok 2 ∨ wordsOf w = .ok 3)
    (h2 : u.fetchWord (s.me.pc + 4#64) = (v, .error f)) :
    s.fetchInstr = (.fault (BitVec.ofNat 16 f.code) (s.me.pc + 4#64), v) := by
  rcases hw with hw | hw <;> simp [State.fetchInstr, h, hw, h2]

/-- An instruction of two words. -/
theorem fetchInstr_two (h : s.fetchWord s.me.pc = (u, .ok w)) (hw : wordsOf w = .ok 2)
    (h2 : u.fetchWord (s.me.pc + 4#64) = (v, .ok y)) : s.fetchInstr = (wholeInstr w y 0#32, v) := by
  simp [State.fetchInstr, h, hw, h2]

/-- The third word is not readable. -/
theorem fetchInstr_third_fault (h : s.fetchWord s.me.pc = (u, .ok w)) (hw : wordsOf w = .ok 3)
    (h2 : u.fetchWord (s.me.pc + 4#64) = (v, .ok y)) (h3 : v.fetchWord (s.me.pc + 8#64) = (x, .error f)) :
    s.fetchInstr = (.fault (BitVec.ofNat 16 f.code) (s.me.pc + 8#64), x) := by
  simp [State.fetchInstr, h, hw, h2, h3]

/-- An instruction of three words. -/
theorem fetchInstr_three (h : s.fetchWord s.me.pc = (u, .ok w)) (hw : wordsOf w = .ok 3)
    (h2 : u.fetchWord (s.me.pc + 4#64) = (v, .ok y)) (h3 : v.fetchWord (s.me.pc + 8#64) = (x, .ok z)) :
    s.fetchInstr = (wholeInstr w y z, x) := by
  simp [State.fetchInstr, h, hw, h2, h3]

end Fetch

theorem runFetched_wholeInstr_ok {w y z : W32} {i : Instr} (s : State) (h : decodeWords w y z = .ok i) :
    runFetched (wholeInstr w y z) s = exec i s := by
  simp only [wholeInstr, h, runFetched]

theorem runFetched_wholeInstr_error {w y z : W32} {e : DecErr} (s : State) (h : decodeWords w y z = .error e) :
    runFetched (wholeInstr w y z) s = exec (.reservedEncoding w) s := by
  simp only [wholeInstr, h, runFetched]
  rfl

/-- What the dispatcher takes is what the fetch gave, carried out after the fetches. -/
theorem takeWord_of_fetchInstr {s v : State} {g : Fetched} (hd : s.me.dispatches = true) (h : s.fetchInstr = (g, v)) :
    s.takeWord = taken s v (runFetched g v) := by
  unfold State.takeWord
  rw [if_pos hd, h]

theorem takeWord_of_not_dispatches {s : State} (h : s.me.dispatches = false) : s.takeWord = .next s := by
  unfold State.takeWord
  rw [h]
  rfl

/-! ### Issue (01 R26, R30, R32, R35) -/

/-- A slot that the arbiter grants the engine executes the instruction of its head. -/
theorem issueFirst_eng {s : State} {e : Engine} {en : Entry} {l : List Entry} {w : BitVec 80} {i : Instr}
    (ha : (s.me.eng e).active = none) (hl : (s.me.eng e).entries = en :: l) (hc : en.cmd = .eng w) (hm : s.me.mayIssue e = true)
    (hd : decodeEngine (BitVec.ofNat 3 (classOf e)) w = .ok i) (hg : s.askEngine e = .yes) :
    s.issueFirst e = exec i { s with phase := .issue en } := by
  simp only [State.issueFirst, ha, hl, hc, hm, hd, hg]

/-- SY takes the class 6 word at the head of its queue. -/
theorem issueFirst_sy {s : State} {en : Entry} {l : List Entry} {i : Instr} (ha : s.me.e.sy.active = none)
    (hl : s.me.e.sy.entries = en :: l) (hc : en.cmd = .sy i) (hm : s.me.mayIssue .sy = true) :
    s.issueFirst .sy = exec i { (s.upMe fun x => x.activate .sy en) with phase := .issue en } := by
  have ha' : (s.me.eng .sy).active = none := ha
  have hl' : (s.me.eng .sy).entries = en :: l := hl
  simp [State.issueFirst, ha', hl', hc, hm, State.runSy]

/-- LD and ST serve slots in turn, so that no draw decides. -/
theorem askEngine_of_engTurn {s : State} {e : Engine} {arb : Nat} (h : engTurn e = some arb) : s.askEngine e = .yes := by
  simp [State.askEngine, h]

/-- MX in STAMPED mode is free for every slot; elsewhere an engine is granted to the slot that holds it, MX between commands. -/
theorem askEngine_of_holds {s : State} {e : Engine}
    (h : (e = .mx ∧ (s.tile (tileOf s.cur)).stamped = true) ∨
      ((e = .mx → (s.tile (tileOf s.cur)).busy = none) ∧ ∃ q, (s.tile (tileOf s.cur)).holdOf e = some q ∧ q.slot = s.cur)) :
    s.askEngine e = .yes := by
  rcases h with ⟨rfl, hs⟩ | ⟨hb, q, hq, hc⟩
  · simp [State.askEngine, hs]
  · have hb' : (e == .mx && (s.tile (tileOf s.cur)).busy.isSome) = false := by
      cases e <;> simp_all
    unfold State.askEngine
    dsimp only
    rw [hb', hq]
    simp [hc]

/-- An engine that serves slots by draws issues the head out of any turn. -/
theorem issueHead_of_drawn {s : State} {e : Engine} (h : e = .vx ∨ e = .mx ∨ e = .cp) : s.issueHead e = s.issueFirst e := by
  rcases h with rfl | rfl | rfl <;> simp [State.issueHead, engTurn]

/-- LD and ST take heads in the slots' turns. -/
theorem issueHead_of_turns {s : State} {e : Engine} {arb : Nat} (h : (e = .ld ∧ arb = 2) ∨ (e = .st ∧ arb = 3)) :
    s.issueHead e = s.inTurn arb 1 (slotsOf (tileOf s.cur)) fun u => u.issueFirst e := by
  rcases h with ⟨rfl, rfl⟩ | ⟨rfl, rfl⟩ <;> simp [State.issueHead, engTurn]

/-- SY goes on with the entry that it executes. -/
theorem issueHead_sy_active {s : State} {en : Entry} {i : Instr} (ha : s.me.e.sy.active = some en) (hc : en.cmd = .sy i)
    (hm : s.me.mayIssue .sy = true) : s.issueHead .sy = exec i { s with phase := .issue en } := by
  simp [State.issueHead, ha, hm, State.runSy, hc]

/-- SY takes a new entry in the slot's turn. -/
theorem issueHead_sy_idle {s : State} (ha : s.me.e.sy.active = none) :
    s.issueHead .sy = s.inTurn 4 1 (slotsOf (tileOf s.cur)) fun u => u.issueFirst .sy := by
  simp [State.issueHead, ha, engTurn]

/-! ### Steps and the end of a cycle -/

/-- A step makes the first move of the agenda after what falls due. -/
theorem step_of_agenda {s : State} {m : Move} {r : List Move} (h : s.agenda = m :: r) (hm : m.slot < 3072) :
    step s = ticked (({ s with agenda := r } : State).settle.move m) := by
  simp only [step, h, if_pos hm]

theorem dcc_quantumEnds (s : State) (tile : Nat) (e : Engine) : (s.quantumEnds tile e).dcc = s.dcc := by
  unfold State.quantumEnds
  split
  · rfl
  · dsimp only
    split <;> split <;> rfl

/-- The quanta that end with a cycle leave the cycle counter. -/
theorem dcc_quantaEnd (s : State) (tile : Nat) : (s.quantaEnd tile).dcc = s.dcc :=
  foldl_keeps (fun t : State => t.dcc = s.dcc) _ _ _ (fun t e h => (dcc_quantumEnds t tile e).trans h) rfl

/-- Each step raises the cycle counter by 1, up to its largest value (18 R386). -/
theorem dcc_tick (s : State) : s.tick.dcc = if s.dcc = BitVec.allOnes 64 then s.dcc else s.dcc + 1#64 := by
  have h : ((mkeys s.tiles).foldl State.quantaEnd s).dcc = s.dcc :=
    foldl_keeps (fun t : State => t.dcc = s.dcc) _ _ _ (fun t k h => (dcc_quantaEnd t k).trans h) rfl
  unfold State.tick
  dsimp only
  rw [h]

section Steps
variable {s u : State} {n : Nat} {r : List Move}

/-- A dispatch in the slot's turn takes its word, and is counted. -/
theorem step_dispatch (hn : n < 3072) (hu : u = { ({ s with agenda := r } : State).settle with cur := n })
    (h : s.agenda = .dispatch n :: r) (ht : Turn u (n % 8 / 4) 2 ((List.range 4).map fun j => n / 4 * 4 + j) State.takeWord) :
    step s = ticked (served u (n % 8 / 4) 2 u.takeWord) := by
  have hc : u.cur = n := by rw [hu]
  rw [step_of_agenda h hn]
  simp only [State.move, ← hu, State.dispatchWord, coreTurn, coreSlots, below]
  rw [inTurn_of_turn (by omega) (by omega) ht]

/-- A dispatch out of turn, or where the dispatcher takes nothing, is a cycle in which nothing moves. -/
theorem step_dispatch_idle (hn : n < 3072) (hu : u = { ({ s with agenda := r } : State).settle with cur := n })
    (h : s.agenda = .dispatch n :: r)
    (hi : ¬ Turn u (n % 8 / 4) 2 ((List.range 4).map fun j => n / 4 * 4 + j) State.takeWord ∨ u.me.dispatches = false) :
    step s = ticked (.next u) := by
  by_cases ht : Turn u (n % 8 / 4) 2 ((List.range 4).map fun j => n / 4 * 4 + j) State.takeWord
  · rw [step_dispatch hn hu h ht, takeWord_of_not_dispatches (hi.resolve_left (not_not_intro ht)), served_next_self]
  · have hc : u.cur = n := by rw [hu]
    rw [step_of_agenda h hn]
    simp only [State.move, ← hu, State.dispatchWord, coreTurn, coreSlots, below]
    rw [inTurn_of_not_turn (by omega) (by omega) ht]

/-- In its turn the dispatcher carries out what the fetch gave. -/
theorem step_dispatch_fetched {v : State} {g : Fetched} (hn : n < 3072)
    (hu : u = { ({ s with agenda := r } : State).settle with cur := n }) (h : s.agenda = .dispatch n :: r)
    (hd : u.me.dispatches = true) (ht : Turn u (n % 8 / 4) 2 ((List.range 4).map fun j => n / 4 * 4 + j) State.takeWord)
    (hf : u.fetchInstr = (g, v)) : step s = ticked (served u (n % 8 / 4) 2 (taken u v (runFetched g v))) := by
  rw [step_dispatch hn hu h ht, takeWord_of_fetchInstr hd hf]

/-- An issue is what the slot's engine takes. -/
theorem step_issue {e : Engine} (hn : n < 3072) (hu : u = { ({ s with agenda := r } : State).settle with cur := n })
    (h : s.agenda = .issue n e :: r) : step s = ticked (u.issueHead e) := by
  rw [step_of_agenda h hn]
  simp only [State.move, ← hu]

/-- An issue by LD, ST or SY in the slot's turn takes the head, and is counted. -/
theorem step_issue_turn {e : Engine} {arb : Nat} (hn : n < 3072)
    (hu : u = { ({ s with agenda := r } : State).settle with cur := n }) (h : s.agenda = .issue n e :: r)
    (hh : u.issueHead e = u.inTurn arb 1 (slotsOf (tileOf u.cur)) fun v => v.issueFirst e)
    (ht : Turn u arb 1 ((List.range 8).map fun j => n / 8 * 8 + j) fun v => v.issueFirst e) :
    step s = ticked (served u arb 1 (u.issueFirst e)) := by
  rw [step_issue hn hu h, hh]
  have hc : u.cur = n := by rw [hu]
  simp only [hc, slotsOf, tileOf, below]
  rw [inTurn_of_turn (by omega) (by omega) ht]

end Steps

/-- Settles O57: the move is made in the state after what falls due; the laws of turns, of fetches and of arbiters say what it is. -/
theorem stepExecutesDecoded : Obligations.StepExecutesDecoded := by
  intro s n r hn u pc core tile word fails refused
  have hu : u = { ({ s with agenda := r } : State).settle with cur := n } := rfl
  have hcur : u.cur = n := rfl
  clear_value u
  refine ⟨fun h hi => step_dispatch_idle hn hu h hi, fun h hd ht => ?dispatch, fun en i h ha hc hm => ?goesOn,
    fun en l i h ha hl hc hm ht => ?sync, fun e en l w i h ha hl hc hm hdec => ⟨fun arb hk ht => ?turns, fun hk hq => ?drawn⟩,
    fun i h => ?event, fun unit errors h => ?upset, dcc_tick⟩
  case dispatch =>
    have run : ∀ {g : Fetched} {v : State}, u.fetchInstr = (g, v) → word v (runFetched g v) :=
      fun hf => step_dispatch_fetched hn hu h hd ht hf
    refine ⟨fun ⟨t, f, hr⟩ => ⟨t, f, hr, run (fetchInstr_fault (fetchWord_of_refused (by rw [hcur]; exact hr)))⟩, fun w v hw => ?_⟩
    have h1 : u.fetchWord pc = (v, .ok w) := fetchWord_of_fetches hw
    have hv : v.cur = n := (cur_of_fetches hw).trans hcur
    refine ⟨fun e he => ?_, fun i hl hi => ?_, fun hl => ?_, fun x v' hx => ⟨fun i hl hi => ?_, fun hl => ?_, fun y v'' i hl hy hi => ?_⟩⟩
    · rcases he with he | ⟨hl, he⟩
      · exact run (fetchInstr_reserved h1 he)
      · exact runFetched_wholeInstr_error v he ▸ run (fetchInstr_one h1 hl)
    · exact runFetched_wholeInstr_ok v hi ▸ run (fetchInstr_one h1 hl)
    · rintro ⟨t, f, hr⟩
      exact ⟨t, f, hr, run (fetchInstr_second_fault h1 hl (fetchWord_of_refused (by rw [hv]; exact hr)))⟩
    · exact runFetched_wholeInstr_ok v' hi ▸ run (fetchInstr_two h1 hl (fetchWord_of_fetches hx))
    · have hv' : v'.cur = n := (cur_of_fetches hx).trans hv
      rintro ⟨t, f, hr⟩
      exact ⟨t, f, hr, run (fetchInstr_third_fault h1 hl (fetchWord_of_fetches hx) (fetchWord_of_refused (by rw [hv']; exact hr)))⟩
    · exact runFetched_wholeInstr_ok v'' hi ▸ run (fetchInstr_three h1 hl (fetchWord_of_fetches hx) (fetchWord_of_fetches hy))
  case goesOn => rw [step_issue hn hu h, issueHead_sy_active ha hc hm]
  case sync => rw [step_issue_turn hn hu h (issueHead_sy_idle ha) ht, issueFirst_sy ha hl hc hm]
  case turns =>
    have hg : u.askEngine e = .yes := by
      rcases hk with ⟨rfl, -⟩ | ⟨rfl, -⟩ <;> exact askEngine_of_engTurn rfl
    rw [step_issue_turn hn hu h (issueHead_of_turns hk) ht, issueFirst_eng ha hl hc hm hdec hg]
  case drawn => rw [step_issue hn hu h, issueHead_of_drawn hk, issueFirst_eng ha hl hc hm hdec 
    (askEngine_of_holds (by rw [hcur]; exact hq))]
  case event => rw [step_of_agenda h hn, State.move, ← hu]
  case upset => rw [step_of_agenda h (show 0 < 3072 by decide), State.move]

end Sys2Proof.Machine

/-! SUPPORT. The laws of a tile's arbiters (01 R29 to R35; 05 R135; 10 R244; 16 R358): stamps, draws, quanta and yields. -/
namespace Sys2Proof.Machine

/-! ### Stamps (01 R30, R31) -/

/-- Issuing as another slot leaves which slot moves, and the phase. -/
theorem asSlot_cur (s : State) (n : Nat) (en : Entry) (f : State → State) : (s.asSlot n en f).cur = s.cur := rfl
theorem asSlot_phase (s : State) (n : Nat) (en : Entry) (f : State → State) : (s.asSlot n en f).phase = s.phase := rfl

/-- The MX head of a slot that issues runs as that slot, or nothing happens. -/
theorem issueMx_cases (s : State) (n : Nat) : s.issueMx n = s ∨ ∃ en f, s.issueMx n = s.asSlot n en f := by
  unfold State.issueMx
  split
  · exact .inl rfl
  · split
    · exact .inl rfl
    · split
      · exact .inr ⟨_, _, rfl⟩
      · exact .inl rfl

theorem issueMx_cur (s : State) (n : Nat) : (s.issueMx n).cur = s.cur := by
  rcases issueMx_cases s n with h | ⟨en, f, h⟩ <;> rw [h]
  exact asSlot_cur s n en f

theorem issueMx_phase (s : State) (n : Nat) : (s.issueMx n).phase = s.phase := by
  rcases issueMx_cases s n with h | ⟨en, f, h⟩ <;> rw [h]
  exact asSlot_phase s n en f

/-- A slot with no MX command does nothing at a stamp. -/
theorem issueMx_of_empty {s : State} {n : Nat} (h : (s.slot n).e.mx.entries = []) : s.issueMx n = s := by
  simp only [State.issueMx, h]

/-- A slot whose engines may not issue does nothing at a stamp. -/
theorem issueMx_of_not_mayIssue {s : State} {n : Nat} (h : (s.slot n).mayIssue .mx = false) : s.issueMx n = s := by
  unfold State.issueMx
  split
  · rfl
  · rw [h, Bool.not_false, Bool.or_true, if_pos rfl]

/-- The head of a slot executes its instruction as that slot. -/
theorem issueMx_of_head {s u : State} {n : Nat} {en : Entry} {r : List Entry} {i : Instr} (hl : (s.slot n).e.mx.entries = en :: r)
    (he : en.isEng = true) (hm : (s.slot n).mayIssue .mx = true) (hd : decodeEngine 2#3 en.word = .ok i)
    (hx : mxMeaning i { s with cur := n, phase := .issue en } = .next u) :
    s.issueMx n = { u with cur := s.cur, phase := s.phase } := by
  simp only [State.issueMx, hl, he, hm, hd, State.asSlot, hx, Bool.not_true, Bool.or_self, Bool.false_eq_true, if_false]

/-- Slots with no MX command, one after the other, do nothing at a stamp. -/
theorem foldl_issueMx_of_empty {s : State} {l : List Nat} (h : ∀ m ∈ l, (s.slot m).e.mx.entries = []) : l.foldl State.issueMx s = s := by
  induction l with
  | nil => rfl
  | cons m l ih =>
    rw [List.foldl_cons, issueMx_of_empty (h m List.mem_cons_self), ih fun k hk => h k (List.mem_cons_of_mem m hk)]

/-- Where one slot of a list alone has an MX command, before it issues and after, its head runs once. -/
theorem foldl_issueMx_of_lone {s : State} {l : List Nat} {n : Nat} (hn : n ∈ l) (hl : l.Nodup)
    (hs : ∀ m ∈ l, m ≠ n → (s.slot m).e.mx.entries = []) (hu : ∀ m ∈ l, m ≠ n → ((s.issueMx n).slot m).e.mx.entries = []) :
    l.foldl State.issueMx s = s.issueMx n := by
  induction l with
  | nil => simp at hn
  | cons a l ih =>
    obtain ⟨ha, hl⟩ := List.nodup_cons.1 hl
    by_cases e : a = n
    · subst e
      exact foldl_issueMx_of_empty fun m hm => hu m (List.mem_cons_of_mem a hm) fun h => ha (h ▸ hm)
    · rw [List.foldl_cons, issueMx_of_empty (hs a List.mem_cons_self e)]
      exact ih ((List.mem_cons.1 hn).resolve_left (Ne.symm e)) hl (fun m hm => hs m (List.mem_cons_of_mem a hm))
        fun m hm => hu m (List.mem_cons_of_mem a hm)

/-- In STAMPED mode the heads of a tile run in ascending order of their slots. -/
theorem stampDueAt_stamped {s : State} {t : Nat} (h : (s.tile t).stamped = true) :
    s.stampDueAt t = ((List.range 8).map fun i => t * 8 + i).foldl State.issueMx s := by
  rw [State.stampDueAt, if_pos h, List.foldl_map]
  rfl

theorem stampDueAt_drawn {s : State} {t : Nat} (h : (s.tile t).stamped = false) : s.stampDueAt t = s := by
  rw [State.stampDueAt, h]
  rfl

theorem stampDueAt_cur_phase (s : State) (t : Nat) : (s.stampDueAt t).cur = s.cur ∧ (s.stampDueAt t).phase = s.phase := by
  unfold State.stampDueAt
  split
  · exact foldl_keeps (fun u : State => u.cur = s.cur ∧ u.phase = s.phase) _ _ _
      (fun u j h => ⟨(issueMx_cur u _).trans h.1, (issueMx_phase u _).trans h.2⟩) ⟨rfl, rfl⟩
  · exact ⟨rfl, rfl⟩

/-- The slots of a tile, each once. -/
theorem nodup_slots (t : Nat) : ((List.range 8).map fun i => t * 8 + i).Nodup :=
  List.Pairwise.map _ (fun _ _ hne h => hne (Nat.add_left_cancel h)) List.nodup_range

theorem mem_slots {t n : Nat} : n ∈ (List.range 8).map (fun i => t * 8 + i) ↔ n / 8 = t := by
  simp only [List.mem_map, List.mem_range]
  constructor
  · rintro ⟨i, hi, rfl⟩
    omega
  · rintro rfl
    exact ⟨n % 8, by omega, by omega⟩

/-! ### Draws (01 R32 to R34; 16 R358, R359) -/

theorem winnerGo_lt (l : List Nat) (run w i : Nat) : winnerGo l run w i = 0 ∨ winnerGo l run w i < i + l.length := by
  induction l generalizing run i with
  | nil => exact .inl rfl
  | cons t l ih =>
    simp only [winnerGo, List.length_cons]
    split
    · exact .inr (by omega)
    · exact (ih (run + t) (i + 1)).imp_right fun h => by omega

/-- The winner of a draw is one of the candidates. -/
theorem winner_lt {l : List Nat} (h : l ≠ []) (w : Nat) : winner l w < l.length := by
  have hl := List.length_pos_iff.2 h
  unfold winner
  dsimp only
  split
  · exact hl
  · rcases winnerGo_lt l 0 (w * sumOf l / 2 ^ 32) 0 with h | h <;> omega

/-- The engines that are drawn are MX, VX and CP. -/
theorem mem_drawnEngines {e : Engine} : e ∈ drawnEngines ↔ e = .mx ∨ e = .vx ∨ e = .cp := by
  simp only [drawnEngines, List.mem_cons, List.not_mem_nil, or_false]

/-- The holder of an engine is who was set, and nothing else of the tile changes. -/
theorem Tile.holdOf_setHold {e : Engine} (he : e ∈ drawnEngines) (t : Tile) (q : Option Quantum) : (t.setHold e q).holdOf e = q := by
  rcases mem_drawnEngines.1 he with rfl | rfl | rfl <;> rfl

theorem Tile.drawOf_setHold (e : Engine) (t : Tile) (q : Option Quantum) : (t.setHold e q).drawOf e = t.drawOf e := by
  cases e <;> rfl

theorem Tile.drawOf_bumpDraw {e : Engine} (he : e ∈ drawnEngines) (t : Tile) : (t.bumpDraw e).drawOf e = t.drawOf e + 1#56 := by
  rcases mem_drawnEngines.1 he with rfl | rfl | rfl <;> rfl

theorem Slot.redOpen_setComp (x : Slot) (e : Engine) (v : Nat) : (x.setComp e v).redOpen = x.redOpen := by cases e <;> rfl

/-! An engine given to a slot: its tile holds it for that slot, and nothing else that arbiters read changes. -/

theorem giveEngine_tile (s : State) (t : Nat) (e : Engine) (n : Nat) :
    (s.giveEngine t e n).tile t = (s.tile t).setHold e (some ⟨n, s.dcc.toNat, e == .mx && (s.slot n).redOpen⟩) :=
  s.tile_setTile t _

theorem giveEngine_tile_ne (s : State) {t k : Nat} (e : Engine) (n : Nat) (h : k ≠ t) : (s.giveEngine t e n).tile k = s.tile k :=
  s.tile_setTile_ne _ h

theorem giveEngine_dcc (s : State) (t : Nat) (e : Engine) (n : Nat) : (s.giveEngine t e n).dcc = s.dcc := rfl

theorem giveEngine_redOpen (s : State) (t : Nat) (e : Engine) (n m : Nat) :
    ((s.giveEngine t e n).slot m).redOpen = (s.slot m).redOpen := by
  unfold State.giveEngine
  by_cases h : m = n
  · subst h
    rw [State.slot_upSlot, Slot.redOpen_setComp]
    rfl
  · rw [State.slot_upSlot_ne _ _ h]
    rfl

/-- The slots of a tile whose heads are ready for a draw. -/
def State.readySlots (s : State) (t : Nat) (e : Engine) : List Nat :=
  ((List.range 8).map fun i => t * 8 + i).filter fun n => s.headReady n e

theorem tileOf_of_readySlots {s : State} {t n : Nat} {e : Engine} (h : n ∈ s.readySlots t e) : tileOf n = t :=
  mem_slots.1 (List.mem_filter.1 h).1

/-- A lone ready head wins without a draw (01 R33). -/
theorem winnerOf_lone {s : State} {t n : Nat} {e : Engine} (h : s.readySlots t e = [n]) : s.winnerOf t e = (s, some n) := by
  have h' : ((slotsOf t).filter fun n => s.headReady n e) = [n] := h
  simp only [State.winnerOf, h']

/-- Of several ready heads the tickets choose one, and the draw counter advances (01 R33, R34). -/
theorem winnerOf_several {s : State} {t : Nat} {e : Engine} (h : 1 < (s.readySlots t e).length) :
    ∃ n, n ∈ s.readySlots t e ∧
      n = (s.readySlots t e).getD (winner ((s.readySlots t e).map (s.arbTickets e))
        (drawValue (s.tile t).seed (arbNum e) ((s.tile t).drawOf e))) 0 ∧
      s.winnerOf t e = ((s.setTile t ((s.tile t).bumpDraw e)).countCtx (s.slot n).y.ctx.toNat (5 + arbNum e), some n) := by
  refine ⟨_, ?_, rfl, ?_⟩
  · have hne : (s.readySlots t e).map (s.arbTickets e) ≠ [] := fun h0 => by
      rw [List.map_eq_nil_iff.1 h0] at h
      simp at h
    have hw := winner_lt hne (drawValue (s.tile t).seed (arbNum e) ((s.tile t).drawOf e))
    rw [List.length_map] at hw
    rw [List.getD_eq_getElem?_getD, List.getElem?_eq_getElem hw, Option.getD_some]
    exact List.getElem_mem hw
  · have hc : ((slotsOf t).filter fun n => s.headReady n e) = s.readySlots t e := rfl
    unfold State.winnerOf
    rw [hc]
    split
    · next h0 => rw [h0] at h; simp at h
    · next m h1 => rw [h1] at h; simp at h
    · rfl

/-- A free engine goes to the winner of its draw, unless that one needs the partner tile too. -/
theorem drawEngine_of_winner {s t : State} {k n : Nat} {e : Engine} (hd : (s.tile k).draws e = true) (hh : (s.tile k).holdOf e = none)
    (hw : s.winnerOf k e = (t, some n)) (hp : e = .mx → s.pairs n = false) : s.drawEngine k e = t.giveEngine k e n := by
  have hc : (e == .mx && s.pairs n) = false := by
    cases e <;> simp_all
  simp only [State.drawEngine, hd, hh, hw, hc, Bool.not_true, Option.isSome_none, Bool.or_self, Bool.false_eq_true, if_false,
    Bool.false_and]

/-- Where the winners of both tiles are a ready pair, it takes both arrays (10 R244). -/
theorem drawEngine_of_pair {s u : State} {k n m : Nat} (hd : (s.tile k).draws .mx = true) (hh : (s.tile k).holdMx = none)
    (hw : s.winnerOf k .mx = (s, some n)) (hn : s.pairs n = true)
    (ho : (s.tile (tileOf n / 48 * 48 + Nat.xor (tileOf n % 48) 1)).holdMx = none)
    (hv : s.winnerOf (tileOf n / 48 * 48 + Nat.xor (tileOf n % 48) 1) .mx = (u, some m)) (hm : s.pairs m = true) :
    s.drawEngine k .mx = (u.giveEngine (tileOf n / 48 * 48 + Nat.xor (tileOf n % 48) 1) .mx m).giveEngine k .mx n := by
  have hh' : (s.tile k).holdOf .mx = none := hh
  simp only [State.drawEngine, hd, hh', hw, hn, ho, hv, hm, Bool.not_true, Option.isSome_none, Option.isNone_none, Bool.or_self,
    Bool.and_self, Bool.false_eq_true, beq_self_eq_true, if_true, if_false]

/-- The partner tile is another tile. -/
theorem partner_ne (t : Nat) : t ≠ t / 48 * 48 + Nat.xor (t % 48) 1 := by
  intro h
  have e : t % 48 ^^^ 1 = t % 48 := by
    have h' : t = t / 48 * 48 + (t % 48 ^^^ 1) := h
    omega
  have hx : t % 48 ^^^ (t % 48 ^^^ 1) = t % 48 ^^^ t % 48 := congrArg _ e
  rw [← Nat.xor_assoc, Nat.xor_self, Nat.zero_xor] at hx
  exact Nat.one_ne_zero hx

/-! ### Quanta and yields (01 R35; 05 R135; 16 R358) -/

theorem endQuantum_tile (s : State) (t : Nat) (e : Engine) (n u : Nat) : (s.endQuantum t e n u).tile t = (s.tile t).setHold e none :=
  s.tile_setTile t _

theorem endQuantum_slot (s : State) (t : Nat) (e : Engine) (n u : Nat) : (s.endQuantum t e n u).slot n =
    if u < 256 then ((s.slot n).endYield e).setComp e (compFactor u) else (s.slot n).endYield e :=
  State.slot_upSlot _ n _

/-- No quantum that nobody holds ends. -/
theorem quantumEnds_of_free {s : State} {t : Nat} {e : Engine} (h : (s.tile t).holdOf e = none) : s.quantumEnds t e = s := by
  simp only [State.quantumEnds, h]

/-- A quantum of MX ends where nothing of the winner runs or waits and it has opened no reduction. -/
theorem quantumEnd_mx {s : State} {q : Quantum} (hq : (mine s).holdOf .mx = some q) (ho : q.opened = false) (hb : (mine s).busy = none)
    (hl : (s.slot q.slot).e.mx.entries = []) :
    exec (.quantumEnd .mx) s = .next (s.setTile (tileOf s.cur) ((mine s).setHold .mx none)) := by
  have hq' : (s.tile (tileOf s.cur)).holdOf .mx = some q := hq
  have hb' : (s.tile (tileOf s.cur)).busy = none := hb
  have hl' : ((s.slot q.slot).eng .mx).entries = [] := hl
  have hy : s.yieldEnds (tileOf s.cur) .mx = s := by simp [State.yieldEnds, hq', Slot.yielded]
  change Host.Outcome.next ((s.yieldEnds (tileOf s.cur) .mx).quantumEnds (tileOf s.cur) .mx) = _
  rw [hy]
  simp only [State.quantumEnds, hq', ho, hb', hl', Bool.not_false, Option.isNone_none, List.isEmpty_nil, Bool.and_self, if_true]
  rfl

/-- A quantum of VX or CP ends after 256 cycles, with an empty queue, or when all before a YIELD has issued. -/
theorem quantumEnd_vx_cp {s : State} {e : Engine} {q : Quantum} (he : e = .vx ∨ e = .cp) (hq : (mine s).holdOf e = some q)
    (hr : 256 ≤ s.dcc.toNat - q.start ∨ 0 < s.dcc.toNat - q.start ∧ ((s.slot q.slot).eng e).entries = [] ∨
      0 < s.dcc.toNat - q.start ∧ (s.slot q.slot).yielded e = true) :
    exec (.quantumEnd e) s = .next (s.endQuantum (tileOf s.cur) e q.slot (s.dcc.toNat - q.start)) := by
  have hm : e ∈ drawnEngines := by rcases he with rfl | rfl <;> decide
  have hq' : (s.tile (tileOf s.cur)).holdOf e = some q := hq
  change Host.Outcome.next ((s.yieldEnds (tileOf s.cur) e).quantumEnds (tileOf s.cur) e) = _
  by_cases hy : ((s.slot q.slot).yielded e && decide (q.start < s.dcc.toNat)) = true
  · have h1 : s.yieldEnds (tileOf s.cur) e = s.endQuantum (tileOf s.cur) e q.slot (s.dcc.toNat - q.start) := by
      simp only [State.yieldEnds, hq', if_pos hy]
    rw [h1, quantumEnds_of_free]
    rw [endQuantum_tile, Tile.holdOf_setHold hm]
  · have h1 : s.yieldEnds (tileOf s.cur) e = s := by simp only [State.yieldEnds, hq', if_neg hy]
    have hc : (decide (256 ≤ s.dcc.toNat - q.start) || (decide (0 < s.dcc.toNat - q.start) &&
        ((s.slot q.slot).eng e).entries.isEmpty)) = true := by
      simp only [Bool.and_eq_true, decide_eq_true_eq, not_and] at hy
      rcases hr with h | ⟨h, hl⟩ | ⟨h, hz⟩
      · simp [h]
      · simp [h, hl]
      · exact absurd (by omega) (hy hz)
    rw [h1]
    rcases he with rfl | rfl <;> simp only [State.quantumEnds, hq', if_pos hc]

theorem compFactor_of_early {u : Nat} (h0 : 0 < u) (h : u < 256) : compFactor u = 2 ^ 16 * 256 / u := by
  have : max 1 (min 256 u) = u := by omega
  rw [compFactor, this]

theorem Slot.yielded_of_later {x : Slot} {e : Engine} {p : Nat} (he : e = .vx ∨ e = .cp)
    (hp : (if e = .vx then x.yieldVx else x.yieldCp) = some p)
    (hl : ∀ en ∈ (x.eng e).entries, 0 < (en.seq - BitVec.ofNat 32 p).toNat ∧ (en.seq - BitVec.ofNat 32 p).toNat < 2 ^ 31) :
    x.yielded e = true := by
  have all : ((x.eng e).entries.all fun en => decide (0 < (en.seq - BitVec.ofNat 32 p).toNat) &&
      decide ((en.seq - BitVec.ofNat 32 p).toNat < 2 ^ 31)) = true := by
    simpa only [List.all_eq_true, Bool.and_eq_true, decide_eq_true_eq] using hl
  rcases he with rfl | rfl
  · have hp' : x.yieldVx = some p := hp
    simpa only [Slot.yielded, hp'] using all
  · have hp' : x.yieldCp = some p := hp
    simpa only [Slot.yielded, hp'] using all

/-! ### The statement's clauses -/

/-- A lone MX head of a tile in STAMPED mode runs at a stamp as its slot. -/
theorem stampReached_lone {s u : State} {n : Nat} {en : Entry} {r : List Entry} {i : Instr} (hn : n / 8 = s.cur / 8)
    (hs : (mine s).stamped = true) (ho : ∀ m, m / 8 = s.cur / 8 → m ≠ n → (s.slot m).e.mx.entries = [])
    (hl : (s.slot n).e.mx.entries = en :: r) (he : en.isEng = true) (hm : (s.slot n).mayIssue .mx = true)
    (hd : decodeEngine 2#3 en.word = .ok i) (hx : mxMeaning i { s with cur := n, phase := .issue en } = .next u)
    (hu : ∀ m, m / 8 = s.cur / 8 → m ≠ n → (u.slot m).e.mx.entries = []) :
    exec .stampReached s = .next { u with cur := s.cur, phase := s.phase } := by
  have h := issueMx_of_head hl he hm hd hx
  change Host.Outcome.next (s.stampDueAt (s.cur / 8)) = _
  rw [stampDueAt_stamped hs, foldl_issueMx_of_lone (mem_slots.2 hn) (nodup_slots _) (fun m hm => ho m (mem_slots.1 hm))
    (by rw [h]; exact fun m hm => hu m (mem_slots.1 hm)), h]

/-- A draw gives a free engine to the lone ready head, or by tickets to one of several. -/
theorem arbiterDraw_gives {s : State} {e : Engine} (he : e ∈ drawnEngines) (hd : (mine s).draws e = true)
    (hh : (mine s).holdOf e = none) (hne : s.readySlots (s.cur / 8) e ≠ [])
    (hp : e = .mx → ∀ n ∈ s.readySlots (s.cur / 8) e, s.pairs n = false) :
    ∃ u n, exec (.arbiterDraw e) s = .next u ∧ (mine u).holdOf e = some ⟨n, s.dcc.toNat, e == .mx && (s.slot n).redOpen⟩ ∧
      ((s.readySlots (s.cur / 8) e).length = 1 → s.readySlots (s.cur / 8) e = [n] ∧ (mine u).drawOf e = (mine s).drawOf e) ∧
      (1 < (s.readySlots (s.cur / 8) e).length → (mine u).drawOf e = (mine s).drawOf e + 1#56 ∧
        n = (s.readySlots (s.cur / 8) e).getD (winner ((s.readySlots (s.cur / 8) e).map (s.arbTickets e))
          (drawValue (mine s).seed (arbNum e) ((mine s).drawOf e))) 0) ∧
      ∀ t, t ≠ s.cur / 8 → u.tile t = s.tile t := by
  by_cases h1 : 1 < (s.readySlots (s.cur / 8) e).length
  · obtain ⟨n, hn, hget, hw⟩ := winnerOf_several h1
    have hg := drawEngine_of_winner hd hh hw fun h => hp h n hn
    refine ⟨_, n, congrArg Host.Outcome.next hg, ?_, fun h => by omega, fun _ => ⟨?_, hget⟩, fun t ht => ?_⟩
    · exact (congrArg (Tile.holdOf · e) (giveEngine_tile _ (s.cur / 8) e n)).trans (Tile.holdOf_setHold he _ _)
    · refine (congrArg (Tile.drawOf · e) (giveEngine_tile _ (s.cur / 8) e n)).trans ((Tile.drawOf_setHold e _ _).trans ?_)
      exact (congrArg (Tile.drawOf · e) (s.tile_setTile (s.cur / 8) _)).trans (Tile.drawOf_bumpDraw he _)
    · exact (giveEngine_tile_ne _ e n ht).trans (s.tile_setTile_ne _ ht)
  · obtain ⟨n, hn⟩ : ∃ n, s.readySlots (s.cur / 8) e = [n] :=
      List.length_eq_one_iff.1 (by have := List.length_pos_iff.2 hne; omega)
    have hg := drawEngine_of_winner hd hh (winnerOf_lone hn) fun h => hp h n (by simp [hn])
    refine ⟨_, n, congrArg Host.Outcome.next hg, ?_, fun _ => ⟨hn, ?_⟩, fun h => absurd h h1, fun t ht => giveEngine_tile_ne s e n ht⟩
    · exact (congrArg (Tile.holdOf · e) (giveEngine_tile s (s.cur / 8) e n)).trans (Tile.holdOf_setHold he _ _)
    · exact (congrArg (Tile.drawOf · e) (giveEngine_tile s (s.cur / 8) e n)).trans (Tile.drawOf_setHold e _ _)

/-- A ready pair takes the arrays of both its tiles. -/
theorem arbiterDraw_pair {s : State} {n m : Nat} (hd : (mine s).draws .mx = true) (hh : (mine s).holdMx = none)
    (hn : s.readySlots (s.cur / 8) .mx = [n]) (hm : s.readySlots (s.cur / 8 / 48 * 48 + Nat.xor (s.cur / 8 % 48) 1) .mx = [m])
    (hpn : s.pairs n = true) (hpm : s.pairs m = true) (ho : (s.tile (s.cur / 8 / 48 * 48 + Nat.xor (s.cur / 8 % 48) 1)).holdMx = none) :
    ∃ u, exec (.arbiterDraw .mx) s = .next u ∧ (mine u).holdMx = some ⟨n, s.dcc.toNat, (s.slot n).redOpen⟩ ∧
      (u.tile (s.cur / 8 / 48 * 48 + Nat.xor (s.cur / 8 % 48) 1)).holdMx = some ⟨m, s.dcc.toNat, (s.slot m).redOpen⟩ := by
  have ht : tileOf n = s.cur / 8 := tileOf_of_readySlots (by rw [hn]; exact List.mem_singleton_self n)
  have hg := drawEngine_of_pair (k := s.cur / 8) hd hh (winnerOf_lone hn) hpn (by rw [ht]; exact ho)
    (by rw [ht]; exact winnerOf_lone hm) hpm
  rw [ht] at hg
  refine ⟨_, congrArg Host.Outcome.next hg, ?_, ?_⟩
  · refine (congrArg Tile.holdMx (giveEngine_tile _ (s.cur / 8) .mx n)).trans ?_
    rw [giveEngine_redOpen]
    rfl
  · refine (congrArg Tile.holdMx (giveEngine_tile_ne _ .mx n (partner_ne _).symm)).trans ?_
    exact congrArg Tile.holdMx (giveEngine_tile s _ .mx m)

/-- Settles O33: what a stamp, a draw and the end of a quantum do, from the laws of the arbiters. -/
theorem arbitration : Obligations.Arbitration := by
  refine ⟨fun s => ⟨_, rfl, (stampDueAt_cur_phase s _).1, (stampDueAt_cur_phase s _).2, stampDueAt_drawn, stampDueAt_stamped⟩,
    fun s n h => h.elim issueMx_of_empty issueMx_of_not_mayIssue, ?stamp, fun s e he hd hh hne hp => arbiterDraw_gives he hd hh hne hp,
    fun s n m hd hh hn hm hpn hpm ho => arbiterDraw_pair hd hh hn hm hpn hpm ho, fun s e q hq => ?quantum⟩
  case stamp =>
    intro s n en r i u hn hs ho hl he hm hd hi hx hu
    have hmx : mxMeaning i { s with cur := n, phase := .issue en } = exec i { s with cur := n, phase := .issue en } := by
      rcases hi with ⟨k, c, rfl | ⟨z, rfl⟩ | ⟨pt, x, y, rfl⟩⟩ <;> rfl
    exact stampReached_lone hn hs ho hl he hm hd (hmx.trans hx) hu
  case quantum =>
    have hold : ∀ (v : State) (he : e = .vx ∨ e = .cp) (n u : Nat), (mine (v.endQuantum (tileOf v.cur) e n u)).holdOf e = none :=
      fun v he n u => (congrArg (Tile.holdOf · e) (endQuantum_tile v (tileOf v.cur) e n u)).trans
        (Tile.holdOf_setHold (by rcases he with rfl | rfl <;> decide) _ _)
    refine ⟨fun h ho hb hl => ?empty, fun he hr => ?full, fun he h0 hr hl => ?early, fun p he hp h0 hl => ?yielded⟩
    case empty =>
      subst h
      exact ⟨_, quantumEnd_mx hq ho hb hl, congrArg (Tile.holdOf · .mx) (s.tile_setTile (tileOf s.cur) _)⟩
    case full =>
      refine ⟨_, quantumEnd_vx_cp he hq (.inl hr), hold s he _ _, ?_⟩
      rw [endQuantum_slot, if_neg (Nat.not_lt.2 hr)]
      rcases he with rfl | rfl <;> exact ⟨rfl, rfl⟩
    case early =>
      refine ⟨_, quantumEnd_vx_cp he hq (.inr (.inl ⟨h0, hl⟩)), hold s he _ _, ?_⟩
      rw [endQuantum_slot, if_pos hr, compFactor_of_early h0 hr]
      rcases he with rfl | rfl <;> rfl
    case yielded =>
      refine ⟨_, quantumEnd_vx_cp he hq (.inr (.inr ⟨h0, Slot.yielded_of_later he hp hl⟩)), hold s he _ _, ?_⟩
      rw [endQuantum_slot]
      by_cases hr : s.dcc.toNat - q.start < 256
      · rw [if_pos hr]
        rcases he with rfl | rfl <;> rfl
      · rw [if_neg hr]
        rcases he with rfl | rfl <;> rfl

end Sys2Proof.Machine

/-! SUPPORT. What a write at home leaves of the other bytes, whatever the form of the memory list (07 R182; 12 R271, R277, R281): a byte of a
stack outside the sectors that are written reads as before. -/
namespace Sys2Proof.Machine

/-! ### Bytes that a write does not name -/

/-- A byte reads what memory holds at its key and whether its unit is fresh. -/
theorem State.byte_congr {s t : State} (hm : t.mem = s.mem) (hu : t.used = s.used) (a : Nat) : t.byte a = s.byte a := by
  unfold State.byte State.isFresh
  rw [hm, hu]

/-- A cell that is not written reads as before. -/
theorem Memory.read_write_ne {m : List Host.Cell} {k j : Nat} (v : Byte) (h : j ≠ k) :
    Memory.read (Memory.write m k v) j = Memory.read m j := by
  unfold Memory.read
  induction m with
  | nil => by_cases hv : v = 0#8 <;> simp [Memory.write, mget, hv, h]
  | cons e r ih =>
    obtain ⟨i, w⟩ := e
    simp only [Memory.write]
    split
    · by_cases hv : v = 0#8 <;> simp [hv, mget, h]
    · split
      · next hi =>
        subst hi
        by_cases hv : v = 0#8 <;> simp [hv, mget, h]
      · simp only [mget, ih]

theorem read_resealMem_ne (old : Option Nat) (key base a : Nat) (m : List Host.Cell) (h : ∀ i, i < 32 → a ≠ base + i) :
    Memory.read (resealMem old key base m) a = Memory.read m a := by
  have writes : ∀ n, n ≤ 32 → ∀ f : Nat → Byte,
      Memory.read (upTo n (fun i m => Memory.write m (base + i) (f i)) m) a = Memory.read m a := by
    intro n
    induction n with
    | zero => exact fun _ _ => rfl
    | succ n ih => exact fun hn f => (Memory.read_write_ne _ (h n hn)).trans (ih (Nat.le_of_succ_le hn) f)
  unfold resealMem
  split
  · split
    · rfl
    · exact writes 32 (Nat.le_refl 32) _
  · rfl

theorem State.byte_putByte_ne (s : State) {k a : Nat} (b : Byte) (h : a ≠ k) : (s.putByte k b).byte a = s.byte a := by
  rw [← State.byte_open s k a]
  unfold State.byte State.putByte
  dsimp only
  rw [Memory.read_write_ne b h]
  rfl

theorem State.byte_markPoison (s : State) (k a : Nat) : (s.markPoison k).byte a = s.byte a :=
  (State.byte_congr rfl rfl a).trans (State.byte_open s k a)

/-- Bringing a sector under a key leaves the bytes of the others. -/
theorem State.byte_reseal_ne (s : State) (key : Nat) {k a : Nat} (h : a / 32 ≠ k / 32) : (s.reseal key k).byte a = s.byte a := by
  rw [← State.byte_open s k a]
  unfold State.byte State.reseal
  dsimp only
  rw [read_resealMem_ne _ _ _ _ _ fun i hi => by omega]
  rfl

theorem State.byte_writeKeyFrom_ne (s : State) (o : Origin) (kid : Nat) {k a : Nat} (b : Byte) (h : a / 32 ≠ k / 32) :
    (s.writeKeyFrom o kid k b).byte a = s.byte a := by
  have hk : a ≠ k := fun e => h (by rw [e])
  unfold State.writeKeyFrom
  split
  · split
    · rfl
    · split
      · rfl
      · rw [State.byte_putByte_ne _ _ hk, State.byte_reseal_ne _ _ h]
  · exact State.byte_putByte_ne _ _ hk

theorem State.byte_setStack (s : State) (k : Nat) (x : Stack) (a : Nat) : (s.setStack k x).byte a = s.byte a := rfl

/-- What a request meets changes no byte. -/
theorem State.byte_meetUnit (s : State) (kid k a : Nat) : (s.meetUnit kid k).byte a = s.byte a := by
  have hf : ((s.countCorrected k).markFound k).byte a = s.byte a := by
    have hc : (s.countCorrected k).byte a = s.byte a := by
      unfold State.countCorrected
      split <;> rfl
    unfold State.markFound
    split
    · exact (State.byte_markPoison _ k a).trans hc
    · exact hc
  unfold State.meetUnit
  split
  · dsimp only
    split
    · exact (State.byte_setStack _ _ _ a).trans ((State.byte_setStack _ _ _ a).trans hf)
    · exact hf
  · split
    · rfl
    · split
      · exact State.byte_markPoison s k a
      · rfl

theorem State.byte_upsets (s : State) (u : SMap Nat) (a : Nat) : ({ s with upsets := u } : State).byte a = s.byte a := rfl

theorem State.byte_upTo_putByte_ne (s : State) (n base : Nat) (f : Nat → Byte) {a : Nat} (h : ∀ i, i < n → a ≠ base + i) :
    (upTo n (fun i t => t.putByte (base + i) (f i)) s).byte a = s.byte a := by
  induction n with
  | zero => rfl
  | succ n ih => exact (State.byte_putByte_ne _ _ (h n n.lt_succ_self)).trans (ih fun i hi => h i (Nat.lt_succ_of_lt hi))

/-- A merge writes back the sector that it reads, no other byte. -/
theorem State.byte_mergeUnit_ne (s : State) {k a : Nat} (h : a / 32 ≠ k / 32) : (s.mergeUnit k).byte a = s.byte a := by
  unfold State.mergeUnit
  split
  · exact (State.byte_upsets _ _ a).trans (State.byte_upTo_putByte_ne s 32 _ _ fun i hi => by omega)
  · rfl

theorem State.byte_noteRequest (s : State) (o : Origin) (w : Option (Word × BitVec 512)) (kid k a : Nat) :
    (s.noteRequest o w kid k).byte a = s.byte a := by
  unfold State.noteRequest
  split <;> rfl

theorem State.byte_pmapStale (old t : State) (ks : List Nat) (a : Nat) : (State.pmapStale old t ks).byte a = t.byte a := by
  unfold State.pmapStale
  refine foldl_keeps (fun u : State => u.byte a = t.byte a) _ _ _ (fun u i h => ?_) rfl
  split
  · exact h
  · exact h

theorem State.byte_heatAll (s : State) (vas : List Nat) (a : Nat) : (s.heatAll vas).byte a = s.byte a :=
  foldl_keeps (fun u : State => u.byte a = s.byte a) _ _ _ (fun _ _ h => h) rfl

/-- One key of each group is one of the keys. -/
theorem mem_of_mem_firstOf {f : Nat → Nat} {ks : List (Nat × Nat)} {k : Nat × Nat} (h : k ∈ firstOf f ks) : k ∈ ks := by
  have sub : ∀ acc : List (Nat × Nat), (∀ q ∈ acc, q ∈ ks) → ∀ l : List (Nat × Nat), (∀ q ∈ l, q ∈ ks) →
      ∀ q ∈ l.foldl (fun acc k => if acc.any fun u => decide (f u.1 = f k.1) then acc else acc ++ [k]) acc, q ∈ ks := by
    intro acc ha l hl
    refine List.foldlRecOn l _ (motive := fun acc : List (Nat × Nat) => ∀ q ∈ acc, q ∈ ks) ha fun acc ih k hk => ?_
    split
    · exact ih
    · intro q hq
      rcases List.mem_append.1 hq with hq | hq
      · exact ih q hq
      · rw [List.mem_singleton.1 hq]
        exact hl k hk
  exact sub [] (by simp) ks (fun _ h => h) k h

/-- Writing bytes together leaves every byte outside their sectors. -/
theorem State.byte_writeAllFrom_ne (s : State) (o : Origin) (cells : List ((Nat × Nat) × Byte)) {a : Nat}
    (h : ∀ c ∈ cells, a / 32 ≠ c.1.1 / 32) : (s.writeAllFrom o cells).byte a = s.byte a := by
  have took : ∀ c ∈ cells.filter (fun c => s.takes o c.1), a / 32 ≠ c.1.1 / 32 := fun c hc => h c (List.mem_filter.1 hc).1
  have parts : ∀ k ∈ firstOf poisonUnit ((cells.filter fun c => s.takes o c.1).map Prod.fst), a / 32 ≠ k.1 / 32 := by
    intro k hk
    obtain ⟨c, hc, rfl⟩ := List.mem_map.1 (mem_of_mem_firstOf hk)
    exact took c hc
  unfold State.writeAllFrom
  dsimp only
  rw [State.byte_pmapStale]
  refine foldl_keeps (fun t : State => t.byte a = s.byte a) _ _ _ (fun t u ht => (State.byte_noteRequest t o _ _ _ a).trans ht) ?_
  refine List.foldlRecOn _ _ (motive := fun t : State => t.byte a = s.byte a) ?_ fun t ht k _ => ?_
  · refine List.foldlRecOn _ _ (motive := fun t : State => t.byte a = s.byte a) ?_ fun t ht c hc =>
      (State.byte_writeKeyFrom_ne t o _ _ (took c hc)).trans ht
    exact List.foldlRecOn _ _ (motive := fun t : State => t.byte a = s.byte a) rfl fun t ht k hk =>
      (State.byte_mergeUnit_ne _ (parts k (List.mem_filter.1 hk).1)).trans ((State.byte_meetUnit t _ _ a).trans ht)
  · split <;> split <;> exact ht

/-! ### Accesses that find everything at rest -/

/-- Setting the season of one region leaves another out of winter where it was, and does not put the first into winter. -/
theorem State.regionSeason_setRegionSeason (s : State) (i j c : Nat) :
    (s.setRegionSeason i c).regionSeason j = s.regionSeason j ∨ (s.setRegionSeason i c).regionSeason j = c % 4 := by
  unfold State.regionSeason State.setRegionSeason State.entry State.setEntry State.tabEntry State.setTab
  simp only [show ¬ (0x0D : Nat) = 1 by decide, if_false]
  rw [mget_mput]
  split
  · right
    simp only [natBits, natSetBits, Nat.shiftRight_zero]
    omega
  · exact .inl rfl

/-- What a byte access that arrives at rest keeps: the cells, the stacks, and that nothing of a list of keys lies in winter. -/
def RestKept (s : State) (ks : List (Nat × Nat)) (t : State) : Prop :=
  t.mem = s.mem ∧ t.used = s.used ∧ t.hbm = s.hbm ∧ ∀ q ∈ ks, t.seasonOf q.1 ≠ 2

/-- A byte of a stack out of winter is touched without becoming fresh. -/
theorem touchFrom_restKept {s t : State} {ks : List (Nat × Nat)} (o : Origin) (ctx : Nat) {c : Nat × Nat} (hc : c ∈ ks)
    (hk : ∀ q ∈ ks, isHbm q.1 = true) (h : RestKept s ks t) : RestKept s ks (t.touchFrom o ctx c) := by
  obtain ⟨hm, hu, hh, hs⟩ := h
  have hr : t.regionSeason (regionIdx c.1) ≠ 2 := by
    have := hs c hc
    rwa [State.seasonOf, if_pos (hk c hc)] at this
  have hw : t.wakeRegion (regionIdx c.1) 0 = t.setRegionSeason (regionIdx c.1) 0 := by
    unfold State.wakeRegion
    rw [if_neg hr]
  have wakes : RestKept s ks (t.setRegionSeason (regionIdx c.1) 0) := by
    refine ⟨hm, hu, hh, fun q hq => ?_⟩
    have hq' := hs q hq
    rw [State.seasonOf, if_pos (hk q hq)] at hq' ⊢
    rcases t.regionSeason_setRegionSeason (regionIdx c.1) (regionIdx q.1) 0 with e | e <;> rw [e]
    · exact hq'
    · decide
  unfold State.touchFrom
  rw [if_pos (hk c hc)]
  split
  · exact ⟨hm, hu, hh, hs⟩
  · dsimp only
    split
    · exact ⟨hm, hu, hh, hs⟩
    · rw [hw]
      exact wakes

/-- No request to an empty queue goes first. -/
theorem drainUnit_of_empty {s : State} {k : Nat} (h : (s.stack (stackOf k)).queue (pcOf k) = []) : s.drainUnit k = s := by
  unfold State.drainUnit
  dsimp only
  rw [h]
  rfl

theorem drainSeasons_of_empty {s : State} {k : Nat} (h : (s.stack k).toStack = []) : s.drainSeasons k = s := by
  unfold State.drainSeasons
  rw [h]
  rfl

/-- Accesses that arrive at stacks at rest change no byte. -/
theorem byte_touchAllFrom_of_atRest {s : State} {ks : List (Nat × Nat)} (o : Origin) (ctx : Nat) (hk : ∀ q ∈ ks, isHbm q.1 = true)
    (h : AtRest s ks) (a : Nat) : (s.touchAllFrom o ctx ks).byte a = s.byte a := by
  have hd : (stacksOf ks).foldl State.drainSeasons s = s := by
    refine List.foldlRecOn _ _ (motive := fun t : State => t = s) rfl fun t ht k hk' => ?_
    obtain ⟨q, hq, rfl⟩ := List.mem_map.1 hk'
    have hq := (List.mem_filter.1 (mem_of_mem_firstOf hq)).1
    rw [ht]
    exact drainSeasons_of_empty ((h q hq).2 (hk q hq)).1
  have ht : RestKept s ks ((firstOf (· / 64) ks).foldl (fun t c => t.touchFrom o ctx c) s) :=
    List.foldlRecOn _ _ (motive := RestKept s ks) ⟨rfl, rfl, rfl, fun q hq => (h q hq).1⟩
      fun t ht c hc => touchFrom_restKept o ctx (mem_of_mem_firstOf hc) hk ht
  obtain ⟨hm, hu, hh, -⟩ := ht
  unfold State.touchAllFrom
  dsimp only
  rw [hd]
  generalize (firstOf (· / 64) ks).foldl (fun t c => t.touchFrom o ctx c) s = t at hm hu hh ⊢
  have hq : (hbmUnits ks).foldl (fun u c => u.drainUnit c.1) t = t := by
    refine List.foldlRecOn _ _ (motive := fun u : State => u = t) rfl fun u ht c hc => ?_
    have hc := (List.mem_filter.1 (mem_of_mem_firstOf hc)).1
    rw [ht]
    refine drainUnit_of_empty ?_
    have hst : t.stack (stackOf c.1) = s.stack (stackOf c.1) := by
      unfold State.stack
      rw [hh]
    rw [hst]
    exact ((h c hc).2 (hk c hc)).2
  rw [hq]
  exact State.byte_congr hm hu a

/-- The keys of a buffer's bytes lie in stacks. -/
theorem isHbm_vaKey (s : State) (va : Nat) : isHbm (s.vaKey va).1 = true := by
  simp [State.vaKey, isHbm, hbmKey, hbmBase, Nat.add_assoc]

/-- A write through a buffer at rest changes no byte outside the sectors that it writes. -/
theorem State.byte_writeVa_ne (s : State) (o : Origin) (i : Issuer) (va right : Nat) (bs : List Byte) {a : Nat}
    (h : AtRest s (s.keysAt true va bs.length)) (ha : ∀ k ∈ s.keysAt true va bs.length, a / 32 ≠ k.1 / 32) :
    (s.writeVa o i va right bs).1.byte a = s.byte a := by
  have hk : ∀ q ∈ s.keysAt true va bs.length, isHbm q.1 = true := by
    intro q hq
    obtain ⟨j, -, rfl⟩ := List.mem_map.1 hq
    exact isHbm_vaKey s (va + j)
  unfold State.writeVa
  split
  · rfl
  · dsimp only
    rw [State.byte_heatAll, State.byte_writeAllFrom_ne _ _ _ fun c hc => ha _ (List.of_mem_zip hc).1]
    exact byte_touchAllFrom_of_atRest o i.ctx hk h a

end Sys2Proof.Machine

/-! SUPPORT. The laws of the die scheduler's placement (01 R21, R33; 16 R354, R362, R364; 20 R414). -/
namespace Sys2Proof.Machine

/-! ### What a team takes on its tiles -/

/-- Room is taken on tiles: slots, tables and every byte of a stack stay. -/
def RoomTaken (s t : State) : Prop :=
  t = { s with mem := t.mem, used := t.used, poison := t.poison, upsets := t.upsets, sealed := t.sealed, tiles := t.tiles } ∧
    ∀ a, isHbm a = true → t.byte a = s.byte a

theorem RoomTaken.refl (s : State) : RoomTaken s s := ⟨rfl, fun _ _ => rfl⟩

theorem RoomTaken.trans {s t u : State} (h : RoomTaken s t) (g : RoomTaken t u) : RoomTaken s u := by
  obtain ⟨h1, h2⟩ := h
  obtain ⟨g1, g2⟩ := g
  refine ⟨?_, fun a ha => (g2 a ha).trans (h2 a ha)⟩
  rw [h1] at g1
  exact g1

theorem roomTaken_setTile (s : State) (k : Nat) (x : Tile) : RoomTaken s (s.setTile k x) := ⟨rfl, fun _ _ => rfl⟩

/-- A granule's units are none of a stack's. -/
theorem not_unitInGranule_of_isHbm {a : Nat} (h : isHbm a = true) (tile g : Nat) : unitInGranule tile g (unitOf a) = false := by
  unfold unitInGranule unitOf regionUnit
  rw [if_pos h, Bool.and_eq_false_iff]
  exact .inl (decide_eq_false (by omega))

theorem roomTaken_allocGranule (s : State) (tile tenant team g : Nat) : RoomTaken s (s.allocGranule tile tenant team g) := by
  refine RoomTaken.trans ⟨rfl, fun a ha => ?_⟩ (roomTaken_setTile (s.freshen (unitInGranule tile g)) tile _)
  rw [State.byte_freshen, not_unitInGranule_of_isHbm ha, if_neg Bool.false_ne_true]

theorem roomTaken_takePlan (s : State) (tenant team : Nat) (p : TilePlan) : RoomTaken s (s.takePlan tenant team p) := by
  unfold State.takePlan
  exact (foldl_keeps (RoomTaken s) _ _ _ (fun t g h => h.trans (roomTaken_allocGranule t p.tile tenant team g)) (RoomTaken.refl s)).trans
    (roomTaken_setTile _ _ _)

/-! What room leaves as it was, tables and stacks among it. -/

theorem RoomTaken.slots {s t : State} (h : RoomTaken s t) : t.slots = s.slots := by rw [h.1]
theorem RoomTaken.tasks {s t : State} (h : RoomTaken s t) : t.tasks = s.tasks := by rw [h.1]
theorem RoomTaken.teams {s t : State} (h : RoomTaken s t) : t.teams = s.teams := by rw [h.1]
theorem RoomTaken.tab {s t : State} (h : RoomTaken s t) : t.tab = s.tab := by rw [h.1]
theorem RoomTaken.pend {s t : State} (h : RoomTaken s t) : t.pend = s.pend := by rw [h.1]
theorem RoomTaken.hbm {s t : State} (h : RoomTaken s t) : t.hbm = s.hbm := by rw [h.1]
theorem RoomTaken.freeCtr {s t : State} (h : RoomTaken s t) : t.freeCtr = s.freeCtr := by rw [h.1]

section SameTables
variable {s t : State} (htab : t.tab = s.tab) (hpend : t.pend = s.pend) (hfree : t.freeCtr = s.freeCtr)
  (hbyte : ∀ a, isHbm a = true → t.byte a = s.byte a)
include htab

theorem tabEntry_congr (c i : Nat) : t.tabEntry c i = s.tabEntry c i := by
  unfold State.tabEntry
  rw [htab]

include hbyte

/-- An entry stands in its table, one of a page map in a stack. -/
theorem entry_congr (c i : Nat) : t.entry c i = s.entry c i := by
  have hp : t.pmapEntry i = s.pmapEntry i := by
    have hb : ∀ j, t.byte (pmapKey i + j) = s.byte (pmapKey i + j) := fun j =>
      hbyte _ (by simp [isHbm, pmapKey, Nat.add_assoc])
    unfold State.pmapEntry
    simp only [hb, tabEntry_congr htab]
  unfold State.entry
  rw [hp, tabEntry_congr htab]

include hpend hfree

theorem see_congr (c i : Nat) : t.see c i = s.see c i := by
  unfold State.see
  simp only [hpend, hfree, entry_congr htab hbyte]

/-- A buffer's bytes lie where they lay. -/
theorem keysAt_congr (va len : Nat) : t.keysAt true va len = s.keysAt true va len := by
  have hk : ∀ a, t.vaKey a = s.vaKey a := fun a => by
    unfold State.vaKey
    simp only [see_congr htab hpend hfree hbyte]
  unfold State.keysAt
  simp only [hk]

end SameTables

/-! ### Where a team of one member is placed -/

/-- One member goes to a tile that fits it. -/
theorem assign_singleton {level : Nat} {order : List Nat} {ok : Nat → List Decl → Bool} {d : Decl} {l : List (Nat × Decl)}
    (h : assign level order ok [d] = some l) : ∃ k, l = [(k, d)] ∧ ok k [d] = true := by
  have found : (order.find? fun k => ok k [d]).map (fun k => [(k, d)]) = some l := by
    unfold assign at h
    split at h
    · exact h
    · exact h
  obtain ⟨k, hk, rfl⟩ := Option.map_eq_some_iff.1 found
  exact ⟨k, rfl, List.find?_some (p := fun k => ok k [d]) hk⟩

/-- A slot that is free now is vacant. -/
theorem vacant_of_mem_freeSlots {s : State} {k n : Nat} (h : n ∈ s.freeSlots false k) : (s.slot n).vacant = true := by
  have := (List.mem_filter.1 h).2
  simpa using this

/-- A tile that fits one member has a free slot for it. -/
theorem slotsFor_singleton {s : State} {team k : Nat} {d : Decl} (h : s.fitsOn false team k [d] = true) :
    ∃ n, s.slotsFor [(k, d)] = [n] ∧ (s.slot n).vacant = true := by
  have hlen : 1 ≤ (s.freeSlots false k).length := by
    have := (Bool.and_eq_true_iff.1 h).1
    simpa using this
  match hf : s.freeSlots false k with
  | [] => rw [hf] at hlen; simp at hlen
  | n :: r =>
    refine ⟨n, ?_, vacant_of_mem_freeSlots (k := k) (by rw [hf]; exact List.mem_cons_self)⟩
    simp [State.slotsFor, hf]

/-- A waiting team of one task that fits has a tile, and there a vacant slot. -/
theorem placeOf_lone {s : State} {team t : Nat} {x : Task} {l : List (Nat × Decl)} (ht : (s.team team).tasks = [t])
    (hx : mfind s.tasks t = some x) (h : s.placeOf false team = some l) :
    ∃ k n, l = [(k, x.tq.decl)] ∧ s.slotsFor l = [n] ∧ (s.slot n).vacant = true := by
  have hd : s.declsOf (s.team team) = [x.tq.decl] := by simp [State.declsOf, ht, hx]
  unfold State.placeOf at h
  dsimp only at h
  rw [hd] at h
  obtain ⟨k, rfl, hk⟩ := assign_singleton h
  obtain ⟨n, hn, hv⟩ := slotsFor_singleton hk
  exact ⟨k, n, rfl, hn, hv⟩

/-! ### The slot of a task that is placed (04 R101; 16 R350, R362) -/

/-- What a slot holds of task t with entry x when it begins. -/
def Begins (s : State) (t : Nat) (x : Task) (z : Slot) : Prop :=
  z.pc = x.rc.prologue ∧ z.job.part = .prologue ∧ z.job.task = some t ∧ z.job.trip = x.rc.trip ∧ z.r = {} ∧ z.e = {} ∧
    z.y.level = 0#2 ∧ z.y.inTrap = false ∧ z.y.stampBase = x.rc.stampBase ∧ z.y.slip = min 64 x.rc.slip ∧
    z.y.iterBudget = x.rc.budget ∧ z.y.redMax.toNat = (if x.rc.redMax = 0 then 65536 else min (2 ^ 24) x.rc.redMax) ∧
    z.y.ctx = BitVec.ofNat 12 x.ctx ∧ z.y.csaBase = BitVec.ofNat 64 (s.csaArray (t / 2048) + t % 2048 * 65536) ∧
    z.y.cutBase = z.y.csaBase + 0xD100#64

/-- RED_MAX as placed: the record's, at most 2^24, and the reset value for 0 (16 R350; 04 R109). -/
theorem toNat_redMaxOf (v : Nat) : (redMaxOf v).toNat = if v = 0 then 65536 else min (2 ^ 24) v := by
  unfold redMaxOf
  rw [BitVec.toNat_ofNat]
  split
  · rfl
  · split <;> omega

/-- Placing a task sets its slot, its entry and the saved slots, and writes 8 bytes to its CSA. -/
theorem placeTask_eq {s : State} {n t team : Nat} {x : Task} (hx : mfind s.tasks t = some x) :
    ∃ z ts cs bs, s.placeTask n t team = (({ s.setSlot n z with tasks := ts, csa := cs } : State).writeVa (.die (dieOf n)) ⟨0, 0, x.ctx, 1⟩
      (s.csaOf t + 0xD100) rW bs).1 ∧ bs.length = 8 ∧ Begins s t x z := by
  unfold State.placeTask
  rw [hx]
  exact ⟨_, _, _, _, rfl, rfl, rfl, rfl, rfl, rfl, rfl, rfl, rfl, rfl, rfl, rfl, rfl, toNat_redMaxOf _, rfl, rfl, BitVec.ofNat_add _ _⟩

/-- A task that is placed: its slot, and no other, takes what its record gives. -/
theorem placeTask_slots {s : State} {n t team : Nat} {x : Task} (hx : mfind s.tasks t = some x) :
    Begins s t x ((s.placeTask n t team).slot n) ∧ ∀ m, m ≠ n → (s.placeTask n t team).slot m = s.slot m := by
  obtain ⟨z, ts, cs, bs, h, -, hz⟩ := placeTask_eq (n := n) (team := team) hx
  have hslots : (s.placeTask n t team).slots = (s.setSlot n z).slots := by
    rw [h]
    exact (State.writeVa_only _ _ _ _ _ (State.OnlyAccess.refl _)).slots
  unfold State.slot
  rw [hslots]
  refine ⟨?_, fun m hm => s.slot_setSlot_ne z hm⟩
  rw [show mget {} (s.setSlot n z).slots n = z from s.slot_setSlot n z]
  exact hz

section SameTables
variable {s v : State} (htab : v.tab = s.tab) (hpend : v.pend = s.pend) (hfree : v.freeCtr = s.freeCtr) (hhbm : v.hbm = s.hbm)
  (hbyte : ∀ a, isHbm a = true → v.byte a = s.byte a)
include htab hhbm hbyte

/-- Keys of stacks are at rest where they were. -/
theorem atRest_congr {ks : List (Nat × Nat)} (hk : ∀ q ∈ ks, isHbm q.1 = true) (h : AtRest s ks) : AtRest v ks := by
  intro q hq
  have hs : v.seasonOf q.1 = s.seasonOf q.1 := by
    unfold State.seasonOf State.regionSeason
    rw [if_pos (hk q hq), if_pos (hk q hq), entry_congr htab hbyte]
  unfold State.stack
  rw [hs, hhbm]
  exact h q hq

include hpend hfree

/-- A write through a buffer, tables as in s, leaves the bytes of the sectors that it does not write. -/
theorem byte_writeVa_of_sameTables (o : Origin) (i : Issuer) (va right : Nat) (bs : List Byte) {a : Nat} (ha : isHbm a = true)
    (h : AtRest s (s.keysAt true va bs.length)) (hk : ∀ k ∈ s.keysAt true va bs.length, a / 32 ≠ k.1 / 32) :
    (v.writeVa o i va right bs).1.byte a = s.byte a := by
  rw [← keysAt_congr htab hpend hfree hbyte] at h hk
  refine (State.byte_writeVa_ne v o i va right bs (atRest_congr htab hhbm hbyte (fun q hq => ?_) h) hk).trans (hbyte a ha)
  obtain ⟨j, -, rfl⟩ := List.mem_map.1 hq
  exact isHbm_vaKey v (va + j)

end SameTables

/-- Placing a task writes the handler's address to its CSA, and to no other sector. -/
theorem placeTask_byte {s v : State} {n t team : Nat} {x : Task} (hx : mfind v.tasks t = some x) (hr : RoomTaken s v)
    (h : AtRest s (s.keysAt true (s.csaOf t + 0xD100) 8)) {a : Nat} (ha : isHbm a = true)
    (hk : ∀ k ∈ s.keysAt true (s.csaOf t + 0xD100) 8, a / 32 ≠ k.1 / 32) :
    (v.placeTask n t team).byte a = s.byte a := by
  have hc : v.csaOf t = s.csaOf t := by
    unfold State.csaOf State.csaArray
    rw [entry_congr hr.tab hr.2]
  obtain ⟨z, ts, cs, bs, hplace, hlen, -⟩ := placeTask_eq (n := n) (team := team) hx
  rw [← hlen] at h hk
  rw [hplace, hc]
  refine byte_writeVa_of_sameTables ?_ ?_ ?_ ?_ ?_ _ _ _ _ bs ha h hk
  · exact hr.tab
  · exact hr.pend
  · exact hr.freeCtr
  · exact hr.hbm
  · exact hr.2

/-! ### A team that is placed -/

/-- A team of one task is placed: room is taken, the task begins on the slot found, and the team is resident there. -/
theorem placeTeam_lone {s : State} {team t k n : Nat} {d : Decl} (ht : (s.team team).tasks = [t]) (hn : s.slotsFor [(k, d)] = [n]) :
    ∃ v, RoomTaken s v ∧ s.placeTeam team [(k, d)] =
      ((v.placeTask n t team).setTeam team { s.team team with state := .resident, slots := [n] }).countCtx (s.team team).ctx 9 := by
  unfold State.placeTeam
  simp only [hn, ht, List.foldl_cons, List.foldl_nil, addNew, List.contains_nil, Bool.false_eq_true, if_false, List.nil_append,
    List.zip_cons_cons, List.zip_nil_right]
  refine ⟨_, ?_, rfl⟩
  split
  · exact roomTaken_takePlan _ _ _ _
  · exact RoomTaken.refl s

/-! What remains of a placement once its team is recorded and its die has no team with precedence. -/

theorem recorded_team (w : State) (team d c i : Nat) (y : Team) (o : Option Nat) :
    (((w.setTeam team y).countCtx c i).setPrecede d o).team team = y := w.team_setTeam team y

theorem recorded_slot (w : State) (team d c i m : Nat) (y : Team) (o : Option Nat) :
    (((w.setTeam team y).countCtx c i).setPrecede d o).slot m = w.slot m := rfl

theorem recorded_byte (w : State) (team d c i a : Nat) (y : Team) (o : Option Nat) :
    (((w.setTeam team y).countCtx c i).setPrecede d o).byte a = w.byte a := rfl

/-! ### Turns of the die scheduler (01 R33; 16 R354, R364) -/

/-- A lone candidate is served without a draw. -/
theorem teamPlacement_lone {s : State} {die : BitVec 3} {team : Nat} (hf : (s.die die.toNat).failed = false)
    (hp : (s.die die.toNat).precede = none) (hc : s.candidates die.toNat = [team]) :
    exec (.teamPlacement die) s = .next (s.serveTeam die.toNat team) := by
  change execTeamPlacement die s = _
  simp [execTeamPlacement, hf, hp, hc, State.dieDraw]

/-- Of several candidates the draw's winner is served, and the draw counter advances. -/
theorem teamPlacement_drawn {s : State} {die : BitVec 3} (hf : (s.die die.toNat).failed = false)
    (hp : (s.die die.toNat).precede = none) (hc : 1 < (s.candidates die.toNat).length) :
    exec (.teamPlacement die) s =
      .next ((s.setDie die.toNat { s.die die.toNat with draw := (s.die die.toNat).draw + 1#56 }).serveTeam die.toNat
        ((s.candidates die.toNat).getD (winner ((s.candidates die.toNat).map s.teamTickets)
          (drawValue (s.die die.toNat).seed 0 (s.die die.toNat).draw)) 0)) := by
  change execTeamPlacement die s = _
  have hl : ¬ ((s.candidates die.toNat).map s.teamTickets).length < 2 := by
    rw [List.length_map]
    omega
  unfold execTeamPlacement
  dsimp only
  rw [if_neg (by rw [hf]; exact Bool.false_ne_true)]
  split
  · next h => rw [hp] at h; cases h
  · split
    · next h => rw [h] at hc; simp at hc
    · simp only [State.dieDraw, if_neg hl]

/-- Settling on a team that takes precedence changes its die's record alone. -/
theorem setPrecede_die (s : State) (d : Nat) (o : Option Nat) : (s.setPrecede d o).die d = { s.die d with precede := o } :=
  s.die_setDie d _

theorem setPrecede_die_ne (s : State) {d k : Nat} (o : Option Nat) (h : k ≠ d) : (s.setPrecede d o).die k = s.die k :=
  mget_mput_ne _ _ _ h

/-! ### A pre-empted team resumes (20 R411, R414) -/

/-- Without a pending latch a slot that resumes keeps its registers, its program counter and its job. -/
theorem resume_of_no_latch {s : State} {n : Nat} (h : (s.slot n).anyLatch = false) :
    ∃ f : Slot → Slot, s.resume n none = s.upSlot n f ∧ ∀ x, (f x).r = x.r ∧ (f x).pc = x.pc ∧ (f x).job = x.job := by
  unfold State.resume
  rw [h, if_neg Bool.false_ne_true]
  refine ⟨_, rfl, fun x => ?_⟩
  dsimp only
  split <;> exact ⟨rfl, rfl, rfl⟩

/-- A slot stands as it did, or it runs on where it stood. -/
def RunsOn (x y : Slot) : Prop := y = x ∨ y.job.preempted = false ∧ y.r = x.r ∧ y.pc = x.pc ∧ y.job.team = x.job.team

theorem RunsOn.trans {x y z : Slot} (h : RunsOn x y) (g : RunsOn y z) : RunsOn x z := by
  rcases g with rfl | ⟨gp, gr, gpc, gt⟩
  · exact h
  · rcases h with rfl | ⟨-, hr, hpc, ht⟩
    · exact .inr ⟨gp, gr, gpc, gt⟩
    · exact .inr ⟨gp, gr.trans hr, gpc.trans hpc, gt.trans ht⟩

theorem RunsOn.not_preempted {x y : Slot} (h : RunsOn x y) (hx : x.job.preempted = false) : y.job.preempted = false := by
  rcases h with rfl | ⟨hp, -⟩
  · exact hx
  · exact hp

/-- What the resumption of some slots of a team leaves: memory and teams, and every slot stands or runs on. -/
def Resuming (s t : State) : Prop := t.mem = s.mem ∧ t.teams = s.teams ∧ ∀ m, RunsOn (s.slot m) (t.slot m)

theorem Resuming.refl (s : State) : Resuming s s := ⟨rfl, rfl, fun _ => .inl rfl⟩

theorem Resuming.trans {s t u : State} (h : Resuming s t) (g : Resuming t u) : Resuming s u :=
  ⟨g.1.trans h.1, g.2.1.trans h.2.1, fun m => (h.2.2 m).trans (g.2.2 m)⟩

/-- One slot of a team resumes, where it was pre-empted. -/
def State.resumeSlot (team : Nat) (s : State) (n : Nat) : State :=
  if (s.slot n).job.team = team && (s.slot n).job.preempted then
    (s.upSlot n fun x => { x with job := { x.job with preempted := false } }).resume n none
  else s

/-- A slot that resumes runs on, and if it is the team's it is not pre-empted any more. -/
theorem resumeSlot_resuming {s : State} {team n : Nat} (hn : (s.slot n).job.preempted = true → (s.slot n).anyLatch = false) :
    Resuming s (s.resumeSlot team n) ∧ ((s.slot n).job.team = team → ((s.resumeSlot team n).slot n).job.preempted = false) := by
  unfold State.resumeSlot
  split
  · next h =>
    simp only [Bool.and_eq_true, decide_eq_true_eq] at h
    have hl : ((s.upSlot n fun x => { x with job := { x.job with preempted := false } }).slot n).anyLatch = false := by
      rw [State.slot_upSlot]
      exact hn h.2
    obtain ⟨f, hf, hkeep⟩ := resume_of_no_latch hl
    rw [hf]
    obtain ⟨hr, hpc, hjob⟩ := hkeep { s.slot n with job := { (s.slot n).job with preempted := false } }
    refine ⟨⟨rfl, rfl, fun m => ?_⟩, fun _ => ?_⟩
    · by_cases hm : m = n
      · subst hm
        rw [State.slot_upSlot, State.slot_upSlot]
        exact .inr ⟨by rw [hjob], hr, hpc, by rw [hjob]⟩
      · rw [State.slot_upSlot_ne _ _ hm, State.slot_upSlot_ne _ _ hm]
        exact .inl rfl
    · rw [State.slot_upSlot, State.slot_upSlot, hjob]
  · next h =>
    refine ⟨Resuming.refl s, fun ht => ?_⟩
    simpa [ht] using h

/-- The slots of a list resume one after the other. -/
theorem foldl_resumeSlot_resuming {s : State} {team : Nat} {l : List Nat}
    (hl : ∀ n ∈ l, (s.slot n).job.preempted = true → (s.slot n).anyLatch = false) :
    Resuming s (l.foldl (State.resumeSlot team) s) ∧
      ∀ n ∈ l, (s.slot n).job.team = team → ((l.foldl (State.resumeSlot team) s).slot n).job.preempted = false := by
  induction l generalizing s with
  | nil => exact ⟨Resuming.refl s, by simp⟩
  | cons a l ih =>
    obtain ⟨h1, ha⟩ := resumeSlot_resuming (team := team) (hl a List.mem_cons_self)
    have later : ∀ n ∈ l, ((s.resumeSlot team a).slot n).job.preempted = true → ((s.resumeSlot team a).slot n).anyLatch = false := by
      intro n hn hp
      rcases h1.2.2 n with e | ⟨e, -⟩
      · rw [e] at hp ⊢
        exact hl n (List.mem_cons_of_mem a hn) hp
      · rw [e] at hp
        cases hp
    obtain ⟨h2, hrest⟩ := ih later
    rw [List.foldl_cons]
    refine ⟨h1.trans h2, fun n hn ht => ?_⟩
    rcases List.mem_cons.1 hn with rfl | hn
    · exact (h2.2.2 n).not_preempted (ha ht)
    · refine hrest n hn ?_
      rcases h1.2.2 n with e | ⟨-, -, -, e⟩ <;> rw [e] <;> exact ht

/-- A pre-empted team is resident again; its slots run on, nothing else of a slot changes. -/
theorem resumeTeam_resuming {s : State} {team : Nat} (hl : ∀ n ∈ (s.team team).slots, (s.slot n).anyLatch = false) :
    Resuming (s.setTeam team { s.team team with state := .resident }) (s.resumeTeam team) ∧
      ∀ n ∈ (s.team team).slots, (s.slot n).job.team = team → ((s.resumeTeam team).slot n).job.preempted = false :=
  foldl_resumeSlot_resuming (s := s.setTeam team { s.team team with state := .resident }) fun n hn _ => hl n hn

/-! ### Starvation (16 R364) -/

/-- What `minOf` gives is an element of the list. -/
theorem mem_of_minOf {l : List Nat} {c : Nat} (h : minOf l = some c) : c ∈ l := by
  induction l generalizing c with
  | nil => cases h
  | cons b l ih =>
    unfold minOf at h
    split at h
    · cases h
      exact List.mem_cons_self
    · next d hd =>
      cases h
      split
      · exact List.mem_cons_self
      · exact List.mem_cons_of_mem b (ih hd)

/-- The smallest element of a list. -/
theorem minOf_eq_some {l : List Nat} {a : Nat} (ha : a ∈ l) (h : ∀ b ∈ l, a ≤ b) : minOf l = some a := by
  induction l generalizing a with
  | nil => simp at ha
  | cons b l ih =>
    unfold minOf
    split
    · next hn =>
      rcases List.mem_cons.1 ha with rfl | ha
      · rfl
      · rw [ih ha fun c hc => h c (List.mem_cons_of_mem b hc)] at hn
        cases hn
    · next d hd =>
      have hb : a ≤ b := h b List.mem_cons_self
      have had : a ≤ d := h d (List.mem_cons_of_mem b (mem_of_minOf hd))
      rcases List.mem_cons.1 ha with rfl | ha
      · rw [if_pos had]
      · obtain rfl : a = d := Option.some.inj ((ih ha fun c hc => h c (List.mem_cons_of_mem b hc)).symm.trans hd)
        split
        · exact congrArg some (by omega)
        · rfl

/-- A ready team of a die that does not fit waits. -/
def Waits (s : State) (d j : Nat) : Prop := (∃ t, (j, t) ∈ s.teams ∧ t.die = d) ∧ s.teamReady j = true ∧ s.teamFits j = false

/-- The teams that wait on a die, in the order of their table. -/
def State.waiters (s : State) (d : Nat) : List Nat :=
  ((s.teams.filter fun (e : Nat × Team) => decide (e.2.die = d)).map Prod.fst).filter fun j => s.teamReady j && !s.teamFits j

theorem mem_waiters {s : State} {d j : Nat} : j ∈ s.waiters d ↔ Waits s d j := by
  simp [State.waiters, Waits]

/-- A team that waited longest takes precedence once 2^STARVELOG cycles have passed. -/
theorem starvationExpiry_late {s : State} {die : BitVec 3} {t : Nat} (hp : (s.die die.toNat).precede = none)
    (hm : minOf ((s.waiters die.toNat).map fun j => (s.team j).since) = some t)
    (hl : t + 2 ^ natBits (s.entry 0x13 die.toNat) 16 12 ≤ s.dcc.toNat) :
    exec (.starvationExpiry die) s =
      .next (s.setPrecede die.toNat ((s.waiters die.toNat).find? fun j => decide ((s.team j).since = t))) := by
  change execStarvationExpiry die s = _
  unfold execStarvationExpiry
  unfold State.waiters at hm ⊢
  dsimp only
  rw [hp, hm]
  dsimp only
  rw [if_pos hl]

/-- Where team k has waited longest, it or one that has waited as long takes precedence. -/
theorem starvationExpiry_oldest {s : State} {die : BitVec 3} {k : Nat} (hp : (s.die die.toNat).precede = none)
    (hk : Waits s die.toNat k) (hmin : ∀ j, Waits s die.toNat j → (s.team k).since ≤ (s.team j).since)
    (hlate : (s.team k).since + 2 ^ natBits (s.entry 0x13 die.toNat) 16 12 ≤ s.dcc.toNat) :
    ∃ j, exec (.starvationExpiry die) s = .next (s.setPrecede die.toNat (some j)) ∧ Waits s die.toNat j ∧
      (s.team j).since = (s.team k).since := by
  have hm : minOf ((s.waiters die.toNat).map fun j => (s.team j).since) = some (s.team k).since := by
    refine minOf_eq_some (List.mem_map_of_mem (mem_waiters.2 hk)) fun b hb => ?_
    obtain ⟨j, hj, rfl⟩ := List.mem_map.1 hb
    exact hmin j (mem_waiters.1 hj)
  obtain ⟨j, hj⟩ : ∃ j, ((s.waiters die.toNat).find? fun j => decide ((s.team j).since = (s.team k).since)) = some j :=
    Option.isSome_iff_exists.1 (List.find?_isSome.2 ⟨k, mem_waiters.2 hk, decide_eq_true rfl⟩)
  refine ⟨j, ?_, mem_waiters.1 (List.mem_of_find?_eq_some hj), ?_⟩
  · rw [starvationExpiry_late hp hm hlate, hj]
  · simpa using List.find?_some hj

/-! ### The statement's clauses -/

/-- A lone waiting team of one task that fits is placed on a vacant slot. -/
theorem teamPlacement_places {s : State} {die : BitVec 3} {team t : Nat} {x : Task} {l : List (Nat × Decl)}
    (hf : (s.die die.toNat).failed = false) (hp : (s.die die.toNat).precede = none) (hc : s.candidates die.toNat = [team])
    (hw : (s.team team).state = .waiting) (ht : (s.team team).tasks = [t]) (hx : mfind s.tasks t = some x)
    (hl : s.placeOf false team = some l) :
    ∃ u n, exec (.teamPlacement die) s = .next u ∧ (s.slot n).vacant = true ∧ (u.team team).state = .resident ∧
      (u.team team).slots = [n] ∧ (∀ m, m ≠ n → u.slot m = s.slot m) ∧ Begins s t x (u.slot n) ∧
      (AtRest s (s.keysAt true (s.csaOf t + 0xD100) 8) → ∀ a, 2 ^ 40 ≤ a →
        (∀ k ∈ s.keysAt true (s.csaOf t + 0xD100) 8, a / 32 ≠ k.1 / 32) → u.byte a = s.byte a) := by
  obtain ⟨k, n, rfl, hn, hv⟩ := placeOf_lone ht hx hl
  obtain ⟨v, hr, hplace⟩ := placeTeam_lone ht hn
  have hx' : mfind v.tasks t = some x := by rw [hr.tasks, hx]
  have hslot : ∀ m, v.slot m = s.slot m := fun m => by unfold State.slot; rw [hr.slots]
  have hcsa : v.csaArray (t / 2048) = s.csaArray (t / 2048) := by
    unfold State.csaArray
    rw [entry_congr hr.tab hr.2]
  have hserve : s.serveTeam die.toNat team = (s.placeTeam team [(k, x.tq.decl)]).setPrecede die.toNat none := by
    unfold State.serveTeam
    rw [hw, hl]
  obtain ⟨hbegin, hothers⟩ := placeTask_slots (n := n) (team := team) hx'
  unfold Begins at hbegin
  rw [hcsa] at hbegin
  rw [hplace] at hserve
  refine ⟨_, n, (teamPlacement_lone hf hp hc).trans (congrArg Host.Outcome.next hserve), hv, ?_, ?_, fun m hm => ?_, ?_,
    fun hrest a ha hk => ?_⟩
  · rw [recorded_team]
  · rw [recorded_team]
  · rw [recorded_slot, hothers m hm, hslot m]
  · rw [recorded_slot]
    exact hbegin
  · rw [recorded_byte]
    exact placeTask_byte hx' hr hrest (decide_eq_true ha) hk

/-- A lone pre-empted team runs on where it stands. -/
theorem teamPlacement_resumes {s : State} {die : BitVec 3} {team : Nat} (hf : (s.die die.toNat).failed = false)
    (hp : (s.die die.toNat).precede = none) (hc : s.candidates die.toNat = [team]) (hw : (s.team team).state = .preempted)
    (hl : ∀ n ∈ (s.team team).slots, (s.slot n).anyLatch = false) :
    ∃ u, exec (.teamPlacement die) s = .next u ∧ (u.team team).state = .resident ∧ u.mem = s.mem ∧
      ∀ n, (n ∈ (s.team team).slots → (s.slot n).job.team = team → (u.slot n).job.preempted = false) ∧
        (u.slot n).r = (s.slot n).r ∧ (u.slot n).pc = (s.slot n).pc := by
  have hserve : s.serveTeam die.toNat team = (s.resumeTeam team).setPrecede die.toNat none := by
    unfold State.serveTeam
    rw [hw]
  obtain ⟨⟨hmem, hteams, hruns⟩, hclear⟩ := resumeTeam_resuming hl
  refine ⟨_, (teamPlacement_lone hf hp hc).trans (congrArg Host.Outcome.next hserve), ?_, hmem, fun n => ⟨hclear n, ?_⟩⟩
  · change (mget {} (s.resumeTeam team).teams team).state = _
    rw [hteams]
    exact congrArg Team.state (s.team_setTeam team _)
  · rcases hruns n with e | ⟨-, hreg, hpc, -⟩
    · exact ⟨congrArg Slot.r e, congrArg Slot.pc e⟩
    · exact ⟨hreg, hpc⟩

/-- A draw's winner that is swapped out takes precedence. -/
theorem teamPlacement_precedes {s : State} {die : BitVec 3} {w : Nat} (hf : (s.die die.toNat).failed = false)
    (hp : (s.die die.toNat).precede = none) (hc : 1 < (s.candidates die.toNat).length)
    (hw : w = (s.candidates die.toNat).getD (winner ((s.candidates die.toNat).map s.teamTickets)
      (drawValue (s.die die.toNat).seed 0 (s.die die.toNat).draw)) 0) (hs : (s.team w).state = .swapped) :
    ∃ u, exec (.teamPlacement die) s = .next u ∧ u = { s with dies := u.dies } ∧
      u.die die.toNat = { s.die die.toNat with draw := (s.die die.toNat).draw + 1#56, precede := some w } ∧
      ∀ k, k ≠ die.toNat → u.die k = s.die k := by
  let x := { s.die die.toNat with draw := (s.die die.toNat).draw + 1#56 }
  have hserve : (s.setDie die.toNat x).serveTeam die.toNat w = (s.setDie die.toNat x).setPrecede die.toNat (some w) := by
    have hs' : ((s.setDie die.toNat x).team w).state = .swapped := hs
    unfold State.serveTeam
    rw [hs']
  have hexec := teamPlacement_drawn hf hp hc
  rw [← hw, hserve] at hexec
  refine ⟨_, hexec, rfl, ?_, fun k hk => ?_⟩
  · rw [setPrecede_die, State.die_setDie]
  · exact (setPrecede_die_ne _ _ hk).trans (mget_mput_ne _ _ _ hk)

/-- Settles O42: a lone team is placed or resumes, and precedence goes to a draw's winner or to the team that waited longest. -/
theorem teamPlacement : Obligations.TeamPlacement := by
  refine ⟨fun s die team t x l hf hp hc hw ht hx hl => teamPlacement_places hf hp hc hw ht hx hl,
    fun s die team hf hp hc hw hl => teamPlacement_resumes hf hp hc hw hl,
    fun s die hf hp hc hs => teamPlacement_precedes hf hp hc rfl hs, fun s die k hp hk hmin hlate => ?_⟩
  obtain ⟨j, hj, hwaits, hsince⟩ := starvationExpiry_oldest hp hk hmin hlate
  exact ⟨_, j, hj, hwaits, hsince, rfl, setPrecede_die s _ _, fun k hk => setPrecede_die_ne s _ hk⟩

end Sys2Proof.Machine

/-! SUPPORT. The laws of VX results (04 R103; 06 R142): what a register built from lanes, from bits or from packed fields holds, and what a
command that is ready to issue leaves. -/
namespace Sys2Proof.Machine

/-! ### Registers built from fields -/

/-- A register filled with the first m of a row of fields, the lowest first. -/
def packFields {n : Nat} (g : Nat → BitVec n) (m : Nat) : BitVec 2048 :=
  upTo m (fun j (acc : BitVec 2048) => acc ||| ((g j).setWidth 2048 <<< (n * j))) 0#2048

theorem ofLanes_eq_packFields (f : Nat → W32) : ofLanes f = packFields f 64 := rfl

theorem getLsbD_packFields {n : Nat} (g : Nat → BitVec n) (m i : Nat) :
    (packFields g m).getLsbD i = (decide (i < 2048) && decide (i < n * m) && (g (i / n)).getLsbD (i % n)) := by
  induction m with
  | zero => simp [packFields, upTo]
  | succ m ih =>
    have hstep : packFields g (m + 1) = packFields g m ||| ((g m).setWidth 2048 <<< (n * m)) := rfl
    have hmul : n * (m + 1) = n * m + n := Nat.mul_succ n m
    rw [hstep, BitVec.getLsbD_or, ih, BitVec.getLsbD_shiftLeft, BitVec.getLsbD_setWidth, hmul]
    rcases Nat.lt_or_ge i (n * m) with hlow | hge
    · simp [hlow, Nat.lt_add_right n hlow]
    · rcases Nat.lt_or_ge i (n * m + n) with hin | hbeyond
      · have hdiv : i / n = m := Nat.div_eq_of_lt_le (by rwa [Nat.mul_comm]) (by rwa [Nat.mul_comm, hmul])
        have hmod : i % n = i - n * m := by rw [Nat.mod_eq_sub, hdiv]
        by_cases hw : i < 2048
        · simp [hw, hin, Nat.not_lt.2 hge, hdiv, hmod, Nat.lt_of_le_of_lt (Nat.sub_le i (n * m)) hw]
        · simp [hw]
      · have hout : (g m).getLsbD (i - n * m) = false := BitVec.getLsbD_of_ge _ _ (by omega)
        simp [Nat.not_lt.2 hge, Nat.not_lt.2 hbeyond, hout]

/-- Each field stands at its place. -/
theorem extractLsb'_packFields {n : Nat} (g : Nat → BitVec n) {m j : Nat} (hj : j < m) (hm : n * m ≤ 2048) :
    (packFields g m).extractLsb' (n * j) n = g j := by
  refine BitVec.eq_of_getLsbD_eq fun i hi => ?_
  have hend : n * j + n ≤ n * m := Nat.mul_le_mul_left n hj
  have hdiv : (n * j + i) / n = j := by rw [Nat.mul_add_div (by omega), Nat.div_eq_of_lt hi, Nat.add_zero]
  have hmod : (n * j + i) % n = i := by rw [Nat.mul_add_mod, Nat.mod_eq_of_lt hi]
  rw [BitVec.getLsbD_extractLsb', getLsbD_packFields, hdiv, hmod]
  simp [hi, show n * j + i < 2048 by omega, show n * j + i < n * m by omega]

/-- Beyond its fields the register is zero. -/
theorem getLsbD_packFields_beyond {n : Nat} (g : Nat → BitVec n) {m i : Nat} (h : n * m ≤ i) : (packFields g m).getLsbD i = false := by
  simp [getLsbD_packFields, Nat.not_lt.2 h]

/-- A register reads, lane by lane, what it was built from. -/
theorem lane_ofLanes (f : Nat → W32) {j : Nat} (hj : j < 64) : lane (ofLanes f) j = f j :=
  ofLanes_eq_packFields f ▸ extractLsb'_packFields f hj (by decide)

theorem lane_spread (x : W32) {j : Nat} (hj : j < 64) : lane (spread x) j = x := lane_ofLanes _ hj

/-- A register built from the list of a function's values on the lanes. -/
theorem lane_ofList_map (f : Nat → W32) {j : Nat} (hj : j < 64) : lane (ofList ((List.range 64).map f)) j = f j := by
  rw [ofList, lane_ofLanes _ hj, List.getD_eq_getElem?_getD, List.getElem?_map, List.getElem?_range hj]
  rfl

/-- A K register built from a predicate on lanes holds the predicate. -/
theorem getLsbD_laneBits (p : Nat → Bool) {j : Nat} (hj : j < 64) : (laneBits p).getLsbD j = p j := by
  have hbits : ∀ m, (upTo m (fun i (w : Word) => if p i then w ||| (1#64 <<< i) else w) 0#64).getLsbD j = (decide (j < m) && p j) := by
    intro m
    induction m with
    | zero => simp [upTo]
    | succ m ih =>
      have hone : (1#64 <<< m).getLsbD j = decide (j = m) := by
        rw [BitVec.getLsbD_shiftLeft, BitVec.getLsbD_one]
        grind
      rw [upTo, apply_ite (BitVec.getLsbD · j), BitVec.getLsbD_or, ih, hone]
      grind
  rw [laneBits, hbits, decide_eq_true hj, Bool.true_and]

/-- A lane is the lowest set bit where its bit is set and none below it is. -/
theorem lowestBit_eq_iff (a : Word) {j : Nat} (hj : j < 64) :
    lowestBit a = j ↔ a.getLsbD j = true ∧ ∀ i < j, a.getLsbD i = false := by
  unfold lowestBit
  cases hf : (List.range 64).find? fun i => a.getLsbD i with
  | none =>
    have hzero := List.find?_range_eq_none.1 hf j hj
    constructor
    · intro h
      exact absurd h (Nat.ne_of_gt hj)
    · rintro ⟨hset, -⟩
      simp [hset] at hzero
  | some i =>
    obtain ⟨hset, -, hbelow⟩ := List.find?_range_eq_some.1 hf
    simp only [Option.getD_some]
    constructor
    · rintro rfl
      exact ⟨hset, fun n hn => by simpa using hbelow n hn⟩
    · rintro ⟨hset', hbelow'⟩
      rcases Nat.lt_trichotomy i j with h | h | h
      · rw [hbelow' i h] at hset
        cases hset
      · exact h
      · have := hbelow j h
        simp [hset'] at this

/-- Of a word ANDed with its negation the lowest set bit alone remains. -/
theorem getLsbD_and_neg (a : Word) {j : Nat} (hj : j < 64) : (a &&& (0#64 - a)).getLsbD j = decide (lowestBit a = j) := by
  rw [BitVec.zero_sub, BitVec.getLsbD_and, BitVec.getLsbD_neg, Bool.eq_iff_iff, decide_eq_true_iff, lowestBit_eq_iff a hj]
  cases a.getLsbD j <;> simp [hj]

/-! ### Commands that are ready -/

/-- A command that is ready, and whose body gives a state and results, issues from that state with these results and retires. -/
theorem runCmd_of_ready {s t : State} {e : Engine} {k : Ctl} {en : Entry} {body : State → Entry → M Done} {rs : List Result}
    (h : Ready s e k en) (hb : body s en = .ok { s := t, results := rs }) :
    s.runCmd e k body = .next (t.commit e k en rs true true) := by
  obtain ⟨rfl, hheld, hbacked, hguard, htag⟩ := h
  simp only [State.runCmd, State.issueCmd, hheld, hbacked, hguard, htag, hb, Bool.or_self, Bool.not_true, Bool.false_eq_true, if_false]

variable {s : State} {k : Ctl} {en : Entry}

theorem vxK_of_ready (h : Ready s .vx k en) (d : BitVec 3) (f : Slot → Word) :
    vxK k d f s = .next (s.commit .vx k en [⟨.k d, (f s.me).setWidth 2048, BitVec.allOnes 64⟩] true true) :=
  runCmd_of_ready h rfl

theorem vxAll_of_ready (h : Ready s .vx k en) (d : BitVec 5) (f : Slot → BitVec 2048) :
    vxAll k d f s = .next (s.commit .vx k en [⟨.v d, f s.me, BitVec.allOnes 64⟩] true true) :=
  runCmd_of_ready h rfl

theorem vxLanes_of_ready (h : Ready s .vx k en) (d : BitVec 5) (m : BitVec 3) (f : Slot → Entry → BitVec 2048) :
    vxLanes k d m f s = .next (s.commit .vx k en [⟨.v d, f s.me en, s.me.getK m⟩] true true) :=
  runCmd_of_ready h rfl

end Sys2Proof.Machine

/-! SUPPORT. The laws of VX mask operations, packing, reductions and scans (02 R59 to R61; 06 R147, R148, R150, R154). -/
namespace Sys2Proof.Machine

/-! ### The meaning of each command -/

theorem exec_vcmp : ∀ k t cc d m a b s, exec (.vcmp k t cc d m a b) s = execVcmp k t cc d m a b s := by intros; rfl
theorem exec_kand : ∀ k d a b s, exec (.kand k d a b) s = execKand k d a b s := by intros; rfl
theorem exec_kor : ∀ k d a b s, exec (.kor k d a b) s = execKor k d a b s := by intros; rfl
theorem exec_kxor : ∀ k d a b s, exec (.kxor k d a b) s = execKxor k d a b s := by intros; rfl
theorem exec_knot : ∀ k d a s, exec (.knot k d a) s = execKnot k d a s := by intros; rfl
theorem exec_kfirst : ∀ k d a s, exec (.kfirst k d a) s = execKfirst k d a s := by intros; rfl
theorem exec_vredsum : ∀ k t d m a s, exec (.vredsum k t d m a) s = execVredsum k t d m a s := by intros; rfl
theorem exec_vredmax : ∀ k t d m a s, exec (.vredmax k t d m a) s = execVredmax k t d m a s := by intros; rfl
theorem exec_vredmin : ∀ k t d m a s, exec (.vredmin k t d m a) s = execVredmin k t d m a s := by intros; rfl
theorem exec_vscan : ∀ k t d m a s, exec (.vscan k t d m a) s = execVscan k t d m a s := by intros; rfl
theorem exec_vpack : ∀ k w d m a b s, exec (.vpack k w d m a b) s = execVpack k w d m a b s := by intros; rfl

/-! ### Lane operations -/

/-- The integer reading of a lane, signed or not, wraps back to the lane. -/
theorem ofInt_vint (t : VTy) (a : W32) : BitVec.ofInt 32 (vint t a) = a := by
  unfold vint
  split
  · rw [BitVec.ofInt_natCast, BitVec.ofNat_toNat, BitVec.setWidth_eq]
  · exact BitVec.ofInt_toInt

theorem vaddOp_eq_sumLane (t : VTy) (a b : W32) : vaddOp t .rne false a b = sumLane t .rne false a b := by
  unfold vaddOp sumLane
  split
  · rfl
  · have hwrap : vintRes t false (vint t a + vint t b) = BitVec.ofInt 32 (vint t a + vint t b) := rfl
    rw [hwrap, BitVec.ofInt_add, ofInt_vint, ofInt_vint]
    rfl

theorem addF_eq_sumLane (t : VTy) : addF t = sumLane t .rne false :=
  funext fun a => funext fun b => vaddOp_eq_sumLane t a b

theorem vmaxOp_eq_maxLane (t : VTy) : vmaxOp t = maxLane t := rfl

theorem vminOp_eq_minLane (t : VTy) : vminOp t = minLane t := rfl

theorem addId_eq_idSum (t : VTy) : addId t = wholeWord.idSum t := by
  cases t <;> rfl

theorem canonLane_eq_canonical (t : VTy) (x : W32) : canonLane t x = wholeWord.canonical t x := by
  unfold canonLane wholeWord.canonical
  cases t <;> rfl

/-- The lanes that a fold takes: the active elements, and the identity for the others. -/
theorem activeElems_eq_leaf (x : Slot) (m : BitVec 3) (a : BitVec 5) (t : VTy) (e : W32) :
    activeElems t (x.getK m) (x.getV a) e = (List.range 64).map (wholeWord.leaf x m a t e) := by
  refine List.map_congr_left fun i _ => ?_
  unfold wholeWord.leaf velemBits
  cases t <;> rfl

/-! ### The balanced tree (02 R59) -/

section Tree
variable (f : W32 → W32 → W32)

theorem pairUp_map_range (g : Nat → W32) (m : Nat) :
    pairUp f ((List.range (2 * m)).map g) = (List.range m).map fun j => f (g (2 * j)) (g (2 * j + 1)) := by
  induction m generalizing g with
  | zero => rfl
  | succ m ih =>
    rw [Nat.mul_succ, List.range_succ_eq_map, List.range_succ_eq_map, List.range_succ_eq_map]
    simp only [List.map_cons, List.map_map, pairUp]
    exact congrArg (f (g 0) (g 1) :: ·) (ih fun j => g (j + 2))

/-- From level l on, n levels more combine 2^n nodes into one. -/
theorem treeFold_level (leaf : Nat → W32) (n l : Nat) :
    treeFold f n ((List.range (2 ^ n)).map (treeOf f leaf l)) = [treeOf f leaf (l + n) 0] := by
  induction n generalizing l with
  | zero => rfl
  | succ n ih =>
    have hnode : (fun j => f (treeOf f leaf l (2 * j)) (treeOf f leaf l (2 * j + 1))) = treeOf f leaf (l + 1) := rfl
    rw [treeFold, Nat.pow_succ', pairUp_map_range, hnode, ih, Nat.add_right_comm, Nat.add_assoc]

/-- The fold of 64 lanes is the root of the balanced tree over them. -/
theorem treeFold_lanes (leaf : Nat → W32) : treeFold f 6 ((List.range 64).map leaf) = [treeOf f leaf 6 0] :=
  treeFold_level f leaf 6 0

end Tree

/-! ### The doubling steps (02 R60) -/

/-- A doubling step on the lanes after d steps gives the lanes after one step more. -/
theorem scanStep_lanes (t : VTy) (leaf : Nat → W32) (d : Nat) :
    scanStep t d ((List.range 64).map (scanOf (sumLane t .rne false) leaf d)) =
      (List.range 64).map (scanOf (sumLane t .rne false) leaf (d + 1)) := by
  have hlane : ∀ j, j < 64 → ((List.range 64).map (scanOf (sumLane t .rne false) leaf d)).getD j 0#32 =
      scanOf (sumLane t .rne false) leaf d j := fun j hj => by simp [List.getD_eq_getElem?_getD, hj]
  unfold scanStep below
  rw [List.length_map, List.length_range]
  refine List.map_congr_left fun j hj => ?_
  have hj : j < 64 := List.mem_range.1 hj
  rw [hlane j hj, hlane (j - 2 ^ d) (Nat.lt_of_le_of_lt (Nat.sub_le j _) hj), addF_eq_sumLane]
  rfl

/-- Six doubling steps over 64 lanes. -/
theorem scan_lanes (t : VTy) (leaf : Nat → W32) :
    scan t ((List.range 64).map leaf) = (List.range 64).map (scanOf (sumLane t .rne false) leaf 6) := by
  have hzero : scan t ((List.range 64).map leaf) = scan t ((List.range 64).map (scanOf (sumLane t .rne false) leaf 0)) := rfl
  rw [hzero]
  simp only [scan, scanStep_lanes]

/-! ### Packing (06 R150) -/

/-- Element j of the packed sources. -/
def packedElem (w : PWidth) (x y : BitVec 2048) (j : Nat) : BitVec (packBits w) :=
  (if j < 64 then lane x j else lane y (j - 64)).setWidth (packBits w)

theorem packedElem_low (w : PWidth) (x y : BitVec 2048) {j : Nat} (hj : j < 64) :
    packedElem w x y j = x.extractLsb' (32 * j) (packBits w) := by
  rw [packedElem, if_pos hj]
  exact BitVec.setWidth_extractLsb'_of_le (by cases w <;> decide)

theorem packedElem_high (w : PWidth) (x y : BitVec 2048) (j : Nat) :
    packedElem w x y (64 + j) = y.extractLsb' (32 * j) (packBits w) := by
  rw [packedElem, if_neg (by omega), Nat.add_sub_cancel_left]
  exact BitVec.setWidth_extractLsb'_of_le (by cases w <;> decide)

/-- The 128 elements fit in a register, each at its place. -/
theorem extractLsb'_packedElems (w : PWidth) (x y : BitVec 2048) {j : Nat} (hj : j < 128) :
    (packFields (packedElem w x y) 128).extractLsb' (packBits w * j) (packBits w) = packedElem w x y j :=
  extractLsb'_packFields _ hj (by cases w <;> decide)

section Issue
variable {s : State} {k : Ctl} {en : Entry}

/-- VPACK leaves its elements as a row of fields. -/
theorem vpack_of_ready (h : Ready s .vx k en) (w : PWidth) (d : BitVec 5) (m : BitVec 3) (a b : BitVec 5) :
    exec (.vpack k w d m a b) s = .next (s.commit .vx k en
      [⟨.v d, packFields (packedElem w (s.me.getV a) (s.me.getV b)) 128, s.me.getK m⟩] true true) := by
  have hpack : execVpack k w d m a b s =
      vxLanes k d m (fun x _ => packFields (packedElem w (x.getV a) (x.getV b)) 128) s := by
    simp only [execVpack, packFields, packedElem, ← BitVec.toNat_setWidth, BitVec.ofNat_toNat]
  exact (exec_vpack ..).trans (hpack.trans (vxLanes_of_ready h d m _))

/-! ### The statement's clauses -/

/-- A command that writes a K register leaves the bits of its rule. -/
theorem maskWord_commits {i : Instr} {d : BitVec 3} {f : Nat → Bool} (hi : maskWord s.me i = some (k, d, f)) (h : Ready s .vx k en) :
    ∃ v : Word, (∀ j, j < 64 → v.getLsbD j = f j) ∧
      exec i s = .next (s.commit .vx k en [⟨.k d, v.setWidth 2048, BitVec.allOnes 64⟩] true true) := by
  unfold maskWord at hi
  split at hi <;> cases hi
  case h_1 t cc m a b => exact ⟨_, fun j hj => getLsbD_laneBits _ hj, (exec_vcmp ..).trans (vxK_of_ready h d _)⟩
  case h_2 a b => exact ⟨_, fun j _ => BitVec.getLsbD_and, (exec_kand ..).trans (vxK_of_ready h d _)⟩
  case h_3 a b => exact ⟨_, fun j _ => BitVec.getLsbD_or, (exec_kor ..).trans (vxK_of_ready h d _)⟩
  case h_4 a b => exact ⟨_, fun j _ => BitVec.getLsbD_xor, (exec_kxor ..).trans (vxK_of_ready h d _)⟩
  case h_5 a => exact ⟨_, fun j hj => by simp [hj], (exec_knot ..).trans (vxK_of_ready h d _)⟩
  case h_6 a => exact ⟨_, fun j hj => getLsbD_and_neg _ hj, (exec_kfirst ..).trans (vxK_of_ready h d _)⟩

/-- A fold of the lanes leaves the root of its tree in every lane. -/
theorem lane_spread_treeFold (op : W32 → W32 → W32) (x : Slot) (t : VTy) (m : BitVec 3) (a : BitVec 5) (e : W32) {j : Nat} (hj : j < 64) :
    lane (spread ((treeFold op 6 (activeElems t (x.getK m) (x.getV a) e)).getD 0 0#32)) j =
      treeOf op (wholeWord.leaf x m a t e) 6 0 := by
  rw [lane_spread _ hj, activeElems_eq_leaf, treeFold_lanes]
  rfl

/-- A scan of the lanes leaves each lane after six steps, a NaN canonical. -/
theorem lane_ofList_scan (x : Slot) (t : VTy) (m : BitVec 3) (a : BitVec 5) {j : Nat} (hj : j < 64) :
    lane (ofList ((scan t (activeElems t (x.getK m) (x.getV a) (addId t))).map (canonLane t))) j =
      wholeWord.canonical t (scanOf (sumLane t .rne false) (wholeWord.leaf x m a t (wholeWord.idSum t)) 6 j) := by
  rw [activeElems_eq_leaf, scan_lanes, List.map_map, lane_ofList_map _ hj, Function.comp_apply, canonLane_eq_canonical, addId_eq_idSum]

/-- A command that writes every lane leaves the lanes of its rule. -/
theorem wholeWord_commits {i : Instr} {d : BitVec 5} {f : Nat → W32} (hi : wholeWord s.me i = some (k, d, f)) (h : Ready s .vx k en) :
    ∃ v : BitVec 2048, (∀ j, j < 64 → lane v j = f j) ∧
      exec i s = .next (s.commit .vx k en [⟨.v d, v, BitVec.allOnes 64⟩] true true) := by
  unfold wholeWord at hi
  split at hi <;> cases hi
  case h_1 t m a =>
    refine ⟨_, fun j hj => ?_, (exec_vredsum ..).trans (vxAll_of_ready h d _)⟩
    rw [lane_spread_treeFold _ _ _ _ _ _ hj, addF_eq_sumLane, addId_eq_idSum]
  case h_2 t m a =>
    refine ⟨_, fun j hj => ?_, (exec_vredmax ..).trans (vxAll_of_ready h d _)⟩
    rw [lane_spread_treeFold _ _ _ _ _ _ hj, vmaxOp_eq_maxLane]
  case h_3 t m a =>
    refine ⟨_, fun j hj => ?_, (exec_vredmin ..).trans (vxAll_of_ready h d _)⟩
    rw [lane_spread_treeFold _ _ _ _ _ _ hj, vminOp_eq_minLane]
  case h_4 t m a => exact ⟨_, fun j hj => lane_ofList_scan _ _ _ _ hj, (exec_vscan ..).trans (vxAll_of_ready h d _)⟩

end Issue

/-- Settles O28: each mask operation, VPACK, and each fold commits one result, which the laws of its fields, its tree or its steps read. -/
theorem vectorMasksAndFolds : Obligations.VectorMasksAndFolds := by
  refine ⟨⟨fun s i k en d f hi h => ?mask, fun s k en w d m a b h => ?pack⟩, fun s i k en d f hi h => wholeWord_commits hi h⟩
  case mask =>
    obtain ⟨v, hv, hexec⟩ := maskWord_commits hi h
    refine ⟨_, fun j hj => ?_, hexec⟩
    rw [BitVec.getLsbD_setWidth, decide_eq_true (Nat.lt_trans hj (by decide : 64 < 2048)), Bool.true_and, hv j hj]
  case pack =>
    refine ⟨_, fun j hj => ⟨?_, ?_⟩, fun j hj => getLsbD_packFields_beyond _ (by rwa [Nat.mul_comm]), vpack_of_ready h w d m a b⟩
    · exact (extractLsb'_packedElems w _ _ (by omega)).trans (packedElem_low w _ _ hj)
    · exact (extractLsb'_packedElems w _ _ (by omega)).trans (packedElem_high w _ _ j)

end Sys2Proof.Machine

/-! SUPPORT. The values of the control core's words (03 R68; 05 R113 to R119, R122): each operation of the model against what its rule says. -/
namespace Sys2Proof.Machine

/-! ### Arithmetic and comparison (05 R113, R117, R119, R122) -/

theorem mul_eq_ofInt (x y : Word) : x * y = BitVec.ofInt 64 (x.toInt * y.toInt) := by
  rw [BitVec.ofInt_mul, BitVec.ofInt_toInt, BitVec.ofInt_toInt]

/-- Of two tests of which one holds, and both only where the words are one, either may be asked first. -/
theorem ite_eq_ite_swap {p q : Prop} [Decidable p] [Decidable q] {x y : Word} (htotal : p ∨ q) (hboth : p → q → x = y) :
    (if p then x else y) = if q then y else x := by
  by_cases hp : p
  · by_cases hq : q
    · rw [if_pos hp, if_pos hq, hboth hp hq]
    · rw [if_pos hp, if_neg hq]
  · rw [if_neg hp, if_pos (htotal.resolve_left hp)]

/-- The greater of two words, whichever way round the test is written. -/
theorem ite_toInt_ge_eq_ite_le (x y : Word) : (if x.toInt ≥ y.toInt then x else y) = if x.toInt ≤ y.toInt then y else x :=
  ite_eq_ite_swap (Int.le_total ..) fun hge hle => BitVec.toInt_inj.1 (Int.le_antisymm hle hge)

theorem ite_toNat_ge_eq_ite_le (x y : Word) : (if x.toNat ≥ y.toNat then x else y) = if x.toNat ≤ y.toNat then y else x :=
  ite_eq_ite_swap (Nat.le_total ..) fun hge hle => BitVec.toNat_inj.1 (Nat.le_antisymm hle hge)

theorem mul_add_eq_ofNat (x y : Word) :
    x * BitVec.ofNat 64 (2 ^ 40) + y = BitVec.ofNat 64 (x.toNat * 2 ^ 40 + y.toNat) := by
  rw [BitVec.ofNat_add, BitVec.ofNat_mul, BitVec.ofNat_toNat, BitVec.ofNat_toNat, BitVec.setWidth_eq, BitVec.setWidth_eq]

theorem ofNat_fld_eq_extractLsb' (x : Word) (hi lo : Nat) :
    BitVec.ofNat 64 (fld x hi lo) = (x.extractLsb' lo (hi - lo + 1)).setWidth 64 := by
  rw [fld, natBits, ← BitVec.ofNat_toNat 64 (x.extractLsb' _ _), BitVec.extractLsb'_toNat]

theorem sext64_shiftLeft_12 (imm : BitVec 19) : sext64 imm <<< 12 = imm.signExtend 64 * 4096#64 := by
  rw [BitVec.shiftLeft_eq_mul_twoPow]
  rfl

theorem ccHolds_eq_relation (cc : Cc) (a b : Word) : ccHolds cc a b = pResult.relation cc a b := by
  cases cc with
  | ne => exact decide_not
  | _ => rfl

/-! ### Counting bits (05 R113) -/

theorem natBit_eq_testBit (n i : Nat) : natBit n i = n.testBit i := by
  rw [natBit, Nat.testBit_eq_decide_div_mod_eq, Nat.shiftRight_eq_div_pow]
  rfl

/-- The number of leading zeros is the distance of the highest set bit from bit 63. -/
theorem leadingZeros_of_ne_zero {a : Word} (ha : a ≠ 0#64) : leadingZeros a = 63 - Nat.log2 a.toNat := by
  have hn : a.toNat ≠ 0 := fun h => ha (BitVec.eq_of_toNat_eq h)
  have hlog : Nat.log2 a.toNat < 64 := (Nat.log2_lt hn).2 a.isLt
  have hfirst : ((List.range 64).find? fun i => a.getLsbD (63 - i)) = some (63 - Nat.log2 a.toNat) := by
    refine List.find?_range_eq_some.2 ⟨?_, List.mem_range.2 (by omega), fun j hj => ?_⟩
    · rw [Nat.sub_sub_self (by omega)]
      exact Nat.testBit_log2 hn
    · have hlt : a.toNat < 2 ^ (63 - j) := (Nat.log2_lt hn).1 (by omega)
      rw [BitVec.getLsbD, Nat.testBit_lt_two_pow hlt]
      rfl
  rw [leadingZeros, hfirst, Option.getD_some]

theorem clzOp_eq_leadingZeros (a : Word) : clzOp a = BitVec.ofNat 64 (leadingZeros a) := by
  unfold clzOp
  split
  · next h => subst h; decide
  · next h => rw [leadingZeros_of_ne_zero h]

/-- The first set bit at or above i, or the end of the fuel. -/
theorem nthSetBit_zero (fuel x i : Nat) :
    nthSetBit fuel x 0 i = ((List.range' i fuel).find? fun j => x.testBit j).getD (i + fuel) := by
  induction fuel generalizing i with
  | zero => rfl
  | succ fuel ih =>
    rw [nthSetBit, natBit_eq_testBit, List.range'_succ, List.find?_cons]
    cases x.testBit i
    · rw [if_neg (by decide), ih, Nat.add_right_comm, Nat.add_assoc]
    · rfl

theorem ctzOp_eq_lowestBit (a : Word) : ctzOp a = BitVec.ofNat 64 (lowestBit a) := by
  unfold ctzOp
  split
  · next h => subst h; decide
  · rw [nthSetBit_zero, ← List.range_eq_range']
    rfl

theorem popCount_eq_length_filter (n x : Nat) : popCount n x = ((List.range n).filter fun i => x.testBit i).length := by
  induction n generalizing x with
  | zero => rfl
  | succ n ih =>
    have hrest : ((fun i => x.testBit i) ∘ Nat.succ) = fun i => (x / 2).testBit i := funext fun i => Nat.testBit_succ x i
    rw [popCount, ih, List.range_succ_eq_map, List.filter_cons, List.filter_map, hrest, Nat.testBit_zero]
    rcases Nat.mod_two_eq_zero_or_one x with h | h <;> simp [h, Nat.add_comm]

theorem popCount_eq_bitsSet (a : Word) : popCount 64 a.toNat = bitsSet a := popCount_eq_length_filter 64 a.toNat

/-! ### Reversing bytes (05 R113) -/

theorem length_leBytes (n x : Nat) : (leBytes n x).length = n := by
  induction n generalizing x with
  | zero => rfl
  | succ n ih => rw [leBytes, List.length_cons, ih]

theorem getElem_leBytes {n i : Nat} (x : Nat) (h : i < (leBytes n x).length) : (leBytes n x)[i] = BitVec.ofNat 8 (x / 256 ^ i) := by
  induction n generalizing x i with
  | zero => exact absurd h (Nat.not_lt_zero i)
  | succ n ih =>
    cases i with
    | zero => simp [leBytes]
    | succ i => simp only [leBytes, List.getElem_cons_succ, ih, Nat.div_div_eq_div_mul, Nat.pow_succ']

/-- Each byte of the number that bytes give is the byte that stands there. -/
theorem ofNat_leNat_div {l : List Byte} {i : Nat} (h : i < l.length) : BitVec.ofNat 8 (leNat l / 256 ^ i) = l[i] := by
  induction l generalizing i with
  | nil => exact absurd h (Nat.not_lt_zero i)
  | cons b l ih =>
    cases i with
    | zero => exact BitVec.eq_of_toNat_eq (by simp [leNat, Nat.mod_eq_of_lt b.isLt])
    | succ i =>
      have hdiv : leNat (b :: l) / 256 = leNat l := by
        rw [leNat, Nat.add_mul_div_left _ _ (by decide), Nat.div_eq_of_lt b.isLt, Nat.zero_add]
      rw [Nat.pow_succ', ← Nat.div_div_eq_div_mul, hdiv, ih, List.getElem_cons_succ]

theorem extractLsb'_ofNat_byte (n : Nat) {i : Nat} (h : i < 8) :
    (BitVec.ofNat 64 n).extractLsb' (8 * i) 8 = BitVec.ofNat 8 (n / 256 ^ i) := by
  refine BitVec.eq_of_getLsbD_eq fun j hj => ?_
  rw [show 256 = 2 ^ 8 by rfl, ← Nat.pow_mul]
  rw [BitVec.getLsbD_extractLsb', BitVec.getLsbD_ofNat, BitVec.getLsbD_ofNat, Nat.testBit_div_two_pow, Nat.add_comm j,
    decide_eq_true (show 8 * i + j < 64 by omega), Bool.true_and]

theorem extractLsb'_bswapOp (a : Word) {i : Nat} (h : i < 8) :
    (bswapOp a).extractLsb' (8 * i) 8 = a.extractLsb' (8 * (7 - i)) 8 := by
  have hlen : i < (leBytes 8 a.toNat).reverse.length := by rwa [List.length_reverse, length_leBytes]
  rw [bswapOp, extractLsb'_ofNat_byte _ h, ofNat_leNat_div hlen, List.getElem_reverse, getElem_leBytes]
  simp only [length_leBytes]
  rw [← extractLsb'_ofNat_byte _ (by omega), BitVec.ofNat_toNat, BitVec.setWidth_eq]

/-! ### Division (05 R114) -/

theorem remOp_of_ne_zero (x : Word) {y : Word} (h : y ≠ 0#64) :
    remOp x y = BitVec.ofInt 64 (x.toInt - y.toInt * x.toInt.tdiv y.toInt) := by
  rw [remOp, if_neg h, Int.tmod_def]

theorem remnOp_of_ne_zero (x : Word) {y : Word} (h : y ≠ 0#64) :
    remnOp x y = BitVec.ofNat 64 (x.toNat - y.toNat * (x.toNat / y.toNat)) := by
  rw [remnOp, if_neg h, Nat.mod_eq_sub]

/-- The signed overflow: the quotient is the dividend again. -/
theorem divOp_overflow {x y : Word} (hx : x.toInt = -2 ^ 63) (hy : y.toInt = -1) : divOp x y = x := by
  have hne : y ≠ 0#64 := by rintro rfl; exact absurd hy (by decide)
  rw [divOp, if_neg hne, ← BitVec.ofInt_toInt (x := x), BitVec.toInt_ofInt, hx, hy]
  decide

theorem remOp_overflow {x y : Word} (hx : x.toInt = -2 ^ 63) (hy : y.toInt = -1) : remOp x y = 0#64 := by
  have hne : y ≠ 0#64 := by rintro rfl; exact absurd hy (by decide)
  rw [remOp, if_neg hne, hx, hy]
  decide

/-! ### Shifts (05 R115, R116) -/

theorem getLsbD_shlOp64 (x : Word) (n : Nat) {j : Nat} (hj : j < 64) :
    (shlOp64 x n).getLsbD j = (decide (n ≤ j) && x.getLsbD (j - n)) := by
  unfold shlOp64
  split
  · next h => simp [show ¬ n ≤ j by omega]
  · rw [BitVec.getLsbD_shiftLeft, decide_eq_true hj, Bool.true_and, ← decide_not, decide_eq_decide.2 Nat.not_lt]

theorem getLsbD_shrOp64 (x : Word) (n j : Nat) :
    (shrOp64 x n).getLsbD j = (decide (j + n < 64) && x.getLsbD (j + n)) := by
  unfold shrOp64
  split
  · next h => simp [show ¬ j + n < 64 by omega]
  · next h =>
    rw [BitVec.getLsbD_ushiftRight, Nat.add_comm]
    by_cases hin : j + n < 64
    · simp [hin]
    · simp [hin, BitVec.getLsbD_of_ge x _ (Nat.not_lt.1 hin)]

theorem getLsbD_shaOp64 (x : Word) (n : Nat) {j : Nat} (hj : j < 64) :
    (shaOp64 x n).getLsbD j = if j + n < 64 then x.getLsbD (j + n) else x.getLsbD 63 := by
  unfold shaOp64
  split
  · next h =>
    rw [if_neg (show ¬ j + n < 64 by omega)]
    cases x.getLsbD 63
    · exact BitVec.getLsbD_zero
    · exact BitVec.getLsbD_allOnes.trans (decide_eq_true hj)
  · rw [BitVec.getLsbD_sshiftRight, Nat.add_comm]
    simp [hj, BitVec.msb_eq_getLsbD_last]

/-- An amount of six bits never reaches 64. -/
theorem shlOp64_toNat (x : Word) (n : BitVec 6) : shlOp64 x n.toNat = x <<< n.toNat := if_neg (Nat.not_le.2 n.isLt)
theorem shrOp64_toNat (x : Word) (n : BitVec 6) : shrOp64 x n.toNat = x >>> n.toNat := if_neg (Nat.not_le.2 n.isLt)
theorem shaOp64_toNat (x : Word) (n : BitVec 6) : shaOp64 x n.toNat = x.sshiftRight n.toNat := if_neg (Nat.not_le.2 n.isLt)

/-! ### Targets (03 R68, 05 R126) -/

theorem target_eq_jumpTo (x : Slot) (off : BitVec 19) : target x.pc off = jumpTo x off := by
  rw [target, jumpTo, BitVec.shiftLeft_eq_mul_twoPow, BitVec.mul_comm]
  rfl

/-- A word is aligned where its two low bits are clear. -/
theorem extractLsb'_two_eq_zero_iff (t : Word) : t.extractLsb' 0 2 = 0#2 ↔ t.toNat % 4 = 0 := by
  rw [← BitVec.toNat_inj, BitVec.extractLsb'_toNat]
  rfl

end Sys2Proof.Machine

/-! SUPPORT. The laws of the control core's words that write one register and go on (05 R111, R113 to R126): what such a word leaves, and what
each form of the model gives. -/
namespace Sys2Proof.Machine

/-! ### The meaning of each word -/

section Words
variable (s : State) (d a b : BitVec 5)

theorem exec_add : exec (.add d a b) s = execAdd d a b s := rfl
theorem exec_sub : exec (.sub d a b) s = execSub d a b s := rfl
theorem exec_mul : exec (.mul d a b) s = execMul d a b s := rfl
theorem exec_mulh : exec (.mulh d a b) s = execMulh d a b s := rfl
theorem exec_mulhn : exec (.mulhn d a b) s = execMulhn d a b s := rfl
theorem exec_and : exec (.and d a b) s = execAnd d a b s := rfl
theorem exec_or : exec (.or d a b) s = execOr d a b s := rfl
theorem exec_xor : exec (.xor d a b) s = execXor d a b s := rfl
theorem exec_min : exec (.min d a b) s = execMin d a b s := rfl
theorem exec_max : exec (.max d a b) s = execMax d a b s := rfl
theorem exec_minn : exec (.minn d a b) s = execMinn d a b s := rfl
theorem exec_maxn : exec (.maxn d a b) s = execMaxn d a b s := rfl
theorem exec_bufa : exec (.bufa d a b) s = execBufa d a b s := rfl
theorem exec_div : exec (.div d a b) s = execDiv d a b s := rfl
theorem exec_divn : exec (.divn d a b) s = execDivn d a b s := rfl
theorem exec_rem : exec (.rem d a b) s = execRem d a b s := rfl
theorem exec_remn : exec (.remn d a b) s = execRemn d a b s := rfl
theorem exec_shl : exec (.shl d a b) s = execShl d a b s := rfl
theorem exec_shr : exec (.shr d a b) s = execShr d a b s := rfl
theorem exec_sha : exec (.sha d a b) s = execSha d a b s := rfl
theorem exec_bufx : exec (.bufx d a) s = execBufx d a s := rfl
theorem exec_bufo : exec (.bufo d a) s = execBufo d a s := rfl
theorem exec_clz : exec (.clz d a) s = execClz d a s := rfl
theorem exec_ctz : exec (.ctz d a) s = execCtz d a s := rfl
theorem exec_popc : exec (.popc d a) s = execPopc d a s := rfl
theorem exec_bswap : exec (.bswap d a) s = execBswap d a s := rfl
theorem exec_addi (imm : BitVec 12) : exec (.addi d a imm) s = execAddi d a imm s := rfl
theorem exec_andi (imm : BitVec 12) : exec (.andi d a imm) s = execAndi d a imm s := rfl
theorem exec_ori (imm : BitVec 12) : exec (.ori d a imm) s = execOri d a imm s := rfl
theorem exec_xori (imm : BitVec 12) : exec (.xori d a imm) s = execXori d a imm s := rfl
theorem exec_shli (n : BitVec 6) : exec (.shli d a n) s = execShli d a n s := rfl
theorem exec_shri (n : BitVec 6) : exec (.shri d a n) s = execShri d a n s := rfl
theorem exec_shai (n : BitVec 6) : exec (.shai d a n) s = execShai d a n s := rfl
theorem exec_sel (n : BitVec 3) : exec (.sel n d a b) s = execSel n d a b s := rfl
theorem exec_lui (imm : BitVec 19) : exec (.lui d imm) s = execLui d imm s := rfl
theorem exec_liw (imm : Word) : exec (.liw d imm) s = execLiw d imm s := rfl
theorem exec_cmp (cc : Cc) (p : BitVec 3) : exec (.cmp cc p a b) s = execCmp cc p a b s := rfl
theorem exec_cmpi (cc : Cc) (p : BitVec 3) (imm : BitVec 12) : exec (.cmpi cc p a imm) s = execCmpi cc p a imm s := rfl
theorem exec_pand (p q r : BitVec 3) : exec (.pand p q r) s = execPand p q r s := rfl
theorem exec_por (p q r : BitVec 3) : exec (.por p q r) s = execPor p q r s := rfl
theorem exec_pxor (p q r : BitVec 3) : exec (.pxor p q r) s = execPxor p q r s := rfl
theorem exec_pnot (p q : BitVec 3) : exec (.pnot p q) s = execPnot p q s := rfl
theorem exec_j (off : BitVec 19) : exec (.j off) s = execJ off s := rfl
theorem exec_br (p : BitVec 3) (off : BitVec 19) : exec (.br p off) s = execBr p off s := rfl
theorem exec_jal (off : BitVec 19) : exec (.jal d off) s = execJal d off s := rfl
theorem exec_jalr (imm : BitVec 12) : exec (.jalr d a imm) s = execJalr d a imm s := rfl

end Words

/-! ### What a word that writes one register leaves -/

theorem onlySlot_upMe (s : State) (f : Slot → Slot) : OnlySlot s (s.upMe f) := ⟨rfl, fun _ h => State.slot_upMe_ne s f h⟩

/-- A word completes with v in S[d], goes on at pc, and changes nothing else. -/
def CompletesS (s : State) (r : Res) (d : BitVec 5) (v pc : Word) : Prop :=
  ∃ t, r = .next t ∧ WritesS s t d v ∧ t.me.pc = pc ∧ OnlyS s t

/-- A word completes with b in P[d], goes on at pc, and changes nothing else. -/
def CompletesP (s : State) (r : Res) (d : BitVec 3) (b : Bool) (pc : Word) : Prop :=
  ∃ t, r = .next t ∧ WritesP s t d b ∧ t.me.pc = pc ∧ OnlyP s t

/-- A write of an S register changes the S registers of the slot alone. -/
theorem Slot.setS_only (x : Slot) (d : BitVec 5) (v : Word) : x.setS d v = { x with r := { x.r with s := (x.setS d v).r.s } } := by
  unfold Slot.setS
  split <;> rfl

theorem Slot.setP_only (x : Slot) (d : BitVec 3) (b : Bool) : x.setP d b = { x with r := { x.r with p := (x.setP d b).r.p } } := by
  unfold Slot.setP
  split <;> rfl

theorem completesS_upMe {s : State} {f : Slot → Slot} {d : BitVec 5} {v pc : Word} (h : f s.me = { s.me.setS d v with pc := pc }) :
    CompletesS s (.next (s.upMe f)) d v pc := by
  refine ⟨_, rfl, fun r => ?_, ?_, onlySlot_upMe s f, ?_⟩ <;> rw [State.me_upMe, h]
  · exact Slot.getS_setS s.me d r v
  · rw [Slot.setS_only]

theorem completesP_upMe {s : State} {f : Slot → Slot} {d : BitVec 3} {b : Bool} {pc : Word} (h : f s.me = { s.me.setP d b with pc := pc }) :
    CompletesP s (.next (s.upMe f)) d b pc := by
  refine ⟨_, rfl, fun r => ?_, ?_, onlySlot_upMe s f, ?_⟩ <;> rw [State.me_upMe, h]
  · exact Slot.getP_setP s.me d r b
  · rw [Slot.setP_only]

/-! ### The forms of the model (05 R111) -/

section Forms
variable {s : State} {ss : List (BitVec 5)} {ps : List (BitVec 3)}

theorem direct_of_not_waits (h : s.me.waits ss ps = false) (f : Slot → Slot) :
    s.direct ss ps f = .next (s.upMe fun x => (f x).advance 4) := by
  rcases s.direct_cases ss ps f with ⟨hwaits, -⟩ | ⟨-, hnext⟩
  · exact absurd (h.symm.trans hwaits) Bool.false_ne_true
  · exact hnext

theorem completesS_direct {r : Res} {d : BitVec 5} {f : Slot → Word} {v : Word} (hr : r = s.direct ss ps fun x => x.setS d (f x))
    (h : s.me.waits ss ps = false) (hv : f s.me = v) : CompletesS s r d v (s.me.pc + 4#64) := by
  rw [hr, direct_of_not_waits h]
  exact completesS_upMe (by rw [Slot.advance, hv, Slot.setS_pc])

theorem completesP_direct {r : Res} {d : BitVec 3} {f : Slot → Bool} {b : Bool} (hr : r = s.direct ss ps fun x => x.setP d (f x))
    (h : s.me.waits ss ps = false) (hb : f s.me = b) : CompletesP s r d b (s.me.pc + 4#64) := by
  rw [hr, direct_of_not_waits h]
  exact completesP_upMe (by rw [Slot.advance, hb, Slot.setP_pc])

theorem completesS_alu {r : Res} {d a b : BitVec 5} {f : Word → Word → Word} {v : Word} (hr : r = alu d a b f s)
    (h : s.me.waits [d, a, b] [] = false) (hv : f (s.me.getS a) (s.me.getS b) = v) : CompletesS s r d v (s.me.pc + 4#64) :=
  completesS_direct hr h hv

theorem completesS_alu1 {r : Res} {d a : BitVec 5} {f : Word → Word} {v : Word} (hr : r = alu1 d a f s)
    (h : s.me.waits [d, a] [] = false) (hv : f (s.me.getS a) = v) : CompletesS s r d v (s.me.pc + 4#64) :=
  completesS_direct hr h hv

theorem completesS_liw {d : BitVec 5} (imm : Word) (h : s.me.waits [d] [] = false) :
    CompletesS s (exec (.liw d imm) s) d imm (s.me.pc + 12#64) := by
  rw [exec_liw, execLiw, h]
  exact completesS_upMe (f := fun x => (x.setS d imm).advance 12) (by rw [Slot.advance, Slot.setS_pc])

end Forms

/-! ### Words that write an S register (05 R113, R116 to R118, R121, R122) -/

theorem sResult_completes {s : State} {i : Instr} {d : BitVec 5} {v : Word} {ss : List (BitVec 5)} {ps : List (BitVec 3)} {len : Nat}
    (hi : sResult s.me i = some (d, v, ss, ps, len)) (h : s.me.waits ss ps = false) :
    CompletesS s (exec i s) d v (s.me.pc + BitVec.ofNat 64 len) := by
  unfold sResult at hi
  split at hi <;> cases hi
  case h_1 => exact completesS_alu (exec_add ..) h rfl
  case h_2 => exact completesS_alu (exec_sub ..) h rfl
  case h_3 => exact completesS_alu (exec_mul ..) h (mul_eq_ofInt _ _)
  case h_4 => exact completesS_alu (exec_mulh ..) h rfl
  case h_5 => exact completesS_alu (exec_mulhn ..) h rfl
  case h_6 => exact completesS_alu (exec_and ..) h rfl
  case h_7 => exact completesS_alu (exec_or ..) h rfl
  case h_8 => exact completesS_alu (exec_xor ..) h rfl
  case h_9 => exact completesS_alu (exec_min ..) h rfl
  case h_10 => exact completesS_alu (exec_max ..) h (ite_toInt_ge_eq_ite_le _ _)
  case h_11 => exact completesS_alu (exec_minn ..) h rfl
  case h_12 => exact completesS_alu (exec_maxn ..) h (ite_toNat_ge_eq_ite_le _ _)
  case h_13 => exact completesS_direct (exec_sel ..) h rfl
  case h_14 => exact completesS_alu (exec_bufa ..) h (ite_congr rfl (fun _ => mul_add_eq_ofNat _ _) fun _ => rfl)
  case h_15 => exact completesS_alu1 (exec_bufx ..) h (ofNat_fld_eq_extractLsb' _ _ _)
  case h_16 => exact completesS_alu1 (exec_bufo ..) h (ofNat_fld_eq_extractLsb' _ _ _)
  case h_17 => exact completesS_alu1 (exec_addi ..) h rfl
  case h_18 => exact completesS_alu1 (exec_andi ..) h rfl
  case h_19 => exact completesS_alu1 (exec_ori ..) h rfl
  case h_20 => exact completesS_alu1 (exec_xori ..) h rfl
  case h_21 => exact completesS_alu1 (exec_shli ..) h (shlOp64_toNat _ _)
  case h_22 => exact completesS_alu1 (exec_shri ..) h (shrOp64_toNat _ _)
  case h_23 => exact completesS_alu1 (exec_shai ..) h (shaOp64_toNat _ _)
  case h_24 => exact completesS_direct (exec_lui ..) h (sext64_shiftLeft_12 _)
  case h_25 => exact completesS_liw _ h

/-! ### Words that write a P register (05 R119, R120) -/

theorem pResult_completes {s : State} {i : Instr} {d : BitVec 3} {b : Bool} {ss : List (BitVec 5)} {ps : List (BitVec 3)}
    (hi : pResult s.me i = some (d, b, ss, ps)) (h : s.me.waits ss ps = false) :
    CompletesP s (exec i s) d b (s.me.pc + 4#64) := by
  unfold pResult at hi
  split at hi <;> cases hi
  case h_1 => exact completesP_direct (exec_cmp ..) h (ccHolds_eq_relation _ _ _)
  case h_2 => exact completesP_direct (exec_cmpi ..) h (ccHolds_eq_relation _ _ _)
  case h_3 => exact completesP_direct (exec_pand ..) h rfl
  case h_4 => exact completesP_direct (exec_por ..) h rfl
  case h_5 => exact completesP_direct (exec_pxor ..) h rfl
  case h_6 => exact completesP_direct (exec_pnot ..) h rfl

/-- Settles O1: every word of the tables has the model's form of its kind, with the value of its rule. -/
theorem controlResults : Obligations.ControlResults := by
  refine ⟨fun s i d v ss ps len hi h => sResult_completes hi h, fun s d a h => ⟨?clz, ?ctz, ?popc, ?bswap⟩,
    fun s i d b ss ps hi h => pResult_completes hi h⟩
  case clz => exact completesS_alu1 (exec_clz ..) h (clzOp_eq_leadingZeros _)
  case ctz => exact completesS_alu1 (exec_ctz ..) h (ctzOp_eq_lowestBit _)
  case popc => exact completesS_alu1 (exec_popc ..) h (congrArg _ (popCount_eq_bitsSet _))
  case bswap => exact ⟨_, completesS_alu1 (exec_bswap ..) h rfl, fun i hi => extractLsb'_bswapOp _ hi⟩

/-- Settles O2: the four divisions compute in their two fixed cases and elsewhere what 05 R114 gives. -/
theorem division : Obligations.Division := by
  intro s d a b h x y done
  split
  case isTrue hzero =>
    exact ⟨completesS_alu (exec_div ..) h (if_pos hzero), completesS_alu (exec_divn ..) h (if_pos hzero),
      completesS_alu (exec_rem ..) h (if_pos hzero), completesS_alu (exec_remn ..) h (if_pos hzero)⟩
  case isFalse hne =>
    refine ⟨?signed, completesS_alu (exec_divn ..) h (if_neg hne), completesS_alu (exec_remn ..) h (remnOp_of_ne_zero x hne)⟩
    split
    case isTrue hover =>
      exact ⟨completesS_alu (exec_div ..) h (divOp_overflow hover.1 hover.2), completesS_alu (exec_rem ..) h (remOp_overflow hover.1 hover.2)⟩
    case isFalse => exact ⟨completesS_alu (exec_div ..) h (if_neg hne), completesS_alu (exec_rem ..) h (remOp_of_ne_zero x hne)⟩

/-- Settles O3: each shift completes with a word whose bits are those that its rule names. -/
theorem shifts : Obligations.Shifts := by
  intro s d a b h x n done
  have of_bits : ∀ {i : Instr} {v : Word} {bits : Nat → Bool}, (∀ j, j < 64 → v.getLsbD j = bits j) →
      CompletesS s (exec i s) d v (s.me.pc + 4#64) → done i bits :=
    fun hbits ⟨t, hnext, hrest⟩ => ⟨t, _, hnext, hbits, hrest⟩
  exact ⟨of_bits (fun j hj => getLsbD_shlOp64 x n hj) (completesS_alu (exec_shl ..) h rfl),
    of_bits (fun j _ => getLsbD_shrOp64 x n j) (completesS_alu (exec_shr ..) h rfl),
    of_bits (fun j hj => getLsbD_shaOp64 x n hj) (completesS_alu (exec_sha ..) h rfl)⟩

/-! ### Jumps (05 R124 to R126) -/

theorem completesS_jal {s : State} {d : BitVec 5} (off : BitVec 19) (h : s.me.waits [d] [] = false) :
    CompletesS s (exec (.jal d off) s) d (s.me.pc + 4#64) (jumpTo s.me off) := by
  rw [exec_jal, execJal, h]
  exact completesS_upMe (f := fun x => { x.setS d (x.pc + 4#64) with pc := target x.pc off }) (by rw [target_eq_jumpTo])

/-- JALR computes its target before it writes: an aligned one is where it goes on, with the link written (05 R126). -/
theorem completesS_jalr {s : State} {d a : BitVec 5} {imm : BitVec 12} (h : s.me.waits [d, a] [] = false)
    (haligned : (s.me.getS a + imm.signExtend 64).toNat % 4 = 0) :
    CompletesS s (exec (.jalr d a imm) s) d (s.me.pc + 4#64) (s.me.getS a + imm.signExtend 64) := by
  have hlow : ¬ (s.me.getS a + sext64 imm).extractLsb' 0 2 ≠ 0#2 := fun hne => hne ((extractLsb'_two_eq_zero_iff _).2 haligned)
  rw [exec_jalr, execJalr, h, if_neg Bool.false_ne_true, if_neg hlow]
  exact completesS_upMe rfl

/-- A misaligned target traps, with nothing written (05 R126). -/
theorem jalr_misaligned {s : State} {d a : BitVec 5} {imm : BitVec 12} (h : s.me.waits [d, a] [] = false)
    (hmisaligned : (s.me.getS a + imm.signExtend 64).toNat % 4 ≠ 0) :
    exec (.jalr d a imm) s = .next (s.raise s.cur ⟨0x05, (s.me.getS a + imm.signExtend 64).toNat⟩ s.me.pc 0 0) := by
  have hlow : (s.me.getS a + sext64 imm).extractLsb' 0 2 ≠ 0#2 := mt (extractLsb'_two_eq_zero_iff _).1 hmisaligned
  rw [exec_jalr, execJalr, h, if_neg Bool.false_ne_true, if_pos hlow]
  rfl

/-- Settles O4: each jump's one update of the slot, and the trap of JALR before it. -/
theorem jumps : Obligations.Jumps := by
  refine ⟨fun s d a p off imm => ⟨?j, ?br, completesS_jal off, completesS_jalr⟩, fun s d a imm => jalr_misaligned⟩
  case j => exact ⟨_, exec_j ..,  onlySlot_upMe _ _, by rw [State.me_upMe, target_eq_jumpTo]⟩
  case br =>
    intro h
    rw [exec_br, execBr, h, if_neg Bool.false_ne_true]
    refine ⟨_, rfl, onlySlot_upMe s _, ?_⟩
    rw [State.me_upMe, target_eq_jumpTo, Slot.advance]
    split <;> rfl

end Sys2Proof.Machine

/-! SUPPORT. The laws of ERET, ENDJ and NOP (05 R134, R136, R138; 20 R411): what leaving a handler and resuming keep, and the part that follows. -/
namespace Sys2Proof.Machine

theorem exec_eret (s : State) : exec .eret s = execEret s := rfl
theorem exec_endj (s : State) : exec .endj s = execEndj s := rfl
theorem exec_nop (s : State) : exec .nop s = execNop s := rfl

/-! ### What a resumption keeps (20 R411) -/

/-- The register files, the system registers and the program counter of a slot stay. -/
def KeepsControl (x y : Slot) : Prop := y.r = x.r ∧ y.y = x.y ∧ y.pc = x.pc

theorem KeepsControl.trans {x y z : Slot} (h : KeepsControl x y) (g : KeepsControl y z) : KeepsControl x z := by
  obtain ⟨hr, hy, hpc⟩ := h
  obtain ⟨gr, gy, gpc⟩ := g
  exact ⟨gr.trans hr, gy.trans hy, gpc.trans hpc⟩

theorem keepsControl_ite {x y z : Slot} {c : Prop} [Decidable c] (hy : KeepsControl x y) (hz : KeepsControl x z) :
    KeepsControl x (if c then y else z) := by
  split
  · exact hy
  · exact hz

/-- SKIP retires one entry of an engine, takes and shows its tokens, or drops a copy, and touches no register. -/
theorem Slot.skip_keepsControl (x : Slot) (e : Engine) : KeepsControl x (x.skip e) := by
  unfold Slot.skip
  split
  · exact ⟨rfl, rfl, rfl⟩
  · dsimp only
    split
    · exact ⟨rfl, rfl, rfl⟩
    · refine keepsControl_ite ?_ ⟨rfl, rfl, rfl⟩
      refine KeepsControl.trans ?_ (keepsControl_ite ⟨rfl, rfl, rfl⟩ ⟨rfl, rfl, rfl⟩)
      exact keepsControl_ite ⟨rfl, rfl, rfl⟩ ⟨rfl, rfl, rfl⟩

/-- Set-aside entries move to later positions, and no register does. -/
theorem KeepsControl.shiftAside {x y : Slot} (h : KeepsControl x y) : KeepsControl x (if y.hasAside then y.shiftAside else y) :=
  h.trans (keepsControl_ite ⟨rfl, rfl, rfl⟩ ⟨rfl, rfl, rfl⟩)

theorem upSlot_cur_eq_upMe (s : State) (f : Slot → Slot) : s.upSlot s.cur f = s.upMe f := rfl

/-- With no latch to deliver a resumption changes the queues of its slot, and nothing of its control core. -/
theorem State.resume_of_no_latch {s : State} (skip : Option Engine) (h : s.me.anyLatch = false) :
    ∃ f, s.resume s.cur skip = s.upMe f ∧ ∀ x, KeepsControl x (f x) := by
  rw [State.resume, ← State.me, h, if_neg Bool.false_ne_true, upSlot_cur_eq_upMe]
  refine ⟨_, rfl, fun x => ?_⟩
  cases skip with
  | none => exact (KeepsControl.shiftAside ⟨rfl, rfl, rfl⟩).trans ⟨rfl, rfl, rfl⟩
  | some e => exact (x.skip_keepsControl e).shiftAside.trans ⟨rfl, rfl, rfl⟩

/-! ### ERET (05 R134) -/

/-- The slot leaves its handler. -/
def Slot.leaveHandler (x : Slot) : Slot := { x with y := { x.y with level := x.y.prevLevel, inTrap := false }, pc := x.y.trapPc }

/-- The state from which an ERET resumes: SOURCE and FLAGS are read, and the slot has left its handler. -/
def State.eretLeft (s : State) : State := (s.readFlags s.cur).upMe Slot.leaveHandler

theorem exec_eret_in_handler {s : State} (hlevel : 1 ≤ modeLevel s) (htrap : s.me.y.inTrap = true) :
    ∃ skip, exec .eret s = .next (s.eretLeft.resume s.eretLeft.cur skip) := by
  have hlvl : ¬ s.me.lvl < 1 := Nat.not_lt.2 hlevel
  rw [exec_eret, execEret]
  dsimp only
  rw [if_neg hlvl, htrap, if_neg (by decide)]
  exact ⟨_, rfl⟩

theorem State.readFlags_only (s : State) (n : Nat) : s.OnlyAccess (s.readFlags n) :=
  State.readVa_only _ _ _ _ _ (State.OnlyAccess.refl s)

theorem State.slot_readFlags (s : State) (n m : Nat) : (s.readFlags n).slot m = s.slot m := by
  rw [State.slot, (s.readFlags_only n).slots, State.slot]

theorem State.eretLeft_cur (s : State) : s.eretLeft.cur = s.cur := (s.readFlags_only s.cur).cur

theorem State.me_eretLeft (s : State) : s.eretLeft.me = s.me.leaveHandler := by
  rw [State.eretLeft, State.me_upMe, State.me, (s.readFlags_only s.cur).cur, State.slot_readFlags, State.me]

theorem State.slot_eretLeft_ne (s : State) {n : Nat} (h : n ≠ s.cur) : s.eretLeft.slot n = s.slot n := by
  rw [State.eretLeft, State.slot_upMe_ne _ _ (by rwa [(s.readFlags_only s.cur).cur]), State.slot_readFlags]

theorem eret_returns {s : State} (hlevel : 1 ≤ modeLevel s) (htrap : s.me.y.inTrap = true) (hlatch : s.me.anyLatch = false) :
    ∃ t, exec .eret s = .next t ∧ t.me.y = { s.me.y with level := s.me.y.prevLevel, inTrap := false } ∧
      t.me.pc = s.me.y.trapPc ∧ t.me.r = s.me.r ∧ (∀ n, n ≠ s.cur → t.slot n = s.slot n) ∧ SameMemory (s.readFlags s.cur) t := by
  obtain ⟨skip, hexec⟩ := exec_eret_in_handler hlevel htrap
  obtain ⟨f, hresume, hkeep⟩ := State.resume_of_no_latch (s := s.eretLeft) skip (by rw [State.me_eretLeft]; exact hlatch)
  obtain ⟨hr, hy, hpc⟩ := hkeep s.eretLeft.me
  rw [State.me_eretLeft] at hr hy hpc
  refine ⟨_, hexec.trans (congrArg _ hresume), ?_, ?_, ?_, fun n hn => ?_, fun k => rfl⟩
  · rw [State.me_upMe, State.me_eretLeft, hy]
    rfl
  · rw [State.me_upMe, State.me_eretLeft, hpc]
    rfl
  · rw [State.me_upMe, State.me_eretLeft, hr]
    rfl
  · rw [State.slot_upMe_ne _ _ (by rwa [State.eretLeft_cur]), State.slot_eretLeft_ne s hn]

/-! ### ENDJ (05 R136, R137) -/

/-- The slot after an ENDJ at cycle `now`: boundaries that are passed are dropped unless the task is to stop, the part that follows begins, and
a boundary is recorded. -/
def Slot.endPart (x : Slot) (stop : Bool) (now : Word) : Slot :=
  let y := if stop then x else x.dropReached
  let j := (y.job.next (y.pc + 4#64)).1
  { y with pc := (y.job.next (y.pc + 4#64)).2, job := { j with bounds := j.bounds ++ [y.boundaryNow], marks := [], iterStart := now } }

theorem exec_endj_outside_handler {s : State} (h : s.me.y.inTrap = false) :
    ∃ stop, exec .endj s = .next (s.upMe fun x => x.endPart stop s.dcc) := by
  rw [exec_endj, execEndj, h, if_neg (by decide)]
  exact ⟨_, rfl⟩

theorem Slot.endPart_frame (x : Slot) (stop : Bool) (now : Word) :
    (x.endPart stop now).r = x.r ∧ (x.endPart stop now).y = x.y ∧ (x.endPart stop now).e = x.e := by
  cases stop <;> exact ⟨rfl, rfl, rfl⟩

/-- The boundaries that are kept do not bear on what part follows. -/
theorem Job.next_bounds (j : Job) (l : List (List W32)) (pc : Word) :
    ({ j with bounds := l } : Job).next pc = ({ (j.next pc).1 with bounds := l }, (j.next pc).2) := by
  cases hp : j.part <;> simp only [Job.next, hp]
  case prologue => split <;> rfl
  case kernel => split <;> rfl

theorem Slot.endPart_next (x : Slot) (stop : Bool) (now : Word) :
    (x.endPart stop now).job.part = (x.job.next (x.pc + 4#64)).1.part ∧
      (x.endPart stop now).job.iter = (x.job.next (x.pc + 4#64)).1.iter ∧ (x.endPart stop now).pc = (x.job.next (x.pc + 4#64)).2 := by
  cases stop
  case true => exact ⟨rfl, rfl, rfl⟩
  case false =>
    have hnext := x.job.next_bounds (x.job.bounds.dropWhile x.reached) (x.pc + 4#64)
    simp only [Slot.endPart, Slot.dropReached, Bool.false_eq_true, if_false, hnext, and_self]

/-- Settles O9: ERET and ENDJ by what a resumption keeps and which part follows; NOP by the form of a word that names no register. -/
theorem returnsAndParts : Obligations.ReturnsAndParts := by
  refine ⟨fun s => eret_returns, fun s => ⟨?nop, fun h => ?endj⟩⟩
  case nop => exact ⟨_, (exec_nop s).trans (direct_of_not_waits rfl _), onlySlot_upMe _ _, by rw [State.me_upMe]; rfl⟩
  case endj =>
    obtain ⟨stop, hexec⟩ := exec_endj_outside_handler h
    obtain ⟨hr, hy, he⟩ := s.me.endPart_frame stop s.dcc
    obtain ⟨hpart, hiter, hpc⟩ := s.me.endPart_next stop s.dcc
    refine ⟨_, hexec, onlySlot_upMe _ _, ?_⟩
    simp only [State.me_upMe, hr, hy, he, hpart, hiter, hpc, true_and]
    cases hp : s.me.job.part <;> simp only [Job.next, hp]
    case prologue => split <;> simp
    case kernel => split <;> simp
    case epilogue => simp

end Sys2Proof.Machine

/-! SUPPORT. The laws of the lane-by-lane VX commands (02 R41, R45; 06 R139 to R151, R153, R156): the shape of each command, and the value of its
rule in a lane. -/
namespace Sys2Proof.Machine

/-! ### The shape of each command -/

section Shapes
variable (k : Ctl) (t : VTy) (rm : Rm) (sat : Bool) (d : BitVec 5) (m : BitVec 3) (a b c : BitVec 5) (s : State)

theorem exec_vadd : exec (.vadd k t rm sat d m a b) s = vx2 k d m a b (vaddOp t rm sat) s := rfl
theorem exec_vsub : exec (.vsub k t rm sat d m a b) s = vx2 k d m a b (vsubOp t rm sat) s := rfl
theorem exec_vmul : exec (.vmul k t rm sat d m a b) s = vx2 k d m a b (vmulOp t rm sat) s := rfl
theorem exec_vfma : exec (.vfma k t rm d m a b c) s = vx3 k d m a b c (vfmaOp t rm false false) s := rfl
theorem exec_vfms : exec (.vfms k t rm d m a b c) s = vx3 k d m a b c (vfmaOp t rm false true) s := rfl
theorem exec_vfnma : exec (.vfnma k t rm d m a b c) s = vx3 k d m a b c (vfmaOp t rm true false) s := rfl
theorem exec_vdiv : exec (.vdiv k t rm d m a b) s = vx2 k d m a b (fun x y => vround t rm ((velem t x).div (velem t y))) s := rfl
theorem exec_vsqrt : exec (.vsqrt k t rm d m a) s = vx1 k d m a (fun x => vround t rm (velem t x).sqrt) s := rfl
theorem exec_vexp2 : exec (.vexp2 k rm d m a) s = vx1 k d m a (fun x => vround .f32 rm (velem .f32 x).exp2) s := rfl
theorem exec_vlog2 : exec (.vlog2 k rm d m a) s = vx1 k d m a (fun x => vround .f32 rm (velem .f32 x).log2) s := rfl
theorem exec_vmin : exec (.vmin k t d m a b) s = vx2 k d m a b (vminOp t) s := rfl
theorem exec_vmax : exec (.vmax k t d m a b) s = vx2 k d m a b (vmaxOp t) s := rfl
theorem exec_vabs : exec (.vabs k t sat d m a) s = vx1 k d m a (vabsOp t sat) s := rfl
theorem exec_vneg : exec (.vneg k t sat d m a) s = vx1 k d m a (vnegOp t sat) s := rfl
theorem exec_vand : exec (.vand k d m a b) s = vx2 k d m a b (fun x y => x &&& y) s := rfl
theorem exec_vor : exec (.vor k d m a b) s = vx2 k d m a b (fun x y => x ||| y) s := rfl
theorem exec_vxor : exec (.vxor k d m a b) s = vx2 k d m a b (fun x y => x ^^^ y) s := rfl
theorem exec_vshl (n : VShift) : exec (.vshl k d m a n) s = vxShift k d m a n shlOp s := rfl
theorem exec_vshr (n : VShift) : exec (.vshr k d m a n) s = vxShift k d m a n shrOp s := rfl
theorem exec_vsha (n : VShift) : exec (.vsha k d m a n) s = vxShift k d m a n shaOp s := rfl
theorem exec_vmulh : exec (.vmulh k t d m a b) s = vx2 k d m a b (vmulhOp t) s := rfl
theorem exec_vsel (c : BitVec 3) :
    exec (.vsel k d m a b c) s = vxLanes k d m (fun x _ => mixLanes (x.getK c) (x.getV a) (x.getV b)) s := rfl
theorem exec_kpopc (a : BitVec 3) :
    exec (.kpopc k d m a) s = vxLanes k d m (fun x _ => spread (ofPat (popCount 64 (x.getK a).toNat))) s := rfl
theorem exec_vcvt (src dst : Fmt) : exec (.vcvt k src dst rm d m a b) s =
    vxLanes k d m (fun x en => ofLanes fun i => vcvtOp src dst rm en.seed (lane (x.getV a) i) (lane (x.getV b) i)) s := rfl
theorem exec_vunpack (w : PWidth) (part : BitVec 3) (sx : Bool) :
    exec (.vunpack k w part sx d m a) s = execVunpack k w part sx d m a s := rfl
theorem exec_vscale (fmt : Fmt) : exec (.vscale k fmt d m a b) s = vx2 k d m a b (fun x y =>
    vround .f32 .rne ((decodeFmt fmt (x.toNat % 2 ^ fmtBits fmt)).mul (scaleNum (y.toNat % 1024)))) s := rfl
theorem exec_vperm : exec (.vperm k d m a b) s = execVperm k d m a b s := rfl
theorem exec_vbcast (ln : BitVec 6) : exec (.vbcast k d m a ln) s = vxLanes k d m (fun x _ => spread (lane (x.getV a) ln.toNat)) s := rfl
theorem exec_vget (ln : BitVec 6) :
    exec (.vget k d m a ln) s = vxLanes k d m (fun x _ => (lane (x.getV a) ln.toNat).setWidth 2048) s := rfl
theorem exec_viota (base : BitVec 12) :
    exec (.viota k d m base) s = vxLanes k d m (fun _ _ => ofLanes fun i => base.signExtend 32 + ofPat i) s := rfl
theorem exec_vmov : exec (.vmov k d m a) s = vxLanes k d m (fun x _ => x.getV a) s := rfl
theorem exec_vmovi (imm : W32) : exec (.vmovi k d m imm) s = vxLanes k d m (fun _ _ => spread imm) s := rfl

end Shapes

/-! ### Integer lanes (02 R41; 06 R145) -/

theorem clampInt_eq {lo hi : Int} (h : lo ≤ hi) (i : Int) : clampInt lo hi i = max lo (min hi i) := by
  unfold clampInt
  omega

theorem vintRes_sat (t : VTy) (i : Int) : vintRes t true i = keptIn t i := by
  unfold vintRes keptIn
  rw [if_pos rfl, clampInt_eq (by decide), clampInt_eq (by decide)]
  cases t <;> rfl

/-- An integer result under SAT or without, where the wrapped result is x. -/
theorem vintRes_eq {i : Int} {x : W32} (t : VTy) (sat : Bool) (h : BitVec.ofInt 32 i = x) :
    vintRes t sat i = if sat then keptIn t i else x := by
  cases sat
  · exact h
  · exact vintRes_sat t i

theorem ofInt_vint_add (t : VTy) (a b : W32) : BitVec.ofInt 32 (vint t a + vint t b) = a + b := by
  rw [BitVec.ofInt_add, ofInt_vint, ofInt_vint]

theorem ofInt_vint_sub (t : VTy) (a b : W32) : BitVec.ofInt 32 (vint t a - vint t b) = a - b := by
  rw [Int.sub_eq_add_neg, BitVec.ofInt_add, BitVec.ofInt_neg, ofInt_vint, ofInt_vint, BitVec.sub_eq_add_neg]

theorem ofInt_vint_mul (t : VTy) (a b : W32) : BitVec.ofInt 32 (vint t a * vint t b) = a * b := by
  rw [BitVec.ofInt_mul, ofInt_vint, ofInt_vint]

theorem ofInt_neg_toInt (a : W32) : BitVec.ofInt 32 (-a.toInt) = 0#32 - a := by
  rw [BitVec.ofInt_neg, BitVec.ofInt_toInt, BitVec.zero_sub]

theorem ofInt_natAbs_toInt (a : W32) : BitVec.ofInt 32 a.toInt.natAbs = if a.toInt < 0 then 0#32 - a else a := by
  split
  · next h => rw [Int.ofNat_natAbs_of_nonpos (Int.le_of_lt h), ofInt_neg_toInt]
  · next h => rw [Int.natAbs_of_nonneg (Int.not_lt.1 h), BitVec.ofInt_toInt]

/-- An operation of the arithmetic row: rounded in a floating-point type, else kept or wrapped. -/
theorem ite_isFp_vintRes {i : Int} {x y : W32} (t : VTy) (sat : Bool) (h : BitVec.ofInt 32 i = x) :
    (if t.isFp then y else vintRes t sat i) = if t.isFp then y else if sat then keptIn t i else x := by
  rw [vintRes_eq t sat h]

/-- The sign bit cleared, or the absolute value (06 R144, R145). -/
theorem vabsOp_eq (t : VTy) (sat : Bool) (a : W32) : vabsOp t sat a =
    match t with
    | .f16 | .bf16 => a &&& 0x7FFF#32
    | .f32 => a &&& 0x7FFFFFFF#32
    | t => if sat then keptIn t a.toInt.natAbs else if a.toInt < 0 then 0#32 - a else a := by
  cases t
  case f32 => rfl
  case f16 | bf16 => exact BitVec.and_assoc ..
  case i32 | n32 => exact vintRes_eq _ sat (ofInt_natAbs_toInt a)

/-- The sign bit flipped, or the negation (06 R144, R145). -/
theorem vnegOp_eq (t : VTy) (sat : Bool) (a : W32) : vnegOp t sat a =
    match t with
    | .f16 | .bf16 => (a &&& 0xFFFF#32) ^^^ 0x8000#32
    | .f32 => a ^^^ 0x80000000#32
    | t => if sat then keptIn t (-a.toInt) else 0#32 - a := by
  cases t
  case f32 | f16 | bf16 => rfl
  case i32 | n32 => exact vintRes_eq _ sat (ofInt_neg_toInt a)

/-! ### Shifts (06 R146) -/

theorem shlOp_eq (x : W32) (n : Nat) : shlOp x n = x <<< n := by
  unfold shlOp
  split
  · next h => exact (BitVec.shiftLeft_eq_zero h).symm
  · rfl

theorem shrOp_eq (x : W32) (n : Nat) : shrOp x n = x >>> n := by
  unfold shrOp
  split
  · next h => exact (BitVec.ushiftRight_eq_zero h).symm
  · rfl

theorem shaOp_eq (x : W32) (n : Nat) : shaOp x n = x.sshiftRight n := by
  unfold shaOp
  split
  · next h =>
    refine BitVec.eq_of_getLsbD_eq fun i hi => ?_
    rw [BitVec.getLsbD_sshiftRight, if_neg (show ¬ n + i < 32 by omega), BitVec.msb_eq_getLsbD_last,
      decide_eq_false (show ¬ 32 ≤ i by omega), Bool.not_false, Bool.true_and, apply_ite (BitVec.getLsbD · i), BitVec.getLsbD_zero,
      BitVec.getLsbD_allOnes, decide_eq_true hi]
    cases x.getLsbD 31 <;> rfl
  · rfl

/-! ### Fields of a register (06 R150, R151) -/

/-- A field of a register as a number. -/
theorem natBits_eq_toNat_extractLsb' {w n hi lo : Nat} (x : BitVec w) (h : hi + 1 = lo + n) (hn : 0 < n) :
    natBits x.toNat hi lo = (x.extractLsb' lo n).toNat := by
  rw [natBits, BitVec.extractLsb'_toNat, show hi - lo + 1 = n by omega]

/-- A pattern of n bits read as two's complement is the signed reading of its bit vector. -/
theorem asInt_toNat {n : Nat} (x : BitVec n) (hn : 0 < n) : asInt n x.toNat = x.toInt := by
  have hpow : 2 ^ n = 2 * 2 ^ (n - 1) := by rw [← Nat.pow_succ', Nat.succ_eq_add_one, Nat.sub_add_cancel hn]
  have hcast : (2 : Int) ^ n = (2 ^ n : Nat) := (Int.natCast_pow 2 n).symm
  unfold asInt
  rw [BitVec.toInt_eq_toNat_cond, Nat.mod_eq_of_lt x.isLt, hcast]
  dsimp only
  split <;> split <;> omega

theorem packBits_pos (w : PWidth) : 0 < packBits w := by cases w <;> decide

/-- An unpacked element, with its sign or without. -/
theorem unpackLane_eq (w : PWidth) (sx : Bool) (x : BitVec 2048) (j : Nat) :
    (let e := natBits x.toNat (packBits w * j + packBits w - 1) (packBits w * j)
     if sx then BitVec.ofInt 32 (asInt (packBits w) e) else ofPat e) =
      let e := x.extractLsb' (packBits w * j) (packBits w)
      if sx then e.signExtend 32 else e.setWidth 32 := by
  have hpos := packBits_pos w
  dsimp only
  rw [natBits_eq_toNat_extractLsb' x (by omega) hpos, asInt_toNat _ hpos, ofPat, BitVec.ofNat_toNat]
  rfl

theorem ite_le_eq_ite_lt {n m : Nat} (x y : W32) : (if n ≤ m then x else y) = if m < n then y else x := by
  rcases Nat.lt_or_ge m n with h | h
  · rw [if_neg (Nat.not_le.2 h), if_pos h]
  · rw [if_pos h, if_neg (Nat.not_lt.2 h)]

theorem lane_mixLanes (c : Word) (x y : BitVec 2048) {j : Nat} (hj : j < 64) :
    lane (mixLanes c x y) j = if c.getLsbD j then lane x j else lane y j := lane_ofLanes _ hj

/-- A lane that stands alone in a register is its lane 0. -/
theorem lane_setWidth (x : W32) (j : Nat) : lane (x.setWidth 2048) j = if j = 0 then x else 0#32 := by
  refine BitVec.eq_of_getLsbD_eq fun i hi => ?_
  rw [lane, BitVec.getLsbD_extractLsb', BitVec.getLsbD_setWidth]
  split
  · next h =>
    subst h
    simp [hi, Nat.lt_trans hi (by decide : 32 < 2048)]
  · next h => simp [BitVec.getLsbD_of_ge x (32 * j + i) (by omega)]

/-! ### What a command leaves -/

/-- The command commits from u one covered result: of Vd, in the lanes of a mask, with the lanes of g. -/
def LeavesLanes (s u : State) (k : Ctl) (en : Entry) (i : Instr) (d : BitVec 5) (lanes : Word) (g : Nat → W32) : Prop :=
  ∃ v : BitVec 2048, (∀ j, j < 64 → lane v j = g j) ∧ exec i s = .next (u.commit .vx k en [⟨.v d, v, lanes⟩] true true)

section Leaves
variable {s : State} {k : Ctl} {en : Entry} {i : Instr} {d : BitVec 5} {m : BitVec 3} {a b c : BitVec 5} {g : Nat → W32}

theorem leavesLanes_of_vxLanes {f : Slot → Entry → BitVec 2048} (h : Ready s .vx k en) (hexec : exec i s = vxLanes k d m f s)
    (hg : ∀ j, j < 64 → lane (f s.me en) j = g j) : LeavesLanes s s k en i d (s.me.getK m) g :=
  ⟨_, hg, hexec.trans (vxLanes_of_ready h d m f)⟩

theorem leavesLanes_of_vx1 {f : W32 → W32} (h : Ready s .vx k en) (hexec : exec i s = vx1 k d m a f s)
    (hg : ∀ j, f (lane (s.me.getV a) j) = g j) : LeavesLanes s s k en i d (s.me.getK m) g :=
  leavesLanes_of_vxLanes h hexec fun j hj => (lane_ofLanes _ hj).trans (hg j)

theorem leavesLanes_of_vx2 {f : W32 → W32 → W32} (h : Ready s .vx k en) (hexec : exec i s = vx2 k d m a b f s)
    (hg : ∀ j, f (lane (s.me.getV a) j) (lane (s.me.getV b) j) = g j) : LeavesLanes s s k en i d (s.me.getK m) g :=
  leavesLanes_of_vxLanes h hexec fun j hj => (lane_ofLanes _ hj).trans (hg j)

theorem leavesLanes_of_vx3 {f : W32 → W32 → W32 → W32} (h : Ready s .vx k en) (hexec : exec i s = vx3 k d m a b c f s)
    (hg : ∀ j, f (lane (s.me.getV a) j) (lane (s.me.getV b) j) (lane (s.me.getV c) j) = g j) :
    LeavesLanes s s k en i d (s.me.getK m) g :=
  leavesLanes_of_vxLanes h hexec fun j hj => (lane_ofLanes _ hj).trans (hg j)

theorem leavesLanes_of_vxShift {f : W32 → Nat → W32} {n : VShift} (h : Ready s .vx k en) (hexec : exec i s = vxShift k d m a n f s)
    (hg : ∀ j, f (lane (s.me.getV a) j) (laneWord.amount s.me n j) = g j) : LeavesLanes s s k en i d (s.me.getK m) g := by
  cases n with
  | reg b => exact leavesLanes_of_vx2 (f := fun x y => f x y.toNat) h hexec hg
  | imm n => exact leavesLanes_of_vx1 (f := fun x => f x n.toNat) h hexec hg

/-- A lane-by-lane command leaves the value of its rule in each lane. -/
theorem laneWord_leaves (hi : laneWord s.me en i = some (k, d, m, g)) (h : Ready s .vx k en) :
    LeavesLanes s s k en i d (s.me.getK m) g := by
  unfold laneWord at hi
  split at hi <;> cases hi
  case h_1 t rm sat a b => exact leavesLanes_of_vx2 h (exec_vadd ..) fun j => ite_isFp_vintRes t sat (ofInt_vint_add t _ _)
  case h_2 t rm sat a b => exact leavesLanes_of_vx2 h (exec_vsub ..) fun j => ite_isFp_vintRes t sat (ofInt_vint_sub t _ _)
  case h_3 t rm sat a b => exact leavesLanes_of_vx2 h (exec_vmul ..) fun j => ite_isFp_vintRes t sat (ofInt_vint_mul t _ _)
  case h_4 => exact leavesLanes_of_vx3 h (exec_vfma ..) fun _ => rfl
  case h_5 => exact leavesLanes_of_vx3 h (exec_vfms ..) fun _ => rfl
  case h_6 => exact leavesLanes_of_vx3 h (exec_vfnma ..) fun _ => rfl
  case h_7 => exact leavesLanes_of_vx2 h (exec_vdiv ..) fun _ => rfl
  case h_8 => exact leavesLanes_of_vx1 h (exec_vsqrt ..) fun _ => rfl
  case h_9 => exact leavesLanes_of_vx1 h (exec_vexp2 ..) fun _ => rfl
  case h_10 => exact leavesLanes_of_vx1 h (exec_vlog2 ..) fun _ => rfl
  case h_11 => exact leavesLanes_of_vx2 h (exec_vmin ..) fun _ => congrFun (congrFun (vminOp_eq_minLane _) _) _
  case h_12 => exact leavesLanes_of_vx2 h (exec_vmax ..) fun _ => congrFun (congrFun (vmaxOp_eq_maxLane _) _) _
  case h_13 => exact leavesLanes_of_vx1 h (exec_vabs ..) fun _ => vabsOp_eq _ _ _
  case h_14 => exact leavesLanes_of_vx1 h (exec_vneg ..) fun _ => vnegOp_eq _ _ _
  case h_15 => exact leavesLanes_of_vx2 h (exec_vand ..) fun _ => rfl
  case h_16 => exact leavesLanes_of_vx2 h (exec_vor ..) fun _ => rfl
  case h_17 => exact leavesLanes_of_vx2 h (exec_vxor ..) fun _ => rfl
  case h_18 => exact leavesLanes_of_vxShift h (exec_vshl ..) fun _ => shlOp_eq _ _
  case h_19 => exact leavesLanes_of_vxShift h (exec_vshr ..) fun _ => shrOp_eq _ _
  case h_20 => exact leavesLanes_of_vxShift h (exec_vsha ..) fun _ => shaOp_eq _ _
  case h_21 => exact leavesLanes_of_vx2 h (exec_vmulh ..) fun _ => rfl
  case h_22 => exact leavesLanes_of_vxLanes h (exec_vsel ..) fun _ hj => lane_mixLanes _ _ _ hj
  case h_23 a =>
    exact leavesLanes_of_vxLanes h (exec_kpopc ..) fun _ hj => (lane_spread _ hj).trans (congrArg _ (popCount_eq_bitsSet _))
  case h_24 => exact leavesLanes_of_vxLanes h (exec_vcvt ..) fun _ hj => lane_ofLanes _ hj
  case h_25 w part sx a =>
    exact leavesLanes_of_vxLanes h (exec_vunpack ..) fun j hj => (lane_ofLanes _ hj).trans (unpackLane_eq w sx _ _)
  case h_26 => exact leavesLanes_of_vx2 h (exec_vscale ..) fun _ => rfl
  case h_27 => exact leavesLanes_of_vxLanes h (exec_vperm ..) fun j hj => (lane_ofLanes _ hj).trans (ite_le_eq_ite_lt _ _)
  case h_28 => exact leavesLanes_of_vxLanes h (exec_vbcast ..) fun _ hj => lane_spread _ hj
  case h_29 => exact leavesLanes_of_vxLanes h (exec_vget ..) fun j _ => lane_setWidth _ j
  case h_30 => exact leavesLanes_of_vxLanes h (exec_viota ..) fun _ hj => lane_ofLanes _ hj
  case h_31 => exact leavesLanes_of_vxLanes h (exec_vmov ..) fun _ _ => rfl
  case h_32 => exact leavesLanes_of_vxLanes h (exec_vmovi ..) fun _ hj => lane_spread _ hj

end Leaves

/-- Settles O27: each command builds its result lane by lane, and the law of its operation reads a lane. -/
theorem vectorLanes : Obligations.VectorLanes :=
  fun _ _ _ _ _ _ _ hi h => laneWord_leaves hi h

end Sys2Proof.Machine

/-! SUPPORT. The laws of VSORT (06 R155): keys are ordered by value, NaN last, and insertion in lane order is a stable sort. -/
namespace Sys2Proof.Machine

/-! ### The order of keys -/

/-- Below, among or above the finite values. -/
def Num.side : Num → Int
  | .nan => 0
  | .inf neg => if neg then -1 else 1
  | .fin .. => 0

/-- A finite value in units of 2^lo. -/
def Num.units (lo : Int) : Num → Int
  | .nan => 0
  | .inf _ => 0
  | .fin neg m e => scaled neg m e lo

/-- The exponent from which on downward a value is a whole number of units. -/
def Num.unitExp : Num → Int
  | .nan => 0
  | .inf _ => 0
  | .fin _ _ e => e

/-- A value in smaller units. -/
theorem scaled_eq_mul (neg : Bool) (m : Nat) {e e0 lo : Int} (hlo : lo ≤ e0) (he : e0 ≤ e) :
    scaled neg m e lo = scaled neg m e e0 * 2 ^ (e0 - lo).toNat := by
  have hexp : (e - lo).toNat = (e - e0).toNat + (e0 - lo).toNat := by omega
  have hnat : ((m * 2 ^ (e - lo).toNat : Nat) : Int) = (m * 2 ^ (e - e0).toNat : Nat) * 2 ^ (e0 - lo).toNat := by
    rw [hexp, Nat.pow_add, ← Nat.mul_assoc, Int.natCast_mul, Int.natCast_pow]
    rfl
  unfold scaled
  dsimp only
  rw [hnat]
  cases neg
  · rfl
  · exact (Int.neg_mul ..).symm

/-- Finite values compare alike in any units that both are whole numbers of. -/
theorem scaled_lt_iff (na nb : Bool) (ma mb : Nat) {ea eb lo : Int} (ha : lo ≤ ea) (hb : lo ≤ eb) :
    scaled na ma ea (min ea eb) < scaled nb mb eb (min ea eb) ↔ scaled na ma ea lo < scaled nb mb eb lo := by
  rw [scaled_eq_mul na ma (Int.le_min.2 ⟨ha, hb⟩) (Int.min_le_left ea eb), scaled_eq_mul nb mb (Int.le_min.2 ⟨ha, hb⟩) (Int.min_le_right ea eb),
    Int.mul_lt_mul_right (Int.pow_pos (by decide))]

/-- The order of two numbers: by side, and finite values by their units. -/
theorem Num.lt_iff {a b : Num} {lo : Int} (ha : a.isNan = false) (hb : b.isNan = false) (hla : lo ≤ a.unitExp) (hlb : lo ≤ b.unitExp) :
    a.lt b = true ↔ a.side < b.side ∨ a.side = b.side ∧ a.units lo < b.units lo := by
  cases a with
  | nan => cases ha
  | inf na =>
    cases b with
    | nan => cases hb
    | inf nb => cases na <;> cases nb <;> simp [Num.lt, Num.side, Num.units]
    | fin nb mb eb => cases na <;> simp [Num.lt, Num.side]
  | fin na ma ea =>
    cases b with
    | nan => cases hb
    | inf nb => cases nb <;> simp [Num.lt, Num.side]
    | fin nb mb eb =>
      simp only [Num.lt, Num.side, Num.units, decide_eq_true_eq, scaled_lt_iff na nb ma mb (ea := ea) (eb := eb) hla hlb, true_and, Int.lt_irrefl, false_or]

theorem Num.lt_asymm {a b : Num} (ha : a.isNan = false) (hb : b.isNan = false) (h : a.lt b = true) : b.lt a = false := by
  obtain ⟨lo, hla, hlb⟩ : ∃ lo, lo ≤ a.unitExp ∧ lo ≤ b.unitExp := ⟨_, Int.min_le_left .., Int.min_le_right ..⟩
  rw [Num.lt_iff ha hb hla hlb] at h
  rw [← Bool.not_eq_true, Num.lt_iff hb ha hlb hla]
  omega

/-- Where one number is below another, a third is above the first or below the second. -/
theorem Num.lt_cotrans {a b c : Num} (ha : a.isNan = false) (hb : b.isNan = false) (hc : c.isNan = false) (h : a.lt c = true) :
    a.lt b = true ∨ b.lt c = true := by
  obtain ⟨lo, hla, hlb, hlc⟩ : ∃ lo, lo ≤ a.unitExp ∧ lo ≤ b.unitExp ∧ lo ≤ c.unitExp :=
    ⟨Min.min (Min.min a.unitExp b.unitExp) c.unitExp, by omega⟩
  rw [Num.lt_iff ha hc hla hlc] at h
  rw [Num.lt_iff ha hb hla hlb, Num.lt_iff hb hc hlb hlc]
  omega

/-- A key goes before another where it is a number and the other is NaN or comes later by value. -/
theorem keyBefore_iff (t : VTy) (desc : Bool) (a b : W32) :
    keyBefore t desc a b = true ↔ (velem t a).isNan = false ∧ ((velem t b).isNan = true ∨
      (velem t b).isNan = false ∧ (if desc then (velem t b).lt (velem t a) else (velem t a).lt (velem t b)) = true) := by
  unfold keyBefore
  dsimp only
  cases (velem t a).isNan
  case true => simp only [if_true, Bool.false_eq_true, Bool.true_eq_false, false_and]
  case false =>
    cases (velem t b).isNan
    case true => simp only [if_true, Bool.false_eq_true, if_false, true_or, and_self]
    case false => simp only [Bool.false_eq_true, if_false, false_or, true_and]

theorem keyBefore_asymm {t : VTy} {desc : Bool} {a b : W32} (h : keyBefore t desc a b = true) : keyBefore t desc b a = false := by
  obtain ⟨ha, hab⟩ := (keyBefore_iff ..).1 h
  refine Bool.eq_false_iff.2 fun h' => ?_
  obtain ⟨hb, hba⟩ := (keyBefore_iff ..).1 h'
  replace hab := (hab.resolve_left (by rw [hb]; decide)).2
  replace hba := (hba.resolve_left (by rw [ha]; decide)).2
  cases desc
  · exact Bool.eq_false_iff.1 (Num.lt_asymm ha hb hab) hba
  · exact Bool.eq_false_iff.1 (Num.lt_asymm hb ha hab) hba

/-- Where a key goes before another, a third goes after the first or before the second. -/
theorem keyBefore_cotrans {t : VTy} {desc : Bool} {a c : W32} (b : W32) (h : keyBefore t desc a c = true) :
    keyBefore t desc a b = true ∨ keyBefore t desc b c = true := by
  obtain ⟨ha, hac⟩ := (keyBefore_iff ..).1 h
  rw [keyBefore_iff, keyBefore_iff]
  cases hb : (velem t b).isNan
  case true => exact .inl ⟨ha, .inl rfl⟩
  case false =>
    rcases hac with hc | ⟨hc, hac⟩
    · exact .inr ⟨rfl, .inl hc⟩
    · cases desc
      · exact (Num.lt_cotrans ha hb hc hac).imp (fun h => ⟨ha, .inr ⟨rfl, h⟩⟩) fun h => ⟨rfl, .inr ⟨hc, h⟩⟩
      · exact (Num.lt_cotrans hc hb ha hac).symm.imp (fun h => ⟨ha, .inr ⟨rfl, h⟩⟩) fun h => ⟨rfl, .inr ⟨hc, h⟩⟩

/-! ### A stable sort -/

/-- A lane is inserted before the first that it goes before, as `insertKey` inserts a pair. -/
def insertLane (goes : Nat → Nat → Bool) (i : Nat) : List Nat → List Nat
  | [] => [i]
  | j :: o => if goes i j then i :: j :: o else j :: insertLane goes i o

/-- The lanes of a list are inserted in turn. -/
def stableSort (goes : Nat → Nat → Bool) (l : List Nat) : List Nat := l.foldl (fun o i => insertLane goes i o) []

theorem insertLane_perm (goes : Nat → Nat → Bool) (i : Nat) (o : List Nat) : (insertLane goes i o).Perm (i :: o) := by
  induction o with
  | nil => exact .refl _
  | cons j o ih =>
    rw [insertLane]
    split
    · exact .refl _
    · exact (ih.cons j).trans (List.Perm.swap i j o)

theorem mem_insertLane {goes : Nat → Nat → Bool} {i n : Nat} {o : List Nat} : n ∈ insertLane goes i o ↔ n = i ∨ n ∈ o :=
  (insertLane_perm goes i o).mem_iff.trans List.mem_cons

theorem foldl_insertLane_perm (goes : Nat → Nat → Bool) (l o : List Nat) : (l.foldl (fun o i => insertLane goes i o) o).Perm (o ++ l) := by
  induction l generalizing o with
  | nil => exact .of_eq (List.append_nil o).symm
  | cons i l ih => exact (ih _).trans (((insertLane_perm goes i o).append_right l).trans List.perm_middle.symm)

theorem stableSort_perm (goes : Nat → Nat → Bool) (l : List Nat) : (stableSort goes l).Perm l := foldl_insertLane_perm goes l []

/-- Two lanes stand in order: the later does not go before the earlier, and goes with it only where it is the higher lane. -/
def InOrder (goes : Nat → Nat → Bool) (i j : Nat) : Prop := goes j i = false ∧ (goes i j = false → i < j)

section Stable
variable {goes : Nat → Nat → Bool} (hasymm : ∀ i j, goes i j = true → goes j i = false)
  (hcotrans : ∀ i j k, goes i k = true → goes i j = true ∨ goes j k = true)
include hasymm hcotrans

/-- A lane above those in order is inserted in order. -/
theorem pairwise_insertLane {i : Nat} {o : List Nat} (ho : o.Pairwise (InOrder goes)) (hi : ∀ j ∈ o, j < i) :
    (insertLane goes i o).Pairwise (InOrder goes) := by
  induction o with
  | nil => exact List.pairwise_singleton _ _
  | cons j o ih =>
    obtain ⟨hj, ho'⟩ := List.pairwise_cons.1 ho
    rw [insertLane]
    split
    · next hij =>
      have hfirst : ∀ n ∈ j :: o, goes i n = true := fun n hn => by
        rcases List.mem_cons.1 hn with rfl | hn
        · exact hij
        · exact (hcotrans i n j hij).resolve_right (by rw [(hj n hn).1]; decide)
      exact List.pairwise_cons.2 ⟨fun n hn => ⟨hasymm i n (hfirst n hn), fun h => by rw [hfirst n hn] at h; cases h⟩, ho⟩
    · next hij =>
      refine List.pairwise_cons.2 ⟨fun n hn => ?_, ih ho' fun n hn => hi n (List.mem_cons_of_mem j hn)⟩
      rcases mem_insertLane.1 hn with rfl | hn
      · exact ⟨Bool.eq_false_iff.2 hij, fun _ => hi j List.mem_cons_self⟩
      · exact hj n hn

theorem pairwise_foldl_insertLane {l o : List Nat} (hl : l.Pairwise (· < ·)) (ho : o.Pairwise (InOrder goes))
    (hlo : ∀ i ∈ l, ∀ j ∈ o, j < i) : (l.foldl (fun o i => insertLane goes i o) o).Pairwise (InOrder goes) := by
  induction l generalizing o with
  | nil => exact ho
  | cons i l ih =>
    obtain ⟨hi, hl'⟩ := List.pairwise_cons.1 hl
    refine ih hl' (pairwise_insertLane hasymm hcotrans ho (hlo i List.mem_cons_self)) fun n hn j hj => ?_
    rcases mem_insertLane.1 hj with rfl | hj
    · exact hi n hn
    · exact hlo n (List.mem_cons_of_mem i hn) j hj

/-- A rising list of lanes sorts into order. -/
theorem stableSort_pairwise {l : List Nat} (hl : l.Pairwise (· < ·)) : (stableSort goes l).Pairwise (InOrder goes) :=
  pairwise_foldl_insertLane hasymm hcotrans hl List.Pairwise.nil fun _ _ _ h => absurd h List.not_mem_nil

end Stable

/-! ### The lanes of VSORT (06 R155) -/

section SortedLanes
variable (t : VTy) (desc : Bool) (act : Word) (a b : BitVec 2048)

/-- Whether lane i goes strictly before lane j by key. -/
def laneBefore (i j : Nat) : Bool := keyBefore t desc (lane a i) (lane a j)

/-- A lane's key and its companion. -/
def sortPair (i : Nat) : W32 × W32 := (lane a i, lane b i)

/-- The lanes in the order in which VSORT places them. -/
def sortOrder : List Nat :=
  stableSort (laneBefore t desc a) ((List.range 64).filter fun i => act.getLsbD i) ++ (List.range 64).filter fun i => !act.getLsbD i

theorem insertKey_map (i : Nat) (o : List Nat) :
    insertKey t desc (sortPair a b i) (o.map (sortPair a b)) = (insertLane (laneBefore t desc a) i o).map (sortPair a b) := by
  induction o with
  | nil => rfl
  | cons j o ih =>
    rw [List.map_cons, insertKey, ih, insertLane, apply_ite (List.map (sortPair a b))]
    rfl

theorem foldl_insertKey_map (l o : List Nat) :
    (l.map (sortPair a b)).foldl (fun l p => insertKey t desc p l) (o.map (sortPair a b)) =
      (l.foldl (fun o i => insertLane (laneBefore t desc a) i o) o).map (sortPair a b) := by
  induction l generalizing o with
  | nil => rfl
  | cons i l ih => rw [List.map_cons, List.foldl_cons, List.foldl_cons, insertKey_map, ih]

theorem map_snd_filter_pairs (p : Nat → Bool) :
    (((below 64).map fun i => (i, lane a i, lane b i)).filter fun q => p q.1).map Prod.snd =
      ((List.range 64).filter p).map (sortPair a b) := by
  rw [List.filter_map, List.map_map]
  rfl

theorem sortLanes_eq : sortLanes t desc act a b = (sortOrder t desc act a).map (sortPair a b) := by
  unfold sortLanes sortOrder
  simp only [map_snd_filter_pairs a b (fun i => act.getLsbD i), map_snd_filter_pairs a b (fun i => !act.getLsbD i), List.map_append]
  exact congrArg (· ++ _) (foldl_insertKey_map t desc a b _ [])

theorem length_sortOrder : (sortOrder t desc act a).length = 64 := by
  have hsplit := (List.filter_append_perm (fun i => act.getLsbD i) (List.range 64)).length_eq
  rw [List.length_range, List.length_append] at hsplit
  rw [sortOrder, List.length_append, (stableSort_perm _ _).length_eq, hsplit]

/-- The lane of a sorted register at a place. -/
theorem lane_ofList_sorted (f : W32 × W32 → W32) {n i : Nat} (h : (sortOrder t desc act a)[n]? = some i) :
    lane (ofList ((sortLanes t desc act a b).map f)) n = f (sortPair a b i) := by
  obtain ⟨hn, -⟩ := List.getElem?_eq_some_iff.1 h
  rw [ofList, lane_ofLanes _ (length_sortOrder t desc act a ▸ hn), sortLanes_eq, List.map_map, List.getD_eq_getElem?_getD,
    List.getElem?_map, h]
  rfl

theorem laneBefore_asymm (i j : Nat) (h : laneBefore t desc a i j = true) : laneBefore t desc a j i = false := keyBefore_asymm h

theorem laneBefore_cotrans (i j k : Nat) (h : laneBefore t desc a i k = true) :
    laneBefore t desc a i j = true ∨ laneBefore t desc a j k = true := keyBefore_cotrans (lane a j) h

/-- The active lanes stand in order, equal keys by lane. -/
theorem pairwise_sorted : (stableSort (laneBefore t desc a) ((List.range 64).filter fun i => act.getLsbD i)).Pairwise
    (InOrder (laneBefore t desc a)) :=
  stableSort_pairwise (laneBefore_asymm t desc a) (laneBefore_cotrans t desc a) (List.pairwise_lt_range.filter _)

end SortedLanes

end Sys2Proof.Machine

/-! SUPPORT. The laws of VSORT, VPUT, VRAND, VLUT and the spills (06 R152, R155, R156, R158 to R160): what each command commits, and what a spill
in an accumulator column leaves. -/
namespace Sys2Proof.Machine

/-! ### The meaning of each command -/

theorem exec_vsort : ∀ k t desc d m a b c s, exec (.vsort k t desc d m a b c) s = execVsort k t desc d m a b c s := by intros; rfl
theorem exec_vput : ∀ k d m a ln s, exec (.vput k d m a ln) s = execVput k d m a ln s := by intros; rfl
theorem exec_vrand : ∀ k d m s, exec (.vrand k d m) s = execVrand k d m s := by intros; rfl
theorem exec_vlut : ∀ k cb part wide d m a s, exec (.vlut k cb part wide d m a) s = execVlut k cb part wide d m a s := by intros; rfl
theorem exec_vspill : ∀ k a id s, exec (.vspill k a id) s = execVspill k a id s := by intros; rfl
theorem exec_vfill : ∀ k d id s, exec (.vfill k d id) s = execVfill k d id s := by intros; rfl

/-! ### Codebooks (02 R47) -/

/-- An entry of a codebook, by a code of four bits. -/
theorem cbEntry_eq (book : BitVec 256) {code : Nat} (h : code < 16) : cbEntry book code = (book.extractLsb' (16 * code) 16).toNat := by
  rw [cbEntry, Nat.mod_eq_of_lt h]
  exact natBits_eq_toNat_extractLsb' book (by omega) (by decide)

/-- A code of four bits. -/
theorem natBits_code (x : BitVec 2048) (j : Nat) : natBits x.toNat (4 * j + 3) (4 * j) = (x.extractLsb' (4 * j) 4).toNat :=
  natBits_eq_toNat_extractLsb' x (by omega) (by decide)

/-! ### Spills in accumulator columns (04 R108; 06 R159) -/

/-- A SPILL_MAP word names the column that it was made from. -/
theorem spillLocOf_col {z c : Nat} (hz : z < 16) (hc : c < 64) : spillLocOf (SpillLoc.col z c).word = some (.col z c) := by
  have hn : (SpillLoc.col z c).word.toNat = 2 ^ 63 + (z * 64 + c) := by
    rw [SpillLoc.word, BitVec.toNat_ofNat, Nat.mod_eq_of_lt (by omega), Nat.add_assoc]
  have hvalid : (SpillLoc.col z c).word.getLsbD 63 = true := by
    rw [BitVec.getLsbD, hn, Nat.testBit_eq_decide_div_mod_eq, decide_eq_true_eq]
    omega
  have hwhere : (SpillLoc.col z c).word.getLsbD 62 = false := by
    rw [BitVec.getLsbD, hn, Nat.testBit_eq_decide_div_mod_eq, decide_eq_false_iff_not]
    omega
  have htile : fld (SpillLoc.col z c).word 9 6 = z := by
    rw [fld, hn, natBits, Nat.shiftRight_eq_div_pow]
    omega
  have hcol : fld (SpillLoc.col z c).word 5 0 = c := by
    rw [fld, hn, natBits, Nat.shiftRight_eq_div_pow]
    omega
  rw [spillLocOf, hvalid, hwhere, htile, hcol]
  rfl

/-- A tile whose column holds a spill of an owner. -/
def Tile.holdSpill (t : Tile) (z c : Nat) (owner : Nat × Nat) (v : BitVec 2048) : Tile :=
  { (t.setCol z c v).cleanCol z c with spillCol := mput t.spillCol (z * 64 + c) (some owner) }

theorem Tile.col_holdSpill (t : Tile) (z c : Nat) (owner : Nat × Nat) (v : BitVec 2048) : (t.holdSpill z c owner v).col z c = v :=
  mget_mput_same ..

theorem Tile.spillCol_holdSpill (t : Tile) (z c : Nat) (owner : Nat × Nat) (v : BitVec 2048) :
    mget none (t.holdSpill z c owner v).spillCol (z * 64 + c) = some owner :=
  mget_mput_same ..

/-- Every other column is as before. -/
theorem Tile.z_holdSpill_ne (t : Tile) (z c : Nat) (owner : Nat × Nat) (v : BitVec 2048) {q : Nat} (h : q ≠ z * 64 + c) :
    mget 0#2048 (t.holdSpill z c owner v).z q = mget 0#2048 t.z q :=
  mget_mput_ne _ _ _ h

/-- The moving slot has spilled v to a column under an id. -/
def State.spillToCol (s : State) (z c id : Nat) (v : BitVec 2048) : State :=
  (s.setTile (tileOf s.cur) ((s.tile (tileOf s.cur)).holdSpill z c (s.cur, id) v)).upMe fun x => x.setSpillMap id (SpillLoc.col z c).word

section SpillToCol
variable (s : State) (z c id : Nat) (v : BitVec 2048)

theorem State.tile_spillToCol :
    (s.spillToCol z c id v).tile (tileOf s.cur) = (s.tile (tileOf s.cur)).holdSpill z c (s.cur, id) v := State.tile_setTile ..

theorem State.me_spillToCol : (s.spillToCol z c id v).me = s.me.setSpillMap id (SpillLoc.col z c).word := State.me_upMe ..

theorem State.slot_spillToCol_ne {n : Nat} (h : n ≠ s.cur) : (s.spillToCol z c id v).slot n = s.slot n := State.slot_upMe_ne _ _ h

end SpillToCol

/-- A spill under an id that names no location goes to the free column. -/
theorem spillTo_of_freeCol {s : State} {id z c : Nat} (v : BitVec 2048) (hid : spillLocOf (s.me.spillMap id) = none)
    (hfree : (s.tile (tileOf s.cur)).freeCol = some (z, c)) : s.spillTo s.cur id v = .ok (s.spillToCol z c id v) := by
  have hloc : s.spillLoc s.cur id = some (.col z c) := by
    have hid' : spillLocOf ((s.slot s.cur).spillMap id) = none := hid
    simp only [State.spillLoc, hid', hfree]
  simp only [State.spillTo, hloc]
  rfl

/-- A commit without results changes the queue, the bounds and the tokens of its slot, and neither its registers nor its system registers. -/
theorem commit_noResults (s : State) (e : Engine) (k : Ctl) (en : Entry) (token : Bool) :
    (s.commit e k en [] true token).me.r = s.me.r ∧ (s.commit e k en [] true token).me.y = s.me.y := by
  unfold State.commit
  rw [State.me_upMe]
  cases s.phase <;> cases en.pop <;> cases en.push <;> cases token <;> exact ⟨rfl, rfl⟩

/-! ### What each command leaves -/

/-- One lane of a mask. -/
theorem getLsbD_and_shiftLeft_one (x : Word) {n j : Nat} (hj : j < 64) : (x &&& (1#64 <<< n)).getLsbD j = (decide (j = n) && x.getLsbD j) := by
  rw [BitVec.getLsbD_and, ← BitVec.twoPow_eq, BitVec.getLsbD_twoPow, Bool.and_comm]
  congr 1
  grind

section Commands
variable {s : State} {k : Ctl} {en : Entry}

/-- What VSPILL leaves: the spill in its column, and the command retired. -/
theorem vspill_of_ready (h : Ready s .vx k en) {a id : BitVec 5} {z c : Nat} (hid : spillLocOf (s.me.spillMap id.toNat) = none)
    (hfree : (s.tile (tileOf s.cur)).freeCol = some (z, c)) :
    exec (.vspill k a id) s = .next ((s.spillToCol z c id.toNat (s.me.getV a)).commit .vx k en [] true true) := by
  refine (exec_vspill ..).trans (runCmd_of_ready h ?_)
  rw [spillTo_of_freeCol _ hid hfree]
  rfl

/-- VFILL of an invalid entry gives zero. -/
theorem vfill_of_invalid (h : Ready s .vx k en) (d : BitVec 5) {id : BitVec 5} (hid : spillLocOf (s.me.spillMap id.toNat) = none) :
    LeavesLanes s s k en (.vfill k d id) d (BitVec.allOnes 64) fun _ => 0#32 := by
  refine ⟨0#2048, fun j _ => ?_, (exec_vfill ..).trans (runCmd_of_ready h ?_)⟩
  · exact BitVec.extractLsb'_zero
  · simp only [hid]

/-- VFILL of a column gives it back and frees it. -/
theorem vfill_of_col (h : Ready s .vx k en) (d : BitVec 5) {id : BitVec 5} {z c : Nat}
    (hid : spillLocOf (s.me.spillMap id.toNat) = some (.col z c)) (hclean : (s.tile (tileOf s.cur)).colPoison z c = false) :
    LeavesLanes s (s.spillFree s.cur id.toNat (.col z c)) k en (.vfill k d id) d (BitVec.allOnes 64)
      (lane ((s.tile (tileOf s.cur)).col z c)) := by
  have hread : s.spillRead s.cur (.col z c) = .ok (s, (s.tile (tileOf s.cur)).col z c, false) := by rw [← hclean]; rfl
  refine ⟨_, fun j _ => rfl, (exec_vfill ..).trans (runCmd_of_ready h ?_)⟩
  simp only [hid, hread]
  rfl

/-- VLUT gives the entry of each lane's code. -/
theorem vlut_leaves (h : Ready s .vx k en) (cb part : BitVec 3) (wide : Bool) (d : BitVec 5) (m : BitVec 3) (a : BitVec 5) :
    LeavesLanes s s k en (.vlut k cb part wide d m a) d (s.me.getK m) fun j =>
      let code := ((s.me.getV a).extractLsb' (4 * (part.toNat * 64 + j)) 4).toNat
      let e := (((s.tile (tileOf s.cur)).codebookFor s.me.job.team cb.toNat).extractLsb' (16 * code) 16).toNat
      if wide then fpLane .f32 .rne (bf16Fmt.decode e) else BitVec.ofNat 32 e := by
  refine ⟨_, fun j hj => ?_, (exec_vlut ..).trans (runCmd_of_ready h rfl)⟩
  rw [lane_ofLanes _ hj, natBits_code]
  dsimp only
  rw [cbEntry_eq _ (BitVec.isLt _)]
  exact apply_ite ..

theorem vrand_leaves (h : Ready s .vx k en) (d : BitVec 5) (m : BitVec 3) :
    LeavesLanes s (s.upMe fun x => { x with vrand := x.vrand + 64#64 }) k en (.vrand k d m) d (s.me.getK m) fun j =>
      praline en.seed (s.me.vrand + BitVec.ofNat 64 j) :=
  ⟨_, fun _ hj => lane_ofLanes _ hj, (exec_vrand ..).trans (runCmd_of_ready h rfl)⟩

end Commands

/-- Settles O29: VSORT by its order of lanes, the others by what each commits. -/
theorem vectorSortAndOthers : Obligations.VectorSortAndOthers := by
  refine ⟨fun s k en t desc d m a b c h => ?sort, fun s k en d a id m h => ⟨fun ln => ?put, vrand_leaves h d m,
    fun cb part wide => vlut_leaves h cb part wide d m a, vfill_of_invalid h d, fun z c => vfill_of_col h d, fun z c hid hfree hz hc => ?spill⟩⟩
  case sort =>
    exact ⟨_, _, _, stableSort_perm _ _, pairwise_sorted t desc (s.me.getK m) (s.me.getV a),
      fun n i hn => ⟨lane_ofList_sorted t desc _ _ (s.me.getV b) Prod.fst hn, lane_ofList_sorted t desc _ _ (s.me.getV b) Prod.snd hn⟩,
      (exec_vsort ..).trans (runCmd_of_ready h rfl)⟩
  case put =>
    exact ⟨_, _, (exec_vput ..).trans (runCmd_of_ready h rfl), lane_spread _ ln.isLt, fun j hj => getLsbD_and_shiftLeft_one _ hj⟩
  case spill =>
    obtain ⟨hr, hy⟩ := commit_noResults (s.spillToCol z c id.toNat (s.me.getV a)) .vx k en true
    have htile := s.tile_spillToCol z c id.toNat (s.me.getV a)
    rw [State.me_spillToCol] at hr hy
    refine ⟨_, vspill_of_ready h hid hfree, ?column, ?owner, ?location, hr, rfl, fun q hq => ?columns, fun n hn => ?slots⟩
    case column => exact (congrArg (Tile.col · z c) htile).trans (Tile.col_holdSpill ..)
    case owner => exact (congrArg (fun x : Tile => mget none x.spillCol (z * 64 + c)) htile).trans (Tile.spillCol_holdSpill ..)
    case location =>
      rw [Slot.spillMap, hy]
      exact (congrArg spillLocOf (mget_mput_same ..)).trans (spillLocOf_col hz hc)
    case columns => exact (congrArg (fun x : Tile => mget 0#2048 x.z q) htile).trans (Tile.z_holdSpill_ne _ z c _ _ hq)
    case slots => exact ((State.commit_frame (s.spillToCol ..) ..).2 n hn).trans (s.slot_spillToCol_ne z c _ _ hn)

end Sys2Proof.Machine

/-! SUPPORT. Memory stays canonical (07 R182): what a meaning, a check or a sequence of them has to give, said once for every form in
which the model composes its operations. -/
namespace Sys2Proof.Machine

/-! ### Forms of composition -/

/-- The next state that a meaning answers, if any, has canonical memory. -/
def NextInv (r : Res) : Prop := ∀ t, r = .next t → t.Inv

/-- What a computation that may stop leaves: `Q` of its result, `E` of its stop. -/
inductive Yields {ε α : Type} (E : ε → Prop) (Q : α → Prop) : Except ε α → Prop
  | ok {a : α} (h : Q a) : Yields E Q (.ok a)
  | error {e : ε} (h : E e) : Yields E Q (.error e)

/-- The state of a stop, where a trap keeps one, has canonical memory. -/
def Stop.Inv : Stop → Prop
  | .wait => True
  | .fault _ => True
  | .after t _ => t.Inv

/-- The state of a stop of an MX command, where it keeps one, has canonical memory. -/
def MxStop.Inv : MxStop → Prop
  | .wait => True
  | .fault _ => True
  | .after t _ => t.Inv
  | .moved t => t.Inv

/-- No condition on a result: a check that only lets a computation go on. -/
def anyResult {α : Type} (_ : α) : Prop := True

section Forms

variable {ε α β : Type} {E : ε → Prop} {P : α → Prop} {Q : β → Prop} {s t : State}

theorem NextInv.next (h : s.Inv) : NextInv (.next s) := fun _ e => by
  injection e with e
  exact e ▸ h

theorem NextInv.ite {c : Prop} [Decidable c] {r q : Res} (hr : NextInv r) (hq : NextInv q) : NextInv (if c then r else q) := by
  split
  · exact hr
  · exact hq

theorem State.ite_inv {c : Prop} [Decidable c] (hs : s.Inv) (ht : t.Inv) : (if c then s else t).Inv := by
  split
  · exact hs
  · exact ht

theorem State.iteFst_inv {c : Prop} [Decidable c] {p q : State × α} (hp : p.1.Inv) (hq : q.1.Inv) : (if c then p else q).1.Inv := by
  split
  · exact hp
  · exact hq

theorem State.itePair_inv {c : Prop} [Decidable c] {a b : α} (hs : s.Inv) (ht : t.Inv) : (if c then (s, a) else (t, b)).1.Inv :=
  State.iteFst_inv hs ht

theorem State.foldl_inv {f : State → α → State} {l : List α} (hf : ∀ s a, s.Inv → (f s a).Inv) (h : s.Inv) : (l.foldl f s).Inv :=
  foldl_keeps State.Inv f l s hf h

theorem State.upTo_inv {f : Nat → State → State} {n : Nat} (hf : ∀ i s, s.Inv → (f i s).Inv) (h : s.Inv) : (upTo n f s).Inv :=
  upTo_holds State.Inv f n s hf h

/-- The state of a pair that an operation answers. -/
theorem State.inv_of_fst {p : State × α} {a : α} (e : p = (t, a)) (h : p.1.Inv) : t.Inv := by
  rw [e] at h
  exact h

/-- Steps in sequence: the second starts from what the first yields. -/
theorem Yields.bind {r : Except ε α} {f : α → Except ε β} (hr : Yields E P r) (hf : ∀ a, P a → Yields E Q (f a)) :
    Yields E Q (r >>= f) := by
  cases hr with
  | ok h => exact hf _ h
  | error h => exact .error h

/-- A check, then the rest. -/
theorem Yields.check {r : Except ε α} {f : α → Except ε β} (hr : Yields E anyResult r) (hf : ∀ a, Yields E Q (f a)) :
    Yields E Q (r >>= f) := hr.bind fun a _ => hf a

/-- A state and another result. -/
theorem Yields.pair {a : α} (h : s.Inv) : Yields E (fun r => r.1.Inv) (.ok (s, a)) := .ok h

theorem Yields.ite {c : Prop} [Decidable c] {r q : Except ε α} (hr : Yields E P r) (hq : Yields E P q) :
    Yields E P (if c then r else q) := by
  split
  · exact hr
  · exact hq

/-- A check in either branch, then the rest in common. -/
theorem Yields.iteCheck {c : Prop} [Decidable c] {r q : Except ε α} {f : α → Except ε β} (hr : Yields E anyResult r)
    (hq : Yields E anyResult q) (hf : ∀ a, Yields E Q (f a)) : Yields E Q (if c then r >>= f else q >>= f) :=
  .ite (hr.check hf) (hq.check hf)

theorem Yields.foldl {γ : Type} {f : Except ε α → γ → Except ε α} {l : List γ} {r : Except ε α}
    (hf : ∀ r c, Yields E P r → Yields E P (f r c)) (hr : Yields E P r) : Yields E P (l.foldl f r) :=
  foldl_keeps (Yields E P) f l r hf hr

theorem Yields.of_ok {r : Except ε α} {a : α} (h : Yields E P r) (e : r = .ok a) : P a := by
  cases e
  cases h with
  | ok h => exact h

theorem Yields.of_error {r : Except ε α} {x : ε} (h : Yields E P r) (e : r = .error x) : E x := by
  cases e
  cases h with
  | error h => exact h

theorem Yields.keeps {r : M State} (h : Yields Stop.Inv State.Inv r) : M.Keeps r :=
  ⟨fun _ e => h.of_ok e, fun _ _ e => h.of_error e⟩

/-! ### Checks -/

theorem need_yields (c : Bool) : Yields Stop.Inv anyResult (need c) := .ite (.ok trivial) (.error trivial)

theorem liftF_yields (r : Except Flt α) : Yields Stop.Inv anyResult (liftF r) := by
  cases r with
  | ok _ => exact .ok trivial
  | error _ => exact .error trivial

theorem afterF_yields (r : Except Flt α) (h : s.Inv) : Yields Stop.Inv anyResult (afterF s r) := by
  cases r with
  | ok _ => exact .ok trivial
  | error _ => exact .error h

theorem pNeed_yields (c : Bool) : Yields MxStop.Inv anyResult (pNeed c) := .ite (.ok trivial) (.error trivial)

theorem liftP_yields (r : Except Flt α) : Yields MxStop.Inv anyResult (liftP r) := by
  cases r with
  | ok _ => exact .ok trivial
  | error _ => exact .error trivial

theorem liftM_yields {r : M α} (h : Yields Stop.Inv P r) : Yields MxStop.Inv P (liftM_ r) := by
  cases h with
  | ok h => exact .ok h
  | @error e h =>
    cases e with
    | wait => exact .error trivial
    | fault f => exact .error trivial
    | after t f => exact .error h

end Forms

/-! ### The forms in which an instruction answers -/

section Answers

variable {s : State}

theorem direct_nextInv (ss : List (BitVec 5)) (ps : List (BitVec 3)) (f : Slot → Slot) (h : s.Inv) : NextInv (s.direct ss ps f) := by
  rcases State.direct_cases s ss ps f with ⟨_, e⟩ | ⟨_, e⟩ <;> exact e ▸ .next h

theorem directM_nextInv (ss : List (BitVec 5)) (ps : List (BitVec 3)) (cls len : Nat) {f : State → M State} (h : s.Inv)
    (hf : Yields Stop.Inv State.Inv (f s)) : NextInv (s.directM ss ps cls len f) :=
  fun _ e => State.directM_inv ss ps cls len f h hf.keeps e

theorem sync_nextInv (i : Instr) (srcs : List (BitVec 5)) (d : SyDest) {body : State → Entry → M State} (h : s.Inv)
    (hb : ∀ en, Yields Stop.Inv State.Inv (body s en)) : NextInv (s.sync i srcs d body) :=
  fun _ e => State.sync_inv i srcs d body h (fun en => (hb en).keeps) e

theorem runCmd_nextInv (e : Engine) (k : Ctl) {body : State → Entry → M Done} (h : s.Inv)
    (hb : ∀ en, Yields Stop.Inv (fun d => d.s.Inv) (body s en)) : NextInv (s.runCmd e k body) := by
  exact .next (State.issueCmd_inv e k body h (fun en _ ed => (hb en).of_ok ed) fun en _ _ et => (hb en).of_error et)

end Answers

end Sys2Proof.Machine

/-! SUPPORT. Memory stays canonical (07 R182): the operations that change no byte. Where one only updates other fields, its lemma is for
use where it stands around an operation that does more. -/
namespace Sys2Proof.Machine

section NoByte

variable {s : State}

/-! ### Single fields and counters: nothing of the list of cells -/

theorem State.upMe_inv (f : Slot → Slot) (h : s.Inv) : (s.upMe f).Inv := h

theorem State.setBankSeason_inv (t b : Nat) (c : BitVec 2) (h : s.Inv) : (s.setBankSeason t b c).Inv := h

theorem State.giveEngine_inv (tile : Nat) (e : Engine) (n : Nat) (h : s.Inv) : (s.giveEngine tile e n).Inv := h

theorem State.freeSlotTiles_inv (n : Nat) (h : s.Inv) : (s.freeSlotTiles n).Inv := h

theorem State.addGroups_inv (n : Nat) (p : MmaPlan) (a : ARows) (ng : Nat) (h : s.Inv) : (s.addGroups n p a ng).Inv := h

theorem State.abandon_inv (n z : Nat) (mine : Bool) (h : s.Inv) : (s.abandon n z mine).Inv := h

theorem State.endQuanta_inv (n : Nat) (h : s.Inv) : (s.endQuanta n).Inv := h

theorem State.nameCounter_inv (n id : Nat) (h : s.Inv) : (s.nameCounter n id).Inv := h

theorem State.counterAdd_inv (c id : Nat) (n : Int) (err : Bool) (h : s.Inv) : (s.counterAdd c id n err).Inv := h

theorem State.wantP_inv (d : BitVec 3) (b : Bool) (h : s.Inv) : (s.wantP d b).Inv := h

theorem State.wantS_inv (d : BitVec 5) (v : Word) (h : s.Inv) : (s.wantS d v).Inv := h

theorem State.endWait_inv (h : s.Inv) : s.endWait.Inv := h

theorem State.setPhase_inv (p : Phase) (h : s.Inv) : ({ s with phase := p } : State).Inv := h

theorem State.setCur_inv (n : Nat) (h : s.Inv) : ({ s with cur := n } : State).Inv := h

theorem State.heat_inv (va : Nat) (h : s.Inv) : (s.heat va).Inv := h

theorem State.usedMarks_inv (u : SMap Bool) (h : s.Inv) : ({ s with used := u } : State).Inv := h

theorem State.poisonMarks_inv (u : SMap Bool) (h : s.Inv) : ({ s with poison := u } : State).Inv := h

theorem State.pieces_inv (l : List NmPiece) (h : s.Inv) : ({ s with pieces := l } : State).Inv := h

theorem State.setDie_inv (d : Nat) (x : Die) (h : s.Inv) : (s.setDie d x).Inv := h

theorem State.setPrecede_inv (d : Nat) (t : Option Nat) (h : s.Inv) : (s.setPrecede d t).Inv := h

theorem State.countDev_inv (d i : Nat) (h : s.Inv) : (s.countDev d i).Inv := h

theorem State.report_inv (n reason info : Nat) (h : s.Inv) : (s.report n reason info).Inv := h

theorem State.setTask_inv (t : Nat) (x : Task) (h : s.Inv) : (s.setTask t x).Inv := h

theorem State.setTeam_inv (k : Nat) (x : Team) (h : s.Inv) : (s.setTeam k x).Inv := h

theorem State.setFuture_inv (n : Nat) (f : Future) (h : s.Inv) : (s.setFuture n f).Inv := h

theorem State.setCounter_inv (c id : Nat) (w : Word) (h : s.Inv) : (s.setCounter c id w).Inv := h

theorem State.tasks_inv (f : Nat × Task → Nat × Task) (h : s.Inv) : ({ s with tasks := s.tasks.map f } : State).Inv := h

theorem State.unqueue_inv (ctx : Nat) (w : W32) (h : s.Inv) : (s.unqueue ctx w).Inv := h

theorem State.settleReady_inv (h : s.Inv) : s.settleReady.Inv := h

theorem State.csa_inv (m : SMap Slot) (h : s.Inv) : ({ s with csa := m } : State).Inv := h

theorem State.taskQueues_inv (q : SMap (List TqEntry)) (h : s.Inv) : ({ s with taskQ := q } : State).Inv := h

theorem State.dropFutPred_inv (w : W32) (h : s.Inv) : (s.dropFutPred w).Inv := h

theorem State.queueSwaps_inv (l : List Nat) (h : s.Inv) : ({ s with qSwaps := l } : State).Inv := h

theorem State.nameActor_inv (k : Nat) (enq : Bool) (t : Option Nat) (h : s.Inv) : (s.nameActor k enq t).Inv := h

theorem State.upStack_inv (k : Nat) (f : Stack → Stack) (h : s.Inv) : (s.upStack k f).Inv := h

theorem State.upStation_inv (k : Nat) (f : Station → Station) (h : s.Inv) : (s.upStation k f).Inv := h

theorem State.mapReqs_inv (f : FabReq → FabReq) (h : s.Inv) : (s.mapReqs f).Inv := h

theorem State.stations_inv (f : Nat × Station → Nat × Station) (h : s.Inv) : ({ s with stations := s.stations.map f } : State).Inv := h

theorem State.respondTo_inv (k : Nat) (op : SlotOp) (r : SlotHdr) (data : BitVec 512) (poison : BitVec 2) (h : s.Inv) :
    (s.respondTo k op r data poison).Inv := h

theorem State.sendBack_inv (k cls : Nat) (op : SlotOp) (r : SlotHdr) (data : BitVec 512) (poison : BitVec 2) (h : s.Inv) :
    (s.sendBack k cls op r data poison).Inv := h

theorem State.countFar_inv (tenant : Nat) (vas : List Nat) (h : s.Inv) : (s.countFar tenant vas).Inv := h

theorem State.upHostQ_inv (k : Nat) (f : HostQ → HostQ) (h : s.Inv) : (s.upHostQ k f).Inv := h

theorem State.hostTables_inv (q : SMap HostQ) (m : SMap Model) (h : s.Inv) : ({ s with hq := q, models := m } : State).Inv := h

theorem State.hostEnded_inv (w : W32) (reclaimed : Bool) (h : s.Inv) : (s.hostEnded w reclaimed).Inv := h

theorem State.abortAll_inv (k : Nat) (h : s.Inv) : (s.abortAll k).Inv := h

theorem State.setModel_inv (k : Nat) (m : Model) (h : s.Inv) : (s.setModel k m).Inv := h

theorem State.setVf_inv (k : Nat) (v : Vf) (h : s.Inv) : (s.setVf k v).Inv := h

theorem State.upVf_inv (k : Nat) (f : Vf → Vf) (h : s.Inv) : (s.upVf k f).Inv := h

theorem State.irqs_inv (l : List (Nat × Nat)) (h : s.Inv) : ({ s with irqs := l } : State).Inv := h

theorem State.sems_inv (m : SMap (Option Bool)) (h : s.Inv) : ({ s with sems := m } : State).Inv := h

theorem State.answer_inv (kind value : Nat) (h : s.Inv) : (s.answer kind value).Inv := h

theorem State.beginTlbi_inv (sc : TlbiScope) (v : Nat) (h : s.Inv) : (s.beginTlbi sc v).Inv := h

theorem State.bootFails_inv (n : Nat) (h : s.Inv) : (s.bootFails n).Inv := h

/-! ### Caches, rings and requests -/

theorem State.cacheFill_inv (id cap tag : Nat) (h : s.Inv) : (s.cacheFill id cap tag).Inv := State.inv_of_mem h (State.cacheFill_mem ..)

theorem State.fillStream_inv (n e : Nat) (vas : List Nat) (h : s.Inv) : (s.fillStream n e vas).Inv :=
  State.inv_of_mem h (State.fillStream_mem ..)

theorem State.fillCore_inv (n va : Nat) (h : s.Inv) : (s.fillCore n va).Inv := State.cacheFill_inv _ _ _ (State.cacheFill_inv _ _ _ h)

theorem State.countInbound_inv (n : Nat) (phase : W32) (as : List Nat) (h : s.Inv) : (s.countInbound n phase as).Inv :=
  State.inv_of_mem h (State.countInbound_mem ..)

theorem State.submit_inv (i : Instr) (srcs : List (BitVec 5)) (d : SyDest) (h : s.Inv) : (s.submit i srcs d).Inv :=
  State.inv_of_mem h (by rw [(State.submit_frame s i srcs d).1])

theorem State.request_inv (n : Nat) (kind : ReqFor) (win off : Nat) (op : SlotOp) (mask : Word) (data : BitVec 512) (handle : W32)
    (poison : BitVec 2) (h : s.Inv) : (s.request n kind win off op mask data handle poison).Inv :=
  State.ite_inv (State.cacheFill_inv _ _ _ h) (State.cacheFill_inv _ _ _ h)

theorem State.requestAll_inv (n : Nat) (kind : ReqFor) (win : Nat) (op : SlotOp) (bs : List (Nat × Byte)) (h : s.Inv) :
    (s.requestAll n kind win op bs).Inv := State.foldl_inv (fun _ _ h => State.request_inv _ _ _ _ _ _ _ _ _ h) h

theorem State.requestWrites_inv (n : Nat) (kind : ReqFor) (win : Nat) (bs : List (Nat × Byte × Bool)) (h : s.Inv) :
    (s.requestWrites n kind win bs).Inv := State.foldl_inv (fun _ _ h => State.request_inv _ _ _ _ _ _ _ _ _ h) h

theorem State.ringsMove_inv (h : s.Inv) : s.ringsMove.Inv := State.foldl_inv (fun _ _ h => h) h

theorem State.comeBack_inv (k : Nat) (r : RingSlot) (h : s.Inv) : (s.comeBack k r).Inv := State.ite_inv h h

theorem State.giveOutcome_inv (r : FabReq) (c : BitVec 4) (o : EnqrOutcome) (h : s.Inv) : (s.giveOutcome r c o).Inv := by
  unfold State.giveOutcome
  split
  · exact h
  · split <;> exact h

/-! ### Seasons and tables -/

theorem State.sendSpans_inv (event : Nat) (l : List (Nat × Nat)) (h : s.Inv) : (s.sendSpans event l).Inv :=
  State.foldl_inv (fun _ _ h => State.ite_inv h (State.foldl_inv (fun _ _ h => h) h)) h

theorem State.endHold_inv (n : Nat) (h : s.Inv) : (s.endHold n).Inv := by
  unfold State.endHold
  split
  · exact h
  · exact State.foldl_inv (fun _ _ h => State.ite_inv h h) h

theorem State.endChange_inv (p : PendWrite) (h : s.Inv) : (s.endChange p).Inv := State.ite_inv (State.sendSpans_inv _ _ h) h

theorem State.comeInForce_inv (n : Nat) (p : PendWrite) (h : s.Inv) : (s.comeInForce n p).Inv := by
  unfold State.comeInForce
  dsimp only
  split
  · exact State.foldl_inv (fun _ _ h => State.endChange_inv _ h) h
  · exact State.endChange_inv _ h

theorem State.noSlots_inv {f : State → State} (hf : ∀ t, t.Inv → (f t).Inv) (h : s.Inv) : (s.noSlots f).Inv :=
  hf { s with cur := noSlot + 1 } h

theorem putBankFmt_yields (i v : Nat) (h : s.Inv) : Yields Stop.Inv (fun r => r.1.Inv) (s.putBankFmt i v) := by
  refine .ite (.ok h) ?_
  split
  · exact .ok h
  · exact (need_yields _).check fun _ => .ok h

theorem putCodebook_yields (i v : Nat) (h : s.Inv) : Yields Stop.Inv (fun r => r.1.Inv) (s.putCodebook i v) :=
  .ite (.ok h) ((need_yields _).check fun _ => .ok h)

/-! ### Engines and arbiters -/

theorem State.dropFences_inv (n : Nat) (h : s.Inv) : (s.dropFences n).Inv := State.ite_inv h h

theorem State.landDueAt_inv (n : Nat) (h : s.Inv) : (s.landDueAt n).Inv :=
  State.ite_inv (State.ite_inv h h) (State.ite_inv h h)

theorem State.spillFree_inv (n id : Nat) (l : SpillLoc) (h : s.Inv) : (s.spillFree n id l).Inv := by
  cases l <;> exact h

theorem State.arbTakes_inv (n : Nat) (h : s.Inv) : (s.arbTakes n).Inv := by
  unfold State.arbTakes
  split
  · exact State.ite_inv h h
  all_goals exact h

theorem State.yieldEnds_inv (tile : Nat) (e : Engine) (h : s.Inv) : (s.yieldEnds tile e).Inv := by
  unfold State.yieldEnds
  split
  · exact State.ite_inv h h
  · exact h

theorem State.quantumEnds_inv (tile : Nat) (e : Engine) (h : s.Inv) : (s.quantumEnds tile e).Inv := by
  unfold State.quantumEnds
  split
  · exact h
  · cases e <;> exact State.ite_inv h h

theorem State.yieldsEnd_inv (tile : Nat) (h : s.Inv) : (s.yieldsEnd tile).Inv := State.foldl_inv (fun _ _ h => State.yieldEnds_inv _ _ h) h

theorem State.quantaEnd_inv (tile : Nat) (h : s.Inv) : (s.quantaEnd tile).Inv :=
  State.foldl_inv (fun _ _ h => State.quantumEnds_inv _ _ h) h

theorem State.tick_inv (h : s.Inv) : s.tick.Inv := State.foldl_inv (fun _ _ h => State.quantaEnd_inv _ h) h

theorem State.mmaEnd_inv (n : Nat) (p : MmaPlan) (h : s.Inv) : (s.mmaEnd n p).1.Inv := by
  unfold State.mmaEnd
  split <;> exact h

theorem State.pairEnd_inv (n m : Nat) (p r : MmaPlan) (h : s.Inv) : (s.pairEnd n m p r).1.Inv := by
  have ha := fun g : MmaPlan → Nat => State.addGroups_inv m r (s.pairRows n m p r) (g r)
    (State.addGroups_inv n p (s.pairRows n m p r) (g p) h)
  unfold State.pairEnd
  dsimp only
  split
  · exact ha MmaPlan.groups
  next g _ => exact State.abandon_inv _ _ _ (State.abandon_inv _ _ _ (ha fun _ => g))

theorem State.feedTake_inv (tile : Nat) (h : s.Inv) : (s.feedTake tile).Inv := by
  unfold State.feedTake
  dsimp only
  split
  · split <;> exact h
  · exact h

theorem State.feedOn_inv (tile : Nat) (h : s.Inv) : (s.feedOn tile).Inv := by
  unfold State.feedOn
  split <;> exact h

theorem State.completeMx_inv (tile : Nat) (h : s.Inv) : (s.completeMx tile).Inv := State.inv_of_mem h (State.completeMx_mem s tile)

/-- What runs as another slot keeps memory canonical if it does so itself. -/
theorem State.asSlot_inv {f : State → State} (n : Nat) (en : Entry) (hf : ∀ t, t.Inv → (f t).Inv) (h : s.Inv) : (s.asSlot n en f).Inv :=
  hf { s with cur := n, phase := .issue en } h

theorem State.correctSector_inv (k : Nat) (h : s.Inv) : (s.correctSector k).Inv := State.ite_inv h h

theorem State.nmLostPart_inv {t : State} (p : NmPiece) (h : t.Inv) : (s.nmLostPart p t).Inv := State.ite_inv h h

/-! ### Tasks, teams and futures -/

theorem State.leaveSlot_inv (n : Nat) (h : s.Inv) : (s.leaveSlot n).Inv :=
  State.upSlot_inv _ _ (State.mapReqs_inv _ (State.endQuanta_inv _ (State.freeSlotTiles_inv _ (State.endHold_inv n h))))

theorem State.forgetPassed_inv (t : Nat) (h : s.Inv) : (s.forgetPassed t).Inv := by
  unfold State.forgetPassed
  split <;> exact h

theorem State.setRefs_inv (l : List W32) (h : s.Inv) : (s.setRefs l).Inv := by
  unfold State.setRefs
  split <;> exact h

theorem State.dieDraw_inv (d : Nat) (tickets : List Nat) (h : s.Inv) : (s.dieDraw d tickets).1.Inv := by
  unfold State.dieDraw
  split <;> exact h

theorem State.victimDraw_inv (d : Nat) (cands : List (Nat × Nat)) (h : s.Inv) : (s.victimDraw d cands).1.Inv := by
  unfold State.victimDraw
  dsimp only
  split <;> exact h

theorem State.enterTask_inv (d t c : Nat) (e : TqEntry) (r : TaskRec) (h : s.Inv) : (s.enterTask d t c e r).Inv := by
  have hf : ∀ {u : State} (i : Nat) (f : Future), u.Inv → (if u.futStale e.handle then u else u.setFuture i f).settleReady.Inv :=
    fun i f hu => State.settleReady_inv (State.ite_inv hu (State.setFuture_inv i f hu))
  unfold State.enterTask
  cases s.launchTeam e.launch with
  | some k => exact hf _ _ (State.setTeam_inv _ _ (State.setTask_inv _ _ h))
  | none => exact hf _ _ (State.setTeam_inv _ _ (State.setTask_inv _ _ (State.setTeam_inv _ _ h)))

theorem State.askOne_inv (team : Nat) (h : s.Inv) : (s.askOne team).Inv := State.ite_inv h (State.foldl_inv (fun _ _ h => h) h)

theorem State.askPreempt_inv (team : Nat) (h : s.Inv) : (s.askPreempt team).Inv :=
  State.foldl_inv (fun _ _ h => State.askOne_inv _ h) (State.askOne_inv _ h)

theorem State.drawVictim_inv (d team : Nat) (h : s.Inv) : (s.drawVictim d team).Inv := by
  unfold State.drawVictim
  split
  · exact h
  · dsimp only
    split
    next e => exact State.askPreempt_inv _ (State.inv_of_fst e (State.victimDraw_inv _ _ h))
    next e => exact State.inv_of_fst e (State.victimDraw_inv _ _ h)

theorem State.teamStops_inv (team : Nat) (h : s.Inv) : (s.teamStops team).Inv := State.ite_inv h h

theorem State.beginWait_inv (en : Entry) (h : s.Inv) : (s.beginWait en).Inv := State.ite_inv h h

/-! ### Host, links and management -/

theorem State.setCtxEvent_inv (idx v : Nat) (h : s.Inv) : (s.setCtxEvent idx v).Inv := State.ite_inv h h

theorem State.setPort_inv (b : Bool) (p : Port) (h : s.Inv) : (s.setPort b p).Inv := State.ite_inv h h

theorem State.queueWrite_inv (fn : Fn) (q : BitVec 4) (f : HostQ → HostQ) (h : s.Inv) : (s.queueWrite fn q f).Inv := State.ite_inv h h

theorem State.launch_inv (ctx tag : Nat) (relocs : List Word) (l : Launch) (h : s.Inv) : (s.launch ctx tag relocs l).1.Inv := by
  refine foldl_keeps (fun (r : State × List W32) => r.1.Inv) _ _ _ (fun r m h => ?_) h
  dsimp only
  split <;> exact h

theorem State.endUnload_inv (k : Nat) (h : s.Inv) : (s.endUnload k).Inv := by
  unfold State.endUnload
  split <;> exact h

theorem State.countRefused_inv (fn : Fn) (h : s.Inv) : (s.countRefused fn).Inv := by
  unfold State.countRefused
  split
  · exact h
  · split <;> exact h

theorem State.arrive_inv (k : Nat) {f : State → LinkMsg → Option State} (hf : ∀ m t, f s m = some t → t.Inv) (h : s.Inv) :
    (s.arrive k f).Inv := by
  unfold State.arrive
  split
  · exact h
  · split
    next t e =>
      have ht : t.Inv := hf _ _ e
      exact ht
    next => exact h

theorem State.tdisp_inv (vf : BitVec 9) {f : State → Vf → Option State} (hf : ∀ v t, f s v = some t → t.Inv) (h : s.Inv) :
    (s.tdisp vf f).Inv := by
  refine State.ite_inv h ?_
  split
  next t e => exact hf _ _ e
  next => exact h

theorem State.spdm_inv (portB : Bool) (ok : Spdm → Bool) (code value : Nat) (next : Spdm → Spdm) (h : s.Inv) :
    (s.spdm portB ok code value next).Inv := State.ite_inv h (State.ite_inv (State.setPort_inv _ _ h) h)

theorem State.bringStep_inv (n : Nat) (h : s.Inv) : (s.bringStep n).Inv := by
  unfold State.bringStep
  split
  · dsimp only
    have hl := State.upTo_inv (n := 16) (f := fun k (s : State) => s.upStack k fun x => x.bringLink k) (fun _ _ h => h) h
    exact State.ite_inv hl (State.bootFails_inv 4 hl)
  · exact State.upTo_inv (fun _ _ h => h) h
  · exact State.upTo_inv (fun _ _ h => h) h
  · exact h
  · exact h

theorem State.bringUp_inv (failStep : Nat) (h : s.Inv) : (s.bringUp failStep).Inv :=
  State.foldl_inv (fun _ _ h => State.ite_inv h (State.ite_inv h (State.bringStep_inv _ h))) h

theorem State.control_inv (portB : Bool) {f : State → State} (hf : (f s).Inv) (h : s.Inv) : (s.control portB f).Inv :=
  State.ite_inv h (State.ite_inv hf h)

end NoByte

end Sys2Proof.Machine

/-! SUPPORT. Memory stays canonical (07 R182): what slots do to memory, by their commands, copies and near-memory operations. -/
namespace Sys2Proof.Machine

section Slots

variable {s : State}

/-! ### Units, spans and granules -/

theorem State.touchAll_inv (ctx : Nat) (ks : List (Nat × Nat)) (h : s.Inv) : (s.touchAll ctx ks).Inv := State.touchAllFrom_inv _ _ _ h

theorem State.markEach_inv {α : Type} (l : List α) (f : α → Nat) (h : s.Inv) : (l.foldl (fun s a => s.markPoison (f a)) s).Inv :=
  State.foldl_inv (fun _ _ h => State.markPoison_inv _ h) h

theorem State.meetSpan_inv (a len : Nat) (h : s.Inv) : (s.meetSpan a len).Inv := State.foldl_inv (fun _ _ h => State.meetUnit_inv _ _ h) h

theorem State.meetGranules_inv (team tile : Nat) (h : s.Inv) : (s.meetGranules team tile).Inv :=
  State.foldl_inv (fun _ _ h => State.meetUnit_inv _ _ h) h

theorem State.readBanks_inv (n banks : Nat) (spans : List (Nat × Nat)) (h : s.Inv) : (s.readBanks n banks spans).Inv :=
  State.foldl_inv (fun _ _ h => State.meetSpan_inv _ _ h) (State.touchAll_inv _ _ h)

theorem State.setRegionSeason_inv (idx c : Nat) (h : s.Inv) : (s.setRegionSeason idx c).Inv := State.setEntry_inv _ _ _ h

theorem State.regionSleeps_inv (stack region : Nat) (h : s.Inv) : (s.regionSleeps stack region).Inv :=
  State.setStack_inv _ _ (State.setRegionSeason_inv _ _ h)

theorem State.discardBank_inv (tile b : Nat) (h : s.Inv) : (s.discardBank tile b).Inv := State.freshen_inv _ h

theorem State.allocGranule_inv (tile tenant team g : Nat) (h : s.Inv) : (s.allocGranule tile tenant team g).Inv := State.freshen_inv _ h

theorem State.freeGranule_inv (tile g : Nat) (h : s.Inv) : (s.freeGranule tile g).Inv :=
  State.ite_inv h (State.setTile_inv _ _ (State.freshen_inv _ h))

/-! ### Commands of SY, LD, ST and VX -/

theorem spillTo_yields (n id : Nat) (v : BitVec 2048) (h : s.Inv) : Yields Stop.Inv State.Inv (s.spillTo n id v) := by
  unfold State.spillTo
  split
  · exact .error trivial
  · exact .ok h
  · exact (liftF_yields _).check fun _ => .ok (State.upSlot_inv _ _ (State.writeKeys_inv _ _ _ h))

theorem spillRead_yields (n : Nat) (l : SpillLoc) (h : s.Inv) : Yields Stop.Inv (fun r => r.1.Inv) (s.spillRead n l) := by
  cases l with
  | col z c => exact .ok h
  | mem sa => exact (liftF_yields _).check fun _ => .ok (State.loadKeys_inv _ _ h)

theorem State.ccWrite_inv (t n v : Nat) (ks : List (Nat × Nat)) (h : s.Inv) : (s.ccWrite t n v ks).Inv := by
  have hw := State.writeKeys_inv s.me.y.ctx.toNat ks (leBytes n v) h
  exact State.countInbound_inv _ _ _ (State.ite_inv (State.fillCore_inv _ _ hw) hw)

theorem ccRead_yields (t : Nat) (ks : List (Nat × Nat)) (h : s.Inv) : Yields Stop.Inv (fun r => r.1.Inv) (s.ccRead t ks) := by
  have hl := State.loadKeys_inv s.me.y.ctx.toNat ks h
  unfold State.ccRead
  generalize s.loadKeys s.me.y.ctx.toNat ks = r at hl ⊢
  have hs := State.ite_inv (c := ccIsVa t = true) (State.fillCore_inv (s := r.1.heat t) r.1.cur t hl) hl
  exact (afterF_yields _ hs).check fun _ => .ok hs

theorem ccAdmit_yields (t n right : Nat) (k : AccKind) : Yields Stop.Inv anyResult (s.ccAdmit t n right k) := by
  refine (need_yields _).check fun _ => ?_
  split
  · exact (need_yields _).check fun _ => .ok trivial
  · exact (need_yields _).check fun _ => liftF_yields _

theorem ldcAt_yields (sz : CSize) (d : BitVec 5) (t : Nat) (h : s.Inv) : Yields Stop.Inv State.Inv (s.ldcAt sz d t) :=
  (ccAdmit_yields ..).check fun _ => (ccRead_yields _ _ h).bind fun _ h => .ok h

theorem stcAt_yields (sz : CSize) (d : BitVec 5) (t : Nat) (h : s.Inv) : Yields Stop.Inv State.Inv (s.stcAt sz d t) :=
  (ccAdmit_yields ..).check fun _ => .ok (State.ccWrite_inv _ _ _ _ h)

theorem issueLoad_yields (en : Entry) (q sx : Bool) (d : BitVec 5) (m : Word) (ls : List LaneAcc) (bad : Option Nat) (inc : List Result)
    (h : s.Inv) : Yields Stop.Inv (fun d => d.s.Inv) (s.issueLoad en q sx d m ls bad inc) :=
  (need_yields _).check fun _ => .ok (State.foldl_inv (fun _ _ h => State.requestAll_inv _ _ _ _ _ h) h)

theorem issueStore_yields (en : Entry) (isVa : Bool) (base : Option Nat) (right e : Nat) (as_ : List (Nat × Nat)) (val : Nat → W32)
    (kind : Nat → StoreKind) (ak : AccKind) (inc : List Result) (h : s.Inv) :
    Yields Stop.Inv (fun d => d.s.Inv) (s.issueStore en isVa base right e as_ val kind ak inc) := by
  unfold State.issueStore
  dsimp only
  split
  · exact .error trivial
  next rep _ => exact (need_yields _).check fun _ => .ok (by cases rep <;> exact h)
  · exact (need_yields _).check fun _ => .ok h

theorem ldReady_yields (en : Entry) : Yields Stop.Inv anyResult (s.ldReady en) := (need_yields _).check fun _ => need_yields _

theorem stReady_yields (en : Entry) : Yields Stop.Inv anyResult (s.stReady en) := (need_yields _).check fun _ => need_yields _

theorem loadBody_yields (sz : ESize) (sx q : Bool) (d : BitVec 5) (m : BitVec 3) (a : BitVec 5) (am : AddrForm) (isVa : Bool) (en : Entry)
    (h : s.Inv) : Yields Stop.Inv (fun d => d.s.Inv) (loadBody sz sx q d m a am isVa s en) :=
  (ldReady_yields _).check fun _ => (liftF_yields _).check fun _ => (liftF_yields _).check fun _ => issueLoad_yields _ _ _ _ _ _ _ _ h

theorem storeBody_yields (sz : ESize) (d : BitVec 5) (m : BitVec 3) (a : BitVec 5) (am : AddrForm) (isVa : Bool) (en : Entry) (h : s.Inv) :
    Yields Stop.Inv (fun d => d.s.Inv) (storeBody sz d m a am isVa s en) :=
  (stReady_yields _).check fun _ => (liftF_yields _).check fun _ => issueStore_yields _ _ _ _ _ _ _ _ _ _ h

theorem State.replayFrom_inv (n : Nat) (stripes : List Nat) (as kept : List StoreAcc) (h : s.Inv) :
    (s.replayFrom n stripes as kept).Inv := by
  induction as generalizing s kept with
  | nil => exact h
  | cons a r ih =>
    unfold State.replayFrom
    split
    · exact ih _ h
    · split
      next ls _ =>
        have hp := State.performLanes_inv n a.phase ls h
        refine ih _ ?_
        split
        · exact State.raiseLate_inv _ _ _ _ hp
        · exact hp
      next => exact ih _ (State.ite_inv h h)

/-! ### Copies -/

theorem State.copyWrite_inv (n : Nat) (j : CopyJob) (isVa : Bool) (cells : List (Nat × Nat × Nat × Byte × Bool)) (h : s.Inv) :
    (s.copyWrite n j isVa cells).1.Inv := by
  have hm := State.foldl_inv (l := cells) (f := fun s c => if c.2.2.2.2 && s.takes s.origin (c.2.1, c.2.2.1) then s.markPoison c.2.1 else s)
    (fun _ _ h => State.ite_inv (State.markPoison_inv _ h) h)
    (State.writeKeys_inv (s.slot n).y.ctx.toNat (cells.map fun c => (c.2.1, c.2.2.1)) (cells.map fun c => c.2.2.2.1) h)
  exact State.countInbound_inv _ _ _ (State.ite_inv (State.fillStream_inv _ _ _ (State.heatAll_inv _ hm)) hm)

theorem State.endRead_inv (n : Nat) (e : CopyEnd) (j : CopyJob) (rs : List FabReq) (o a len : Nat) (h : s.Inv) :
    (s.endRead n e j rs o a len).1.Inv := by
  cases e
  case pattern | far => exact h
  case va => exact State.fillStream_inv _ _ _ (State.heatAll_inv _ (State.reportPoison_inv _ _ h))
  case sa => exact State.reportPoison_inv _ _ h

theorem State.endWrite_inv (n : Nat) (e : CopyEnd) (j : CopyJob) (d u : Nat) (bs : List (Byte × Bool)) (h : s.Inv) :
    (s.endWrite n e j d u bs).1.Inv := by
  cases e
  case far => exact State.requestWrites_inv _ _ _ _ h
  all_goals exact State.copyWrite_inv _ _ _ _ h

theorem rawUnit_yields (n : Nat) (p : CopyPlan) (j : CopyJob) (u d0 s0 : Nat) (h : s.Inv) :
    Yields Stop.Inv (fun r => r.1.Inv) (s.rawUnit n p j u d0 s0) := by
  refine .ite (.error trivial) (.ite (.ok h) (.iteCheck (liftF_yields _) (.ok trivial) fun _ => ?_))
  exact .ite (.ok (State.requestAll_inv _ _ _ _ _ h)) (.ok (State.endWrite_inv _ _ _ _ _ _ (State.endRead_inv _ _ _ _ _ _ _ h)))

theorem cvUnitDo_yields (n : Nat) (p : CopyPlan) (j : CopyJob) (u d0 s0 : Nat) (h : s.Inv) :
    Yields Stop.Inv (fun r => r.1.Inv) (s.cvUnitDo n p j u d0 s0) :=
  (liftF_yields _).check fun _ => (liftF_yields _).check fun _ => (liftF_yields _).check fun _ => (liftF_yields _).check fun _ =>
    .ok (State.copyWrite_inv _ _ _ _ (State.reportPoison_inv _ _ h))

theorem rowUnit_yields (n : Nat) (p : CopyPlan) (j : CopyJob) (u : Nat) (h : s.Inv) :
    Yields Stop.Inv (fun r => r.1.Inv) (s.rowUnit n p j u) := .ite (cvUnitDo_yields _ _ _ _ _ _ h) (rawUnit_yields _ _ _ _ _ _ h)

theorem State.shardRead_inv (n : Nat) (j : CopyJob) (rs : List FabReq) (esize : Nat) (src : List (Bool × Nat)) (h : s.Inv) :
    (s.shardRead n j rs esize src).1.Inv := State.fillStream_inv _ _ _ (State.heatAll_inv _ (State.reportPoison_inv _ _ h))

theorem shardUnit_yields (n : Nat) (sz : ESize) (f : BitVec 5) (j : CopyJob) (h : s.Inv) :
    Yields Stop.Inv (fun r => r.1.Inv) (s.shardUnit n sz f j) := by
  refine (liftF_yields _).check fun _ => (liftF_yields _).check fun _ => (liftF_yields _).check fun _ => (liftF_yields _).check fun _ =>
    .ite (.error trivial) (.ite (.ok h) (.iteCheck (liftF_yields _) (.ok trivial) fun _ => ?_))
  have hr := fun e src => State.shardRead_inv n j (s.copyReqs n j.entry.seq) e src h
  exact .ite (.ok (State.foldl_inv (fun _ _ h => State.requestAll_inv _ _ _ _ _ h) h))
    (.ite (.ok (State.requestWrites_inv _ _ _ _ (hr _ _))) (.ok (State.copyWrite_inv _ _ _ _ (hr _ _))))

theorem discardUnit_yields (n : Nat) (j : CopyJob) (m : BitVec 5) (h : s.Inv) :
    Yields Stop.Inv (fun r => r.1.Inv) (s.discardUnit n j m) :=
  (need_yields _).check fun _ => (need_yields _).check fun _ => (need_yields _).check fun _ =>
    .ok (State.upTo_inv (fun _ _ h => State.ite_inv (State.discardBank_inv _ _ h) h) h)

theorem nextUnit_yields (n : Nat) (j : CopyJob) (h : s.Inv) : Yields Stop.Inv (fun r => r.1.Inv) (s.nextUnit n j) := by
  unfold State.nextUnit
  split
  · exact rowUnit_yields _ _ _ _ h
  · split
    · exact shardUnit_yields _ _ _ _ h
    · exact discardUnit_yields _ _ _ h
    · exact .ok h

theorem State.copyStops_inv (n : Nat) (j : CopyJob) (f : Flt) (h : s.Inv) : (s.copyStops n j f).Inv := State.raiseLate_inv _ _ _ _ h

/-! ### Near-memory operations -/

theorem State.nmReach_inv (p : NmPiece) (h : s.Inv) : (s.nmReach p).Inv := State.noteReadsFrom_inv _ _ (State.touchAllFrom_inv _ _ _ h)

theorem State.markLost_inv (p : NmPiece) (lost : List Nat) (h : s.Inv) : (s.markLost p lost).Inv :=
  State.foldl_inv (fun _ _ h => State.ite_inv (State.markPoison_inv _ h) h) h

theorem State.nmApply_inv (p : NmPiece) (h : s.Inv) : (s.nmApply p).1.Inv := by
  have hr := State.nmReach_inv p h
  unfold State.nmApply
  dsimp only
  split
  · exact State.markLost_inv _ _ (State.foldl_inv (fun _ _ h => State.correctSector_inv _ h) hr)
  · exact State.markLost_inv _ _ (State.writeAllFrom_inv _ _ hr)

theorem State.nmFresh_inv (n : Nat) (p : NmPiece) (h : s.Inv) : (s.nmFresh n p).1.Inv := by
  have hu := State.foldl_inv (l := hbmUnits p.dstKeys)
    (f := fun s u => if (s.unserved p.origin u.2 u.1).isSome then s.noteRequest p.origin none u.2 u.1 else s)
    (fun _ _ h => State.ite_inv (State.inv_of_mem h (State.noteRequest_mem ..)) h)
    (State.touchAllFrom_inv p.origin (s.slot p.slot).y.ctx.toNat p.dstKeys h)
  unfold State.nmFresh
  dsimp only
  split
  · exact hu
  · exact State.mapUpdate_inv _ _ hu

theorem State.nmPerform_inv (n : Nat) (p : NmPiece) (h : s.Inv) : (s.nmPerform n p).1.Inv := by
  unfold State.nmPerform
  split
  · exact h
  · split
    · exact h
    · split
      · exact State.nmFresh_inv _ _ h
      · split
        · exact State.nmReach_inv _ h
        · exact State.nmApply_inv _ h

theorem State.nmResult_inv (q : NmSum) (acc : NmPartial) (h : s.Inv) : (s.nmResult q acc).Inv := by
  have hw := State.writeAllFrom_inv (Origin.base q.stack) ((keys4 q.key q.kid).zip (leBytes 4 acc.result))
    (State.touchAllFrom_inv (Origin.base q.stack) (s.slot q.slot).y.ctx.toNat (keys4 q.key q.kid) h)
  exact State.ite_inv (State.markPoison_inv _ hw) hw

theorem nmStart_yields (en : Entry) (i : Instr) (xd xs : Word) (ranges : List (Word × Nat)) (count : Word) (pieces : State → List NmPiece)
    (h : s.Inv) : Yields Stop.Inv (fun d => d.s.Inv) (s.nmStart en i xd xs ranges count pieces) :=
  (need_yields _).check fun _ => (need_yields _).check fun _ => (liftF_yields _).check fun _ => .ok h

theorem cvChecks_yields (xd xs : Word) (n : Nat) : Yields Stop.Inv anyResult (s.cvChecks xd xs n) := by
  refine .ite (.ok trivial) (((liftF_yields _).check fun _ => liftF_yields _).check fun _ =>
    ((liftF_yields _).check fun _ => liftF_yields _).check fun _ => ?_)
  split
  · exact .error trivial
  · exact .ok trivial

end Slots

end Sys2Proof.Machine

/-! SUPPORT. Memory stays canonical (07 R182): matrix commands, whose stops may keep a state in which a partner slot has moved. -/
namespace Sys2Proof.Machine

section Matrix

variable {s : State}

/-! ### Plans: checks that answer no state but that of a closed reduction -/

theorem pMust_yields (c : Bool) (code info : Nat) : Yields MxStop.Inv anyResult (pMust c code info) :=
  .ite (.ok trivial) (.error trivial)

theorem mxSpan_yields (n a len : Nat) : Yields MxStop.Inv anyResult (s.mxSpan n a len) :=
  (pMust_yields ..).check fun _ => (liftP_yields _).check fun _ => .ok trivial

theorem zFree_yields (n z : Nat) : Yields MxStop.Inv anyResult (s.zFree n z) := by
  unfold State.zFree
  split
  · exact pMust_yields ..
  · exact .ok trivial

theorem drainPlan_yields (n : Nat) (en : Entry) (res : Bool) (d r : BitVec 5) (z : BitVec 4) :
    Yields MxStop.Inv anyResult (s.drainPlan n en res d r z) := by
  refine (zFree_yields ..).check fun _ => (mxSpan_yields ..).check fun _ => .iteCheck (mxSpan_yields ..) (.ok trivial) fun _ =>
    (pMust_yields ..).check fun _ => (pMust_yields ..).check fun _ => ?_
  dsimp only
  split
  · exact .error trivial
  · refine .check (.ok trivial) fun _ => ?_
    split
    · exact .error trivial
    · refine .check (.ok trivial) fun _ => ?_
      split
      · exact .error trivial
      · exact .check (.ok trivial) fun _ => (pNeed_yields _).check fun _ => .ok trivial

theorem mmaPlan_yields (n : Nat) (en : Entry) (pt : BitVec 2) (z : BitVec 4) (q : Bool) (a b : BitVec 5) (kk : BitVec 12) (rows : Nat)
    (h : s.Inv) : Yields MxStop.Inv anyResult (s.mmaPlan n en pt z q a b kk rows) := by
  refine (zFree_yields ..).check fun _ => (pMust_yields ..).check fun _ => .iteCheck (.ok trivial) (mxSpan_yields ..) fun _ =>
    (mxSpan_yields ..).check fun _ => (pMust_yields ..).check fun _ => (pMust_yields ..).check fun _ => ?_
  dsimp only
  split
  · exact .error trivial
  · refine .check (.ok trivial) fun _ => ?_
    split
    · exact .error trivial
    · refine .check (.ok trivial) fun _ => ?_
      split
      · exact .error trivial
      · exact .error trivial
      · refine .check (.ok trivial) fun _ => .iteCheck (.ok trivial) (.error trivial) fun _ => (pNeed_yields _).check fun _ => ?_
        exact .iteCheck (.ok trivial) (.error h) fun _ => .ok trivial

/-! ### Allocation and starts -/

theorem moveSpills_yields (tile z : Nat) (h : s.Inv) : Yields Stop.Inv State.Inv (s.moveSpills tile z) := by
  refine .foldl (fun r c hr => hr.bind fun u hu => ?_) (.ok h)
  split
  · exact .ok hu
  · split
    · exact .error trivial
    · exact (liftF_yields _).check fun _ => .ok (State.markEach_inv _ _ (State.writeKeys_inv _ _ _ hu))

theorem allocZ_yields (n z : Nat) (h : s.Inv) : Yields MxStop.Inv State.Inv (s.allocZ n z) := by
  unfold State.allocZ
  split
  · exact .ok h
  · exact (liftM_yields (moveSpills_yields _ _ h)).bind fun _ h => .ok h

theorem mmaStart_yields (n : Nat) (zero : Bool) (p : MmaPlan) (rows : Nat) (h : s.Inv) :
    Yields MxStop.Inv State.Inv (s.mmaStart n zero p rows) :=
  (allocZ_yields _ _ (State.readBanks_inv _ _ _ h)).bind fun _ h => .ok h

theorem State.mxFail_inv (n : Nat) (f : Flt) (tag : Word) (h : s.Inv) : (s.mxFail n f tag).Inv := State.raiseEng_inv _ _ _ _ h

theorem State.schedMiss_inv (n : Nat) (en : Entry) (st : Word) (h : s.Inv) : (s.schedMiss n en st).Inv :=
  State.ite_inv h (State.mxFail_inv _ _ _ h)

theorem State.mxLate_inv (n : Nat) (f : Flt) (tag : Word) (h : s.Inv) : (s.mxLate n f tag).Inv :=
  State.ite_inv h (State.raiseLate_inv _ _ _ _ h)

theorem State.pairDueAt_inv (n : Nat) (h : s.Inv) : (s.pairDueAt n).Inv := by
  unfold State.pairDueAt
  split
  · exact State.ite_inv (State.raiseLate_inv _ _ _ _ h) h
  · exact h

/-- A matrix command that may start keeps memory canonical if its effect and what it does instead keep it. -/
theorem State.mxStart_inv (k : Ctl) (en : Entry) (occ : Nat) {body : State → Entry → P MxDone} {stop : State → State}
    (hb : Yields MxStop.Inv (fun d => d.s.Inv) (body s en)) (hs : (stop s).Inv) (h : s.Inv) : (s.mxStart k en occ body stop).Inv := by
  refine State.ite_inv (State.mxFail_inv _ _ _ h) ?_
  split
  next => exact hs
  next e => exact hb.of_error e
  next => exact State.mxFail_inv _ _ _ h
  next e => exact State.mxFail_inv _ _ _ (hb.of_error e)
  next d e =>
    have hd : d.s.Inv := hb.of_ok e
    split
    · exact State.mxLate_inv _ _ _ hd
    · exact hd

theorem State.mxIssue_inv (k : Ctl) (c : BitVec 5) (occ : State → Entry → Nat) (nd : State → Nat → MxNeed)
    {body : State → Entry → P MxDone} {other : State → State} (hb : ∀ en, Yields MxStop.Inv (fun d => d.s.Inv) (body s en))
    (ho : (other s).Inv) (h : s.Inv) : (s.mxIssue k c occ nd body other).Inv := by
  have hm : ∀ en st, ((other s).schedMiss s.cur en st).Inv := fun _ _ => State.schedMiss_inv _ _ _ ho
  exact State.ite_inv h (State.ite_inv (State.ite_inv h h) (State.ite_inv
    (State.ite_inv (hm _ _) (State.mxStart_inv _ _ _ (hb _) (hm _ _) h)) (State.ite_inv h (State.mxStart_inv _ _ _ (hb _) h h))))

/-! ### Products -/

theorem mmaBody_yields (zero : Bool) (pt : BitVec 2) (z : BitVec 4) (q : Bool) (a b : BitVec 5) (kk : BitVec 12) (en : Entry) (h : s.Inv) :
    Yields MxStop.Inv (fun d => d.s.Inv) (mmaBody zero pt z q a b kk s en) := by
  refine (mmaPlan_yields _ _ _ _ _ _ _ _ _ h).check fun p => (mmaStart_yields _ _ _ _ h).bind fun t ht => .ite (.ok ht) ?_
  have he := State.mmaEnd_inv s.cur p ht
  split
  next e => exact .ok (State.inv_of_fst e he)
  next e => exact .ok (State.inv_of_fst e he)

/-- What stops the partner of a pair stops the pair, and keeps memory canonical. -/
theorem partnerFails_inv (en : Entry) (c : BitVec 5) (p : PairHead) {e : MxStop} (h : s.Inv) (he : e.Inv) :
    (s.partnerFails en c p e).Inv := by
  have on : ∀ t : State, t.Inv → MxStop.Inv (if (t.tile (tileOf t.cur)).stamped then
      .after (t.countCtx t.me.y.ctx.toNat 1) ⟨fSched, (stampOf en c).toNat⟩ else .moved t) := by
    intro t ht
    split <;> exact ht
  cases e
  case wait => exact trivial
  case moved t => exact he
  case fault f => exact on _ (State.mxFail_inv _ _ _ h)
  case after t f => exact on _ (State.mxFail_inv _ _ _ he)

theorem State.partnerStarts_inv (p : PairHead) (till banks : Nat) (feed : Option MmaFeed) (late : Option Flt) (h : s.Inv) :
    (s.partnerStarts p till banks feed late).Inv := by
  refine State.asSlot_inv _ _ (fun t ht => ?_) h
  cases late
  · exact ht
  · exact State.mxLate_inv _ _ _ ht

theorem mmapBody_yields (pt : BitVec 2) (z : BitVec 4) (q : Bool) (a b c : BitVec 5) (kk : BitVec 12) (en : Entry) (h : s.Inv) :
    Yields MxStop.Inv (fun d => d.s.Inv) (mmapBody pt z q a b c kk s en) := by
  refine (mmaPlan_yields _ _ _ _ _ _ _ _ _ h).check fun p => ?_
  split
  · exact .error trivial
  next m _ =>
    have hplan := mmaPlan_yields m.n m.en m.pt m.z m.q m.a m.b m.kk 32 h
    refine (pNeed_yields _).check fun _ => ?_
    split
    next r _ =>
      refine .check (.ok trivial) fun r => .ite (.error (State.mxFail_inv _ _ _ h)) ?_
      refine (mmaStart_yields _ _ _ _ h).bind fun t ht => (mmaStart_yields _ _ _ _ ht).bind fun u hu =>
        .ite (.ok (State.partnerStarts_inv _ _ _ _ _ hu)) ?_
      have he := State.pairEnd_inv s.cur m.n p r hu
      split
      next e => exact .ok (State.partnerStarts_inv _ _ _ _ _ (State.inv_of_fst e he))
      next e => exact .ok (State.partnerStarts_inv _ _ _ _ _ (State.inv_of_fst e he))
    next hr => exact .error (partnerFails_inv _ _ _ h (hplan.of_error hr))

theorem State.pairMiss_inv (c : BitVec 5) (h : s.Inv) : (pairMiss c s).Inv := by
  unfold pairMiss
  dsimp only
  split
  · exact State.schedMiss_inv _ _ _ h
  · exact h

/-! ### Products that take queue entries while they run -/

theorem State.feedDone_inv (tile : Nat) (b : MxBusy) (late : Option Flt) (h : s.Inv) : (s.feedDone tile b late).Inv := by
  cases late
  · exact State.completeMx_inv _ h
  · exact State.mxLate_inv _ _ _ (State.completeMx_inv _ h)

theorem State.feedCycle_inv (tile : Nat) (h : s.Inv) : (s.feedCycle tile).Inv := by
  unfold State.feedCycle
  split
  · exact h
  · split
    · have ht := State.feedTake_inv tile h
      dsimp only
      split
      · exact ht
      · refine State.ite_inv ht ?_
        have ho := State.feedOn_inv tile ht
        split
        · exact ho
        · exact State.ite_inv ho (State.feedDone_inv _ _ _ (State.mmaEnd_inv _ _ ho))
    next m _ =>
      refine State.ite_inv h ?_
      have ht := State.feedTake_inv (tileOf m) (State.feedTake_inv tile h)
      dsimp only
      split
      · refine State.ite_inv ht ?_
        have ho := State.feedOn_inv (tileOf m) (State.feedOn_inv tile ht)
        split
        · exact State.ite_inv ho (State.feedDone_inv _ _ _ (State.feedDone_inv _ _ _ (State.pairEnd_inv _ _ _ _ ho)))
        · exact ho
      · exact ht

theorem State.completeDueAt_inv (tile : Nat) (h : s.Inv) : (s.completeDueAt tile).Inv := by
  unfold State.completeDueAt
  split
  · exact State.ite_inv (State.feedCycle_inv _ h) (State.ite_inv (State.completeMx_inv _ h) h)
  · exact h

/-! ### The matrix commands -/

theorem mma_nextInv (k : Ctl) (pt : BitVec 2) (z : BitVec 4) (q : Bool) (a b c : BitVec 5) (kk : BitVec 12) (h : s.Inv) :
    NextInv (execMma k pt z q a b c kk s) := .next (State.mxIssue_inv _ _ _ _ (fun _ => mmaBody_yields _ _ _ _ _ _ _ _ h) h h)

theorem mmaz_nextInv (k : Ctl) (pt : BitVec 2) (z : BitVec 4) (q : Bool) (a b c : BitVec 5) (kk : BitVec 12) (h : s.Inv) :
    NextInv (execMmaz k pt z q a b c kk s) := .next (State.mxIssue_inv _ _ _ _ (fun _ => mmaBody_yields _ _ _ _ _ _ _ _ h) h h)

theorem mmap_nextInv (k : Ctl) (pt : BitVec 2) (z : BitVec 4) (q : Bool) (a b c : BitVec 5) (kk : BitVec 12) (h : s.Inv) :
    NextInv (execMmap k pt z q a b c kk s) :=
  .next (State.mxIssue_inv _ _ _ _ (fun _ => mmapBody_yields _ _ _ _ _ _ _ _ h) (State.pairMiss_inv _ h) h)

theorem mret_nextInv (k : Ctl) (c : BitVec 5) (h : s.Inv) : NextInv (execMret k c s) :=
  .next (State.mxIssue_inv _ _ _ _ (fun _ => .ok h) h h)

theorem mzero_nextInv (k : Ctl) (z : BitVec 4) (c : BitVec 5) (h : s.Inv) : NextInv (execMzero k z c s) :=
  .next (State.mxIssue_inv _ _ _ _ (fun _ => (zFree_yields ..).check fun _ => (allocZ_yields _ _ h).bind fun _ h => .ok h) h h)

theorem mldcb_nextInv (k : Ctl) (pt : BitVec 2) (cba cbb : BitVec 3) (c : BitVec 5) (h : s.Inv) : NextInv (execMldcb k pt cba cbb c s) :=
  .next (State.mxIssue_inv _ _ _ _ (fun _ => .ok h) h h)

theorem mstat_nextInv (k : Ctl) (nz : Bool) (g : BitVec 3) (z mask : BitVec 4) (c : BitVec 5) (h : s.Inv) :
    NextInv (execMstat k nz g z mask c s) := .next (State.mxIssue_inv _ _ _ _ (fun _ => (zFree_yields ..).check fun _ => .ok h) h h)

theorem mdrain_nextInv (k : Ctl) (res drop free : Bool) (d : BitVec 5) (z : BitVec 4) (r c : BitVec 5) (rate : BitVec 8) (h : s.Inv) :
    NextInv (execMdrain k res drop free d z r c rate s) := by
  refine .next (State.mxIssue_inv _ _ _ _ (fun en => (drainPlan_yields ..).check fun p => ?_) h h)
  dsimp only
  split
  · exact .ok (State.markEach_inv _ _ (State.writeKeys_inv _ _ _ (State.readBanks_inv _ _ _ h)))
  · exact .ok (State.setTile_inv _ _ (State.markEach_inv _ _ (State.writeKeys_inv _ _ _ (State.readBanks_inv _ _ _ h))))

theorem mpark_nextInv (k : Ctl) (id f l c : BitVec 5) (h : s.Inv) : NextInv (execMpark k id f l c s) :=
  .next (State.mxIssue_inv _ _ _ _ (fun _ => (liftM_yields (spillTo_yields _ _ _ h)).bind fun _ h => .ok h) h h)

theorem munpark_nextInv (k : Ctl) (id f l c : BitVec 5) (h : s.Inv) : NextInv (execMunpark k id f l c s) := by
  refine .next (State.mxIssue_inv _ _ _ _ (fun en => ?_) h h)
  dsimp only
  split
  · exact .ok h
  · exact (liftM_yields (spillRead_yields _ _ h)).bind fun _ h => .ite (.ok h) (.ok (State.upMe_inv _ (State.spillFree_inv _ _ _ h)))

theorem mxMeaning_nextInv (i : Instr) (h : s.Inv) : NextInv (mxMeaning i s) := by
  unfold mxMeaning
  split
  · exact mma_nextInv _ _ _ _ _ _ _ _ h
  · exact mmaz_nextInv _ _ _ _ _ _ _ _ h
  · exact mmap_nextInv _ _ _ _ _ _ _ _ h
  · exact mret_nextInv _ _ h
  · exact mdrain_nextInv _ _ _ _ _ _ _ _ _ h
  · exact mzero_nextInv _ _ _ h
  · exact mldcb_nextInv _ _ _ _ _ h
  · exact mstat_nextInv _ _ _ _ _ _ h
  · exact mpark_nextInv _ _ _ _ _ h
  · exact munpark_nextInv _ _ _ _ _ h
  · exact .next h

theorem State.issueMx_inv (n : Nat) (h : s.Inv) : (s.issueMx n).Inv := by
  unfold State.issueMx
  split
  · exact h
  · refine State.ite_inv h ?_
    split
    next i _ =>
      refine State.asSlot_inv _ _ (fun t ht => ?_) h
      split
      next u e => exact mxMeaning_nextInv i ht u e
      next => exact ht
      next => exact ht
    next => exact h

theorem State.stampDueAt_inv (t : Nat) (h : s.Inv) : (s.stampDueAt t).Inv :=
  State.ite_inv (State.foldl_inv (fun _ _ h => State.issueMx_inv _ h) h) h

/-! ### Draws -/

theorem State.winnerOf_inv (tile : Nat) (e : Engine) (h : s.Inv) : (s.winnerOf tile e).1.Inv := by
  unfold State.winnerOf
  dsimp only
  split <;> exact h

theorem State.drawEngine_inv (tile : Nat) (e : Engine) (h : s.Inv) : (s.drawEngine tile e).Inv := by
  refine State.ite_inv h ?_
  have hw := State.winnerOf_inv tile e h
  split
  next e => exact State.inv_of_fst e hw
  next t n e =>
    have ht := State.inv_of_fst e hw
    refine State.ite_inv ?_ ht
    have hv := State.winnerOf_inv (tileOf n / 48 * 48 + Nat.xor (tileOf n % 48) 1) .mx ht
    split
    next => exact ht
    next u m e =>
      have hu := State.giveEngine_inv (tileOf n / 48 * 48 + Nat.xor (tileOf n % 48) 1) .mx m (State.inv_of_fst e hv)
      exact State.ite_inv hu hu

end Matrix

end Sys2Proof.Machine

/-! SUPPORT. Memory stays canonical (07 R182): tables and queues. -/
namespace Sys2Proof.Machine

section Device

variable {s : State}

/-! ### Tables and queues -/

theorem State.putEntry_inv (code i v : Nat) (h : s.Inv) : (s.putEntry code i v).Inv :=
  State.ite_inv (State.setEntry_inv _ _ _ h) (State.setEntry_inv _ _ _ h)

theorem State.putSegment_inv (i v : Nat) (h : s.Inv) : (s.putSegment i v).Inv := State.sendSpans_inv _ _ (State.putEntry_inv _ _ _ h)

theorem putUnless_yields (st code i v : Nat) (h : s.Inv) : Yields Stop.Inv (fun r => r.1.Inv) (s.putUnless st code i v) :=
  .ok (State.itePair_inv (State.putEntry_inv _ _ _ h) h)

theorem putPolicy_yields (d v : Nat) (h : s.Inv) : Yields Stop.Inv (fun r => r.1.Inv) (s.putPolicy d v) :=
  .ite (.pair h) (.pair (State.setEntry_inv _ _ _ h))

theorem State.qPush_inv (k : Nat) (v : BitVec 512) (h : s.Inv) : (s.qPush k v).Inv := State.setEntry_inv _ _ _ h

theorem State.qPop_inv (k : Nat) (h : s.Inv) : (s.qPop k).Inv := State.setEntry_inv _ _ _ h

theorem State.swapQueueOut_inv (d k : Nat) (h : s.Inv) : (s.swapQueueOut d k).Inv := State.setEntry_inv _ _ _ h

theorem State.poolVictim_inv (d t len : Nat) (h : s.Inv) : (s.poolVictim d t len).Inv := by
  unfold State.poolVictim
  dsimp only
  split
  next e => exact State.swapQueueOut_inv _ _ (State.inv_of_fst e (State.victimDraw_inv _ _ h))
  next e => exact State.inv_of_fst e (State.victimDraw_inv _ _ h)

theorem State.makePoolRoom_inv (d t len fuel : Nat) (h : s.Inv) : (s.makePoolRoom d t len fuel).Inv := by
  induction fuel generalizing s with
  | zero => exact h
  | succ n ih => exact State.ite_inv h (State.ite_inv h (ih (State.poolVictim_inv _ _ _ h)))

/-- An operation of two numbers keeps memory canonical. As a predicate of the operation it lets a definition stand under its binders, where
nothing of it is evaluated. -/
def KeepsInv (f : State → Nat → Nat → State) : Prop := ∀ s i v, s.Inv → (f s i v).Inv

/-- Wherever the room of a queue is found: the search stands as a variable, so that a check has no offset to compute. -/
theorem createQueue_keepsInv : KeepsInv State.createQueue := by
  obtain ⟨room, hroom⟩ : ∃ room, State.poolRoom = room := ⟨_, rfl⟩
  delta State.createQueue
  rw [hroom]
  intro s i v h
  have hr := fun d t len fuel => State.makePoolRoom_inv d t len fuel h
  dsimp only
  split
  · exact State.setEntry_inv _ _ _ (hr _ _ _ _)
  · exact State.inv_of_mem (State.setEntry_inv _ _ _ (hr _ _ _ _)) rfl

theorem State.destroyQueue_inv (i : Nat) (h : s.Inv) : (s.destroyQueue i).Inv := State.setEntry_inv _ _ _ h

theorem putQueue_yields (i v : Nat) (h : s.Inv) : Yields Stop.Inv (fun r => r.1.Inv) (s.putQueue i v) :=
  .ite (.ok (State.itePair_inv h (State.destroyQueue_inv _ h))) (.ite (.pair h) (.ite (.pair h) (.pair (createQueue_keepsInv _ _ _ h))))

theorem putContext_yields (i v : Nat) (h : s.Inv) : Yields Stop.Inv (fun r => r.1.Inv) (s.putContext i v) :=
  .ite (.pair h) (.pair (State.putEntry_inv _ _ _ (State.ite_inv h (State.ite_inv h h))))

theorem State.poolStep_inv (d : Nat) (h : s.Inv) : (s.poolStep d).1.Inv := by
  have hl : ∀ l : List Nat, (l.foldl (fun s q => s.swapQueueOut d q) s).Inv := fun l =>
    State.foldl_inv (fun _ _ h => State.swapQueueOut_inv _ _ h) h
  unfold State.poolStep
  dsimp only
  split
  · exact State.foldl_inv (fun _ _ h => State.allocGranule_inv _ _ _ _ h)
      (State.foldl_inv (fun _ _ h => State.freeGranule_inv _ _ h) (hl _))
  · split
    · exact hl _
    · split
      next e => exact State.askPreempt_inv _ (State.inv_of_fst e (State.victimDraw_inv _ _ (hl _)))
      next e => exact State.inv_of_fst e (State.victimDraw_inv _ _ (hl _))

theorem imageKeys_yields (t n right : Nat) (k : AccKind) : Yields Stop.Inv anyResult (s.imageKeys t n right k) :=
  (need_yields _).check fun _ => (liftF_yields _).check fun _ => (need_yields _).check fun _ => .ok trivial

/-- A word that writes a table keeps memory canonical if what it does with the entry keeps it. -/
theorem tableWrite_nextInv (d a b : BitVec 5) (lvl code : Nat) {f : State → Nat → Nat → M (State × Nat)}
    (hf : ∀ t i v, t.Inv → Yields Stop.Inv (fun r => r.1.Inv) (f t i v)) (h : s.Inv) : NextInv (s.tableWrite d a b lvl code f) := by
  refine directM_nextInv _ _ _ _ h ((liftF_yields _).check fun _ => (imageKeys_yields ..).check fun _ => (ccRead_yields _ _ h).bind ?_)
  rintro ⟨u, v⟩ hu
  refine Yields.bind (P := fun r => r.1.Inv) ?_ fun _ h => .ok h
  split
  · exact .ok hu
  · exact hf _ _ _ hu

end Device

end Sys2Proof.Machine

/-! SUPPORT. Memory stays canonical (07 R182): base dies and the fabric, and tasks and teams that leave. -/
namespace Sys2Proof.Machine

section Device

variable {s : State}

/-! ### Base dies and system registers -/

theorem State.takeReq_inv (r : PcReq) (h : s.Inv) : (s.takeReq r).Inv := by
  have hd := State.upTo_inv (n := (s.stack r.h.stk.toNat).toStack.length) (fun _ _ h => State.takeSeason_inv r.h.stk.toNat h) h
  unfold State.takeReq
  dsimp only
  split
  · exact State.performReq_inv _ hd
  · exact State.ite_inv hd (State.ite_inv hd (State.wakeRegion_inv _ _ hd))

theorem State.flushPc_inv (k pc : Nat) (h : s.Inv) : (s.flushPc k pc).Inv := State.upTo_inv (fun _ _ h => State.serveReq_inv _ _ _ h) h

theorem State.scrubUnit_inv (key : Nat) (found : ScrubFind) (h : s.Inv) : (s.scrubUnit key found).Inv := by
  unfold State.scrubUnit
  dsimp only
  split
  · exact h
  · exact State.ite_inv h h
  · have hm := State.markPoison_inv key h
    exact State.ite_inv (State.mergeUnit_inv _ h) (State.ite_inv hm hm)

theorem State.beginHold_inv (n : Nat) (v : Word) (h : s.Inv) : (s.beginHold n v).Inv :=
  State.upSlot_inv _ _ (State.foldl_inv (fun _ _ h => State.ite_inv h h)
    (State.upTo_inv (fun _ _ h => State.ite_inv (State.wakeBank_inv _ _ _ h) h) (State.endHold_inv _ h)))

theorem State.sysWrite_inv (name : BitVec 12) (idx : BitVec 5) (v : Word) (h : s.Inv) : (s.sysWrite name idx v).Inv := by
  unfold State.sysWrite
  dsimp only
  split
  case h_7 => exact State.upMe_inv _ (State.beginHold_inv _ _ h)
  all_goals exact h

/-! ### The fabric -/

theorem State.farWrite_inv (k : Nat) (r : RingSlot) (h : s.Inv) : (s.farWrite k r).Inv := by
  unfold State.farWrite
  split
  · exact h
  · exact State.respondTo_inv _ _ _ _ _ (State.countFar_inv _ _ (State.heatAll_inv _
      (State.markEach_inv _ _ (State.writeAllFrom_inv _ _ (State.touchAllFrom_inv _ _ _ h)))))

theorem State.farLoad_inv (k : Nat) (r : RingSlot) (h : s.Inv) : (s.farLoad k r).Inv := by
  unfold State.farLoad
  split
  · exact h
  · exact State.respondTo_inv _ _ _ _ _ (State.heatAll_inv _ (State.noteReadsFrom_inv _ _ (State.touchAllFrom_inv _ _ _ h)))

theorem State.farEnq_inv (k : Nat) (r : RingSlot) (h : s.Inv) : (s.farEnq k r).Inv := by
  have hr := fun op => State.respondTo_inv k op r.h 0#512 0#2 h
  have hp := fun h' v => State.respondTo_inv k (.outcome .ok) r.h 0#512 0#2
    (State.nameActor_inv (queueKey h') true none (State.qPush_inv (queueKey h') v h))
  unfold State.farEnq
  split
  · exact hr _
  · exact State.ite_inv (hr _) (State.ite_inv (hr _) (State.ite_inv (hr _) (hp _ _)))

theorem State.farPerform_inv (k : Nat) (r : RingSlot) (h : s.Inv) : (s.farPerform k r).Inv := by
  refine State.ite_inv (State.sendBack_inv _ _ _ _ _ _ (State.respondTo_inv _ _ _ _ _ h)) ?_
  split
  · exact State.farWrite_inv _ _ h
  · exact State.farLoad_inv _ _ h
  · exact State.farEnq_inv _ _ h
  · exact h

theorem State.releaseAll_inv (k fuel : Nat) (h : s.Inv) : (s.releaseAll k fuel).Inv := by
  induction fuel generalizing s with
  | zero => exact h
  | succ n ih =>
    unfold State.releaseAll
    dsimp only
    split
    · exact h
    · split
      · exact h
      next r _ => exact ih (State.farPerform_inv k r h)

theorem State.inRequest_inv (k : Nat) (r : RingSlot) (h : s.Inv) : (s.inRequest k r).Inv :=
  State.ite_inv (State.ite_inv (State.comeBack_inv _ _ h) h)
    (State.ite_inv (State.ite_inv (State.releaseAll_inv _ _ h) (State.ite_inv h h)) h)

theorem State.storeFault_inv (n : Nat) (h : s.Inv) : (s.storeFault n).Inv := by
  unfold State.storeFault
  split
  · exact h
  · dsimp only
    split
    · exact State.raiseEng_inv _ _ _ _ h
    · exact h

theorem State.copyFault_inv (n : Nat) (seq : W32) (f : Flt) (h : s.Inv) : (s.copyFault n seq f).Inv := by
  unfold State.copyFault
  split
  · exact h
  · exact State.raiseLate_inv _ _ _ _ h

theorem State.serveAnswer_inv (r : FabReq) (f : Option Flt) (o : Option EnqrOutcome) (data : BitVec 512) (poison : BitVec 2) (h : s.Inv) :
    (s.serveAnswer r f o data poison).Inv := by
  unfold State.serveAnswer
  split
  · cases o
    · exact h
    · exact State.giveOutcome_inv _ _ _ h
  · exact h
  · exact State.storeFault_inv _ (State.retireStoresOf_inv _ h)
  · cases f
    · exact h
    · exact State.copyFault_inv _ _ _ h

theorem State.inResponse_inv (k : Nat) (r : RingSlot) (h : s.Inv) : (s.inResponse k r).Inv := by
  refine State.ite_inv h ?_
  split
  · exact h
  · exact State.ite_inv (State.serveAnswer_inv _ _ _ _ _ h) h

/-! ### Tasks leave -/

theorem State.leaveTile_inv (tile team : Nat) (h : s.Inv) : (s.leaveTile tile team).Inv :=
  State.setTile_inv _ _ (State.foldl_inv (fun _ _ h => State.freeGranule_inv _ _ h) h)

theorem State.leaveTeam_inv (team : Nat) (h : s.Inv) : (s.leaveTeam team).Inv := by
  have hl := State.ite_inv (c := ((s.team team).state == .swapped) = true) h
    (State.foldl_inv (l := (s.team team).tiles) (fun _ k h => State.leaveTile_inv k team h) h)
  exact State.ite_inv h hl

theorem State.closeTask_inv (t : Nat) (reclaimed : Bool) (h : s.Inv) : (s.closeTask t reclaimed).1.Inv := by
  unfold State.closeTask
  split
  · exact h
  next x _ =>
    have hx : State.Inv (match x.slot with
        | some n => (s.setTask t { x with state := .finished, refs := [], slot := none }).leaveSlot n
        | none => s.setTask t { x with state := .finished, refs := [], slot := none }) := by
      split
      · exact State.leaveSlot_inv _ h
      · exact h
    have hl := State.leaveTeam_inv x.team hx
    exact State.ite_inv hl hl

theorem State.countZero_inv (n : Nat) (h : s.Inv) : (s.countZero n).1.Inv := by
  unfold State.countZero
  dsimp only
  split
  · exact h
  · exact h
  · exact State.ite_inv h h
  · split
    · exact State.iteFst_inv h (State.forgetPassed_inv _ (State.setFuture_inv _ _ h))
    · exact State.itePair_inv h (State.dropFutPred_inv _ (State.countCtx_inv _ _ (State.setFuture_inv _ _ (State.unqueue_inv _ _ h))))

theorem State.dropOne_inv (w : W32) (h : s.Inv) : (s.dropOne w).1.Inv :=
  State.iteFst_inv h (State.iteFst_inv (State.countZero_inv _ h) h)

theorem State.dropList_inv (fuel : Nat) (ws : List W32) (h : s.Inv) : (State.dropList fuel ws s).Inv := by
  induction fuel generalizing s ws with
  | zero => exact h
  | succ n ih =>
    cases ws with
    | nil => exact h
    | cons w r =>
      have hd := State.dropOne_inv w h
      unfold State.dropList
      split
      next e => exact ih _ (State.inv_of_fst e hd)
      next e => exact ih _ (State.closeTask_inv _ _ (State.inv_of_fst e hd))

theorem State.drops_inv (ws : List W32) (h : s.Inv) : (s.drops ws).Inv := State.dropList_inv _ _ h

theorem State.frontDrop_inv (w : W32) (h : s.Inv) : (s.frontDrop w).Inv := State.ite_inv (State.drops_inv _ h) h

theorem State.finishTask_inv (t : Nat) (h : s.Inv) : (s.finishTask t).Inv := by
  unfold State.finishTask
  split
  · exact h
  next x _ =>
    have hd : ∀ c f, (if c = true then s.setFuture (futSlot x.tq.handle) f else s).Inv := fun _ _ => State.ite_inv h h
    have hf : ∀ u : State, u.Inv → ∀ e, ((((u.closeTask t false).1.drops (u.closeTask t false).2).hostEnded x.tq.handle e).frontDrop
        x.tq.handle).Inv := fun _ hu _ => State.frontDrop_inv _ (State.hostEnded_inv _ _ (State.drops_inv _ (State.closeTask_inv _ _ hu)))
    exact State.ite_inv (State.countZero_inv _ (hf _ (hd _ _) _)) (hf _ (hd _ _) _)

end Device

end Sys2Proof.Machine

/-! SUPPORT. Memory stays canonical (07 R182): tasks are reclaimed, placed, saved and restored; teams move to and from context images. -/
namespace Sys2Proof.Machine

section Tasks

variable {s : State}

/-! ### Reclaimed tasks -/

theorem State.reclaimTask_inv (t : Nat) (h : s.Inv) : (s.reclaimTask t).Inv := by
  unfold State.reclaimTask
  split
  · exact h
  next x _ =>
    have hf : ∀ c f, (if c = true then s.setFuture (futSlot x.tq.handle) f else s).Inv := fun _ _ => State.ite_inv h h
    exact State.frontDrop_inv _ (State.hostEnded_inv _ _ (State.drops_inv _ (State.closeTask_inv _ _ (hf _ _))))

theorem State.reclaimQueued_inv (ctx : Nat) (e : TqEntry) (h : s.Inv) : (s.reclaimQueued ctx e).Inv := by
  have hf : ∀ c n f, (if c = true then s.unqueue ctx e.handle else (s.unqueue ctx e.handle).setFuture n f).Inv := fun _ _ _ =>
    State.ite_inv h h
  have hd := fun c n f => State.frontDrop_inv e.handle (State.hostEnded_inv e.handle true
    (State.dropFutPred_inv e.handle (State.countCtx_inv ctx 11 (hf c n f))))
  exact State.ite_inv (State.countZero_inv _ (hd _ _ _)) (hd _ _ _)

theorem State.leaveSet_inv (t : Nat) (h : s.Inv) : (s.leaveSet t).Inv := by
  unfold State.leaveSet
  split
  · exact h
  next x _ =>
    have hd : ({ s with tasks := mdel s.tasks t } : State).Inv := h
    have hf : ∀ n f, (({ s with tasks := mdel s.tasks t } : State).setFuture n f).Inv := fun _ _ => h
    exact State.ite_inv hd (State.ite_inv (State.countZero_inv _ (hf _ _)) (hf _ _))

theorem State.refuseEntry_inv (d c : Nat) (e : TqEntry) (h : s.Inv) : (s.refuseEntry d c e).Inv := by
  have hf : ∀ b n f, (if b = true then s else s.setFuture n f).Inv := fun _ _ _ => State.ite_inv h h
  have hd : ∀ u : State, u.Inv → (u.countDev d 0).Inv := fun _ hu => hu
  have hr := fun b n f => State.frontDrop_inv e.handle (State.dropFutPred_inv e.handle
    (State.hostEnded_inv e.handle true (hd _ (hf b n f))))
  exact State.foldl_inv (fun _ t h => State.reclaimTask_inv t h) (State.foldl_inv (fun _ q h => State.reclaimQueued_inv c q h)
    (State.ite_inv (State.countZero_inv _ (hr _ _ _)) (hr _ _ _)))

theorem State.readRec_inv (c : Nat) (va : Word) (h : s.Inv) : (s.readRec c va).1.Inv := State.readVa_inv _ _ _ _ _ h

theorem State.recordAt_inv (c : Nat) (va : Word) (h : s.Inv) : (s.recordAt c va).1.Inv := State.readRec_inv _ _ h

/-! ### Placement -/

theorem State.takePlan_inv (tenant team : Nat) (p : TilePlan) (h : s.Inv) : (s.takePlan tenant team p).Inv :=
  State.setTile_inv _ _ (State.foldl_inv (fun _ _ h => State.allocGranule_inv _ _ _ _ h) h)

theorem State.placeTask_inv (n t team : Nat) (h : s.Inv) : (s.placeTask n t team).Inv := by
  cases hx : mfind s.tasks t with
  | none =>
    unfold State.placeTask
    rw [hx]
    exact h
  | some x =>
    obtain ⟨z, ts, cs, bs, e, -, -⟩ := placeTask_eq (n := n) (team := team) hx
    exact e ▸ State.writeVa_inv _ _ _ _ _ h

theorem State.placeTeam_inv (team : Nat) (l : List (Nat × Decl)) (h : s.Inv) : (s.placeTeam team l).Inv := by
  refine State.countCtx_inv _ _ (State.foldl_inv (fun _ p h => State.placeTask_inv p.2 p.1 team h) (State.foldl_inv (fun u k h => ?_) h))
  split
  · exact State.takePlan_inv _ _ _ h
  · exact h

theorem State.resumeTeam_inv (team : Nat) (h : s.Inv) : (s.resumeTeam team).Inv :=
  State.foldl_inv (fun _ n h => State.ite_inv (State.resume_inv n none (State.upSlot_inv _ _ h)) h) h

theorem State.serveTeam_inv (d team : Nat) (h : s.Inv) : (s.serveTeam d team).Inv := by
  unfold State.serveTeam
  split
  · exact State.setPrecede_inv _ _ (State.resumeTeam_inv _ h)
  · exact State.setPrecede_inv _ _ h
  · split
    · exact State.setPrecede_inv _ _ (State.placeTeam_inv _ _ h)
    · exact State.ite_inv (State.setPrecede_inv _ _ h) (State.drawVictim_inv _ _ (State.setPrecede_inv _ _ h))
  · exact State.setPrecede_inv _ _ h
  · exact h

/-! ### Cuts, saved and restored slots -/

theorem State.reclaimRunning_inv (n : Nat) (h : s.Inv) : (s.reclaimRunning n).Inv := by
  unfold State.reclaimRunning
  split
  · exact State.reclaimTask_inv _ (State.takeCut_inv _ h)
  · exact h

theorem State.preemptCut_inv (n : Nat) (h : s.Inv) : (s.preemptCut n).Inv :=
  State.teamStops_inv _ (State.upSlot_inv _ _ (State.takeCut_inv _ h))

theorem State.writeCsa_inv (n base reserve : Nat) (x : Slot) (h : s.Inv) : (s.writeCsa n base reserve x).Inv :=
  State.foldl_inv (fun _ _ h => State.writeVa_inv _ _ _ _ _ h) h

theorem State.saveSlot_inv (n : Nat) (h : s.Inv) : (s.saveSlot n).1.Inv := by
  have hr := fun r i => State.countDev_inv (dieOf n) 2 (State.report_inv n r i h)
  unfold State.saveSlot
  dsimp only
  split
  · exact State.csa_inv _ (State.writeCsa_inv _ _ _ _ h)
  · split
    · exact hr _ _
    · split
      · exact hr _ _
      · split
        · exact hr _ _
        · exact State.csa_inv _ (State.writeCsa_inv _ _ _ _ (State.setDie_inv _ _ (hr _ _)))

theorem State.restored_inv (n base : Nat) (x : Slot) (h : s.Inv) : (s.restored n base x).1.Inv := by
  unfold State.restored
  dsimp only
  split
  next e => exact State.inv_of_fst e (State.readVa_inv _ _ _ _ _ h)
  next e => exact State.inv_of_fst e (State.readVa_inv _ _ _ _ _ h)

theorem State.unsaved_inv (n : Nat) (h : s.Inv) : (s.unsaved n).Inv :=
  State.foldl_inv (fun _ t h => State.ite_inv (State.reclaimTask_inv t h) h) (State.upSlot_inv _ _ h)

theorem State.restoreSlot_inv (n base : Nat) (h : s.Inv) : (s.restoreSlot n base).Inv := by
  unfold State.restoreSlot
  split
  · exact h
  next x _ =>
    have hr := State.restored_inv n base x h
    split
    next u y e =>
      have hu : u.Inv := State.inv_of_fst e hr
      have hs : ∀ v : State, v.Inv → (if y.job.stopped = true then v else v.resume n none).Inv := fun v hv =>
        State.ite_inv hv (State.resume_inv n none hv)
      refine hs _ ?_
      split
      · split <;> exact hu
      · exact hu

theorem State.putImage_inv (team tenant : Nat) (i : TileImage) (h : s.Inv) : (s.putImage team tenant i).Inv :=
  State.setTile_inv _ _ (State.poisonMarks_inv _ (State.foldl_inv (fun _ c h => State.putByte_inv c.1 c.2 h)
    (State.usedMarks_inv _ (State.foldl_inv (fun _ _ h => State.allocGranule_inv _ _ _ _ h) h))))

end Tasks

end Sys2Proof.Machine

/-! SUPPORT. Memory stays canonical (07 R182): bodies of synchronization words, lent slots, and what the host's commands and the
management of interfaces do. -/
namespace Sys2Proof.Machine

section Sync

variable {s : State}

/-! ### Checks of synchronization words -/

theorem queueCheck_yields (t h : Nat) : Yields Stop.Inv anyResult (s.queueCheck t h) :=
  (liftF_yields _).check fun _ => liftF_yields _

theorem futCheck_yields (t : Nat) (w : W32) : Yields Stop.Inv anyResult (s.futCheck t w) :=
  (liftF_yields _).check fun _ => liftF_yields _

theorem syReady_yields (en : Entry) (sc : Scope) (d : Nat) (k : AccKind) : Yields Stop.Inv anyResult (s.syReady en sc d k) :=
  need_yields _

theorem syReadyAt_yields (en : Entry) (sc : Scope) (home : Nat) (k : AccKind) : Yields Stop.Inv anyResult (s.syReadyAt en sc home k) :=
  need_yields _

theorem futReady_yields (en : Entry) (w : W32) (k : AccKind) : Yields Stop.Inv anyResult (s.futReady en w k) := syReady_yields _ _ _ _

theorem ctrReady_yields (en : Entry) (cls : Nat) (k : AccKind) : Yields Stop.Inv anyResult (s.ctrReady en cls k) :=
  .ite (syReady_yields _ _ _ _) (.ite (syReady_yields _ _ _ _) (syReadyAt_yields _ _ _ _))

theorem indKeys_yields (en : Entry) (b : BitVec 5) (size right : Nat) (k : AccKind) :
    Yields Stop.Inv anyResult (s.indKeys en b size right k) :=
  (liftF_yields _).check fun _ => (need_yields _).check fun _ => .ok trivial

theorem tktContext_yields (v : Word) : Yields Stop.Inv anyResult (s.tktContext v) :=
  (liftF_yields _).check fun _ => (liftF_yields _).check fun _ => .ok trivial

theorem lengthOk_yields (v : Word) : Yields Stop.Inv anyResult (lengthOk v) := liftF_yields _

/-! ### Bodies -/

theorem State.release_inv (w : W32) (h : s.Inv) : (s.release w).Inv := State.ite_inv (State.drops_inv _ (State.setRefs_inv _ h)) h

theorem awaitEnd_yields (d : BitVec 3) (w : W32) (h : s.Inv) : Yields Stop.Inv State.Inv (s.awaitEnd d w) :=
  (liftF_yields _).check fun _ => .ok (State.wantP_inv _ _ (State.release_inv _ h))

theorem awaitlBody_yields (d : BitVec 3) (w : W32) (h : s.Inv) : Yields Stop.Inv State.Inv (awaitlBody d w s) :=
  (futCheck_yields _ _).check fun _ => (need_yields _).check fun _ => awaitEnd_yields _ _ h

theorem yieldlBody_yields (kind : YKind) (a b : BitVec 5) (en : Entry) (h : s.Inv) :
    Yields Stop.Inv State.Inv (yieldlBody kind a b en s) := by
  cases kind with
  | counter => exact (liftF_yields _).check fun _ => (need_yields _).check fun _ => .ok h
  | future => exact (liftF_yields _).check fun _ => (futCheck_yields _ _).check fun _ => (need_yields _).check fun _ => .ok h
  | data => exact (liftF_yields _).check fun _ => (queueCheck_yields _ _).check fun _ => (need_yields _).check fun _ => .ok h
  | room => exact (liftF_yields _).check fun _ => (queueCheck_yields _ _).check fun _ => (need_yields _).check fun _ => .ok h

theorem waitcBody_yields (d : BitVec 3) (a : BitVec 5) (id : BitVec 8) (en : Entry) (h : s.Inv) :
    Yields Stop.Inv State.Inv (waitcBody d a id s en) := (syReady_yields _ _ _ _).check fun _ => (need_yields _).check fun _ => .ok h

theorem rndvBody_yields (en : Entry) (h : s.Inv) : Yields Stop.Inv State.Inv (s.rndvBody en) := (need_yields _).check fun _ => .ok h

theorem arriveBody_yields (en : Entry) (a : BitVec 5) (h : s.Inv) : Yields Stop.Inv State.Inv (s.arriveBody en a) :=
  (need_yields _).check fun _ => (liftF_yields _).check fun _ => .ok h

theorem dequeue_yields (en : Entry) (d a b : BitVec 5) (ind : Bool) (p : BitVec 3) (take : Bool) (h : s.Inv) :
    Yields Stop.Inv State.Inv (s.dequeue en d a b ind p take) := by
  refine (syReady_yields _ _ _ _).check fun _ => (queueCheck_yields _ _).check fun _ =>
    .check (.ite (indKeys_yields _ _ _ _ _) (.ok trivial)) fun ks => .ite (.ok h) ?_
  have hw := State.ite_inv (c := ind = true) (State.writeKeys_inv s.me.y.ctx.toNat ks
    (leBytes (qEsize (s.queueOf (handleOf (en.cap a)))) (s.qFront (queueKey (handleOf (en.cap a)))).toNat) h) h
  have ht := State.ite_inv (c := (ind && ccIsVa (en.cap b).toNat) = true) (State.heat_inv (en.cap b).toNat hw) hw
  exact .ok (State.ite_inv (State.nameActor_inv _ _ _ (State.qPop_inv _ ht)) ht)

theorem State.closeAt_inv (above : Bool) (n : Nat) (h : s.Inv) : (s.closeAt above n).Inv :=
  State.ite_inv (State.raiseLate_inv _ _ _ _ (State.countCtx_inv _ _ (State.upSlot_inv _ _ h))) (State.upSlot_inv _ _ h)

/-! ### Lent slots and waiting words -/

theorem State.endLend_inv (en : Entry) {r : M State} (hr : Yields Stop.Inv State.Inv r) (h : s.Inv) : (s.endLend en r).Inv := by
  cases hr with
  | ok ht => exact State.upMe_inv _ (State.endWait_inv ht)
  | @error e ht =>
    cases e with
    | wait => exact h
    | fault f => exact State.raiseEng_inv _ _ _ _ (State.endWait_inv h)
    | after t f => exact State.raiseEng_inv _ _ _ _ (State.endWait_inv ht)

theorem State.issueLend_inv (en : Entry) (order : M Unit) {body : M State} (hb : Yields Stop.Inv State.Inv body) (h : s.Inv) :
    (s.issueLend en order body).Inv := by
  unfold State.issueLend
  split
  · exact h
  · split
    · exact State.beginWait_inv _ h
    · exact State.endLend_inv _ hb h

theorem lendEvent_nextInv {body : Instr → Entry → Option (M State)} (h : s.Inv)
    (hb : ∀ i en r, body i en = some r → Yields Stop.Inv State.Inv r) : NextInv (s.lendEvent body) := by
  refine .next ?_
  split
  · exact h
  next en _ =>
    refine State.ite_inv h ?_
    split
    · split
      next r e => exact State.endLend_inv _ (hb _ _ _ e) h
      next => exact h
    · exact h
    · exact h

theorem syEvent_nextInv {body : Instr → Option (State → Entry → M State)} (h : s.Inv)
    (hb : ∀ i f, body i = some f → ∀ en, Yields Stop.Inv State.Inv (f s en)) : NextInv (s.syEvent body) := by
  refine .next ?_
  split
  · exact h
  next en _ =>
    split
    · split
      · exact h
      next f e =>
        have hf := hb _ _ e en
        refine State.ite_inv h ?_
        split
        · exact h
        · exact State.raiseEng_inv _ _ _ _ h
        next ef => exact State.raiseEng_inv _ _ _ _ (hf.of_error ef)
        next ef => exact State.upMe_inv _ (hf.of_ok ef)
    · exact h
    · exact h

end Sync

section Host

variable {s : State}

/-! ### Commands of a host queue -/

theorem State.fetched_inv (i : Issuer) (va len : Nat) (h : s.Inv) : (s.fetched i va len).Inv := State.readVa_inv _ _ _ _ _ h

theorem State.storeAs_inv (i : Issuer) (va : Nat) (bs : List Byte) (h : s.Inv) : (s.storeAs i va bs).Inv := State.writeVa_inv _ _ _ _ _ h

theorem State.loadedAs_inv (i : Issuer) (va : Nat) (bs : List Byte) (h : s.Inv) : (s.loadedAs i va bs).Inv := State.writeVa_inv _ _ _ _ _ h

theorem State.afterCommand_inv (fn : Fn) (q : HostQ) (h : s.Inv) : (s.afterCommand fn q).Inv := State.fetched_inv _ _ _ h

theorem State.readLaunch_inv (i : Issuer) (fuel va : Nat) (l : Launch) (h : s.Inv) : (State.readLaunch i fuel va l s).1.Inv := by
  induction fuel generalizing s va l with
  | zero => exact h
  | succ n ih =>
    have hf := State.fetched_inv i va 16 h
    unfold State.readLaunch
    split
    · exact hf
    · refine State.iteFst_inv hf ?_
      split
      · exact hf
      · exact ih _ _ hf

theorem State.launchAt_inv (i : Issuer) (va : Nat) (h : s.Inv) : (s.launchAt i va).1.Inv := State.readLaunch_inv _ _ _ _ h

theorem State.mapStripes_inv {t : State} (vf idx step n : Nat) (h : s.Inv) (e : s.mapStripes vf idx step n = some t) : t.Inv := by
  refine foldl_keeps (fun (r : Option State) => ∀ t, r = some t → t.Inv) _ _ _ (fun r j hr t e => ?_) (by rintro t ⟨⟩; exact h) t e
  obtain ⟨u, hu, e⟩ := Option.bind_eq_some_iff.mp e
  obtain ⟨f, _, e⟩ := Option.bind_eq_some_iff.mp e
  rw [Option.ite_none_right_eq_some] at e
  exact Option.some.inj e.2 ▸ State.setEntry_inv _ _ _ (hr u hu)

theorem State.createBuffer_inv {r : State × Nat} (like tenant : Nat) (b : BufDecl) (h : s.Inv) (e : s.createBuffer like tenant b = some r) :
    r.1.Inv := by
  unfold State.createBuffer at e
  split at e
  · cases e
  · obtain ⟨i, _, e⟩ := Option.bind_eq_some_iff.mp e
    obtain ⟨place, _, e⟩ := Option.bind_eq_some_iff.mp e
    obtain ⟨u, hu, rfl⟩ := Option.map_eq_some_iff.mp e
    exact State.setEntry_inv _ _ _ (State.mapStripes_inv _ _ _ _ h hu)

theorem State.createBuffers_inv {r : State × List Nat} (like tenant : Nat) (bs : List BufDecl) (h : s.Inv)
    (e : s.createBuffers like tenant bs = some r) : r.1.Inv := by
  refine foldl_keeps (fun (r : Option (State × List Nat)) => ∀ d, r = some d → d.1.Inv) _ _ _ (fun r b hr d e => ?_)
    (by rintro d ⟨⟩; exact h) r e
  obtain ⟨c, hc, e⟩ := Option.bind_eq_some_iff.mp e
  obtain ⟨u, hu, rfl⟩ := Option.map_eq_some_iff.mp e
  exact State.createBuffer_inv _ _ _ (hr c hc) hu

theorem State.loadRecords_inv (i : Issuer) (ctx : Nat) (vas rs : List Nat) (h : s.Inv) : (s.loadRecords i ctx vas rs).Inv := by
  refine State.foldl_inv (fun t r h => ?_) h
  split
  · exact h
  · exact State.loadedAs_inv _ _ _ (State.fetched_inv _ _ _ h)

theorem State.loadModel_inv {t : State} (fn : Fn) (q : HostQ) (mk va : Nat) (l : Launch) (h : s.Inv)
    (e : s.loadModel fn q mk va l = some t) : t.Inv := by
  obtain ⟨r, hr, rfl⟩ := Option.map_eq_some_iff.mp e
  exact State.setModel_inv _ _ (State.loadRecords_inv _ _ _ _ (State.createBuffers_inv _ _ _ h hr))

/-- The reader of launch descriptors stands as a variable in the proof: what it reads is of no account here, and a check must not evaluate
it. -/
theorem State.takeLoad_inv (fn : Fn) (q : BitVec 4) (accept : Bool) (h : s.Inv) : (s.takeLoad fn q accept).Inv := by
  have hc := fun x => State.afterCommand_inv fn x h
  obtain ⟨launchAt, e⟩ : ∃ f, State.launchAt = f := ⟨_, rfl⟩
  have hl : ∀ x i va, (launchAt (s.afterCommand fn x) i va).1.Inv := fun x i va => e ▸ State.launchAt_inv i va (hc x)
  delta State.takeLoad
  rw [e]
  refine State.ite_inv h ?_
  split
  · exact State.upHostQ_inv _ _ (hc _)
  · dsimp only
    split
    · exact State.upHostQ_inv _ _ (hl _ _ _)
    · split
      next => exact State.upHostQ_inv _ _ (hl _ _ _)
      next t et => exact State.upHostQ_inv _ _ (State.loadModel_inv _ _ _ _ _ (hl _ _ _) (Option.ite_none_right_eq_some.mp et).2)

/-! ### Reset queues and interfaces -/

theorem State.resetTask_inv (t : Nat) (h : s.Inv) : (s.resetTask t).Inv := by
  unfold State.resetTask
  split
  · exact State.reclaimTask_inv _ h
  · exact State.ite_inv (State.reclaimTask_inv _ (State.takeCut_inv _ h)) h

theorem State.reclaimTagged_inv (k : Nat) (h : s.Inv) : (s.reclaimTagged k).Inv :=
  State.stations_inv _ (State.foldl_inv (fun _ _ h => State.resetTask_inv _ h)
    (State.foldl_inv (fun _ e h => State.reclaimQueued_inv e.1 e.2 h) h))

theorem State.beginReset_inv (k reason : Nat) (h : s.Inv) : (s.beginReset k reason).Inv :=
  State.stations_inv _ (State.reclaimTagged_inv _ (State.upHostQ_inv _ _ h))

theorem State.enterError_inv (vf : Nat) (h : s.Inv) : (s.enterError vf).Inv :=
  State.foldl_inv (fun _ _ h => State.beginReset_inv _ _ (State.abortAll_inv _ (State.upHostQ_inv _ _ h))) (State.upVf_inv _ _ h)

theorem State.errorEvent_inv (vf : Nat) (h : s.Inv) : (s.errorEvent vf).Inv := State.ite_inv (State.enterError_inv _ h) h

theorem State.beginTeardown_inv (vf : Nat) (h : s.Inv) : (s.beginTeardown vf).Inv :=
  State.foldl_inv (fun _ _ h => State.upStation_inv _ _ h) (State.foldl_inv (fun _ _ h => State.ite_inv h (State.beginReset_inv _ _ h))
    (State.upVf_inv _ _ (State.noSlots_inv (fun _ h => State.putEntry_inv _ _ _ h) h)))

theorem State.stopInterface_inv (vf : Nat) (h : s.Inv) : (s.stopInterface vf).Inv :=
  State.upVf_inv _ _ (State.ite_inv h (State.beginTeardown_inv _ h))

theorem State.afterReset_inv : s.afterReset.Inv := State.reset_inv

end Host

end Sys2Proof.Machine

/-! SUPPORT. Memory stays canonical (07 R182): the words of the scalar classes, of loads and stores, of the vector unit and of the copy
engine, and the events of those engines. -/
namespace Sys2Proof.Machine

section Scalar

variable {s : State}

theorem alu_nextInv (d a b : BitVec 5) (f : Word → Word → Word) (h : s.Inv) : NextInv (alu d a b f s) := direct_nextInv _ _ _ h

theorem alu1_nextInv (d a : BitVec 5) (f : Word → Word) (h : s.Inv) : NextInv (alu1 d a f s) := direct_nextInv _ _ _ h

theorem jalr_nextInv (d a : BitVec 5) (imm : BitVec 12) (h : s.Inv) : NextInv (execJalr d a imm s) :=
  .next (State.ite_inv h (State.ite_inv (State.raiseWord_inv _ _ h) (State.upMe_inv _ h)))

theorem movx_nextInv (d a : BitVec 5) (imm : BitVec 12) (h : s.Inv) : NextInv (execMovx d a imm s) :=
  .next (State.ite_inv h (State.upMe_inv _ h))

theorem regionResume_nextInv (h : s.Inv) : NextInv (execRegionResume s) := by
  refine .next ?_
  split
  · exact State.ite_inv (State.upMe_inv _ h) h
  all_goals exact h

theorem tdef_nextInv (cls : BitVec 3) (index : BitVec 6) (word : BitVec 80) (h : s.Inv) : NextInv (execTdef cls index word s) :=
  .next (State.ite_inv (State.raiseWord_inv _ _ h) (State.upMe_inv _ h))

theorem sysr_nextInv (d : BitVec 5) (name : BitVec 12) (idx : BitVec 5) (h : s.Inv) : NextInv (execSysr d name idx s) := by
  refine .next ?_
  split
  · exact State.raiseWord_inv _ _ h
  · exact State.ite_inv (State.raiseWord_inv _ _ h) (State.ite_inv (State.raiseWord_inv _ _ h) (State.ite_inv h (State.upMe_inv _ h)))

theorem sysw_nextInv (a : BitVec 5) (name : BitVec 12) (idx : BitVec 5) (h : s.Inv) : NextInv (execSysw a name idx s) := by
  refine .next ?_
  split
  · exact State.raiseWord_inv _ _ h
  · refine State.ite_inv (State.raiseWord_inv _ _ h) ?_
    split
    · exact State.ite_inv h (State.upMe_inv _ h)
    · exact State.ite_inv (State.raiseWord_inv _ _ h) (State.ite_inv h (State.upMe_inv _ (State.sysWrite_inv _ _ _ h)))

theorem State.readFlags_inv (n : Nat) (h : s.Inv) : (s.readFlags n).Inv := State.readVa_inv _ _ _ _ _ h

theorem eret_nextInv (h : s.Inv) : NextInv (execEret s) :=
  .next (State.ite_inv (State.raiseWord_inv _ _ h) (State.ite_inv (State.raiseWord_inv _ _ h)
    (State.resume_inv _ _ (State.upMe_inv _ (State.readFlags_inv _ h)))))

theorem endj_nextInv (h : s.Inv) : NextInv (execEndj s) := .next (State.ite_inv (State.raiseWord_inv _ _ h) (State.upMe_inv _ h))

theorem patchWordDispatch_nextInv (cls : BitVec 3) (index : BitVec 6) (sel : BitVec 4) (pop push last : Bool) (value : BitVec 16)
    (h : s.Inv) : NextInv (execPatchWordDispatch cls index sel pop push last value s) := by
  refine .next ?_
  split
  · exact State.raiseWord_inv _ _ h
  · exact State.ite_inv h (State.upMe_inv _ h)

/-! ### Cluster memory and atomics -/

theorem amo_nextInv (op : AmoOp) (dword : Bool) (scope : Scope) (d a b : BitVec 5) (h : s.Inv) :
    NextInv (execAmo op dword scope d a b s) := by
  refine directM_nextInv _ _ _ _ h ((need_yields _).check fun _ => (ccAdmit_yields _ _ _ _).check fun ks => (ccRead_yields _ _ h).bind ?_)
  rintro ⟨t, old⟩ ht
  exact .ok (State.upMe_inv _ (State.ccWrite_inv _ _ _ _ ht))

end Scalar

section Lanes

variable {s : State}

/-! ### Loads and stores -/

theorem ldg_nextInv (k : Ctl) (sz : ESize) (sx q : Bool) (d : BitVec 5) (m : BitVec 3) (a : BitVec 5) (buf : Bool) (b : BitVec 5)
    (am : AddrForm) (h : s.Inv) : NextInv (execLdg k sz sx q d m a buf b am s) := by
  refine runCmd_nextInv _ _ h fun en => ?_
  refine (ldReady_yields _).check fun _ => (liftF_yields _).check fun _ => (need_yields _).check fun _ => (need_yields _).check fun _ => ?_
  have hr := fun n vas ctx ks => State.fillStream_inv n 0 vas (State.heatAll_inv vas (State.loadKeys_inv ctx ks h))
  exact .ite (issueLoad_yields _ _ _ _ _ _ _ _ (hr _ _ _ _)) ((afterF_yields _ (hr _ _ _ _)).check fun _ =>
    (afterF_yields _ (hr _ _ _ _)).check fun _ => issueLoad_yields _ _ _ _ _ _ _ _ (hr _ _ _ _))

theorem ldf_nextInv (k : Ctl) (sz : ESize) (sx q : Bool) (d : BitVec 5) (m : BitVec 3) (a : BitVec 5) (am : AddrForm) (h : s.Inv) :
    NextInv (execLdf k sz sx q d m a am s) :=
  runCmd_nextInv _ _ h fun _ => (ldReady_yields _).check fun _ => (liftF_yields _).check fun _ => (liftF_yields _).check fun _ =>
    issueLoad_yields _ _ _ _ _ _ _ _ h

theorem State.fillShard_inv (n va : Nat) (h : s.Inv) : (s.fillShard n va).Inv := State.cacheFill_inv _ _ _ h

theorem lds_nextInv (k : Ctl) (sz : ESize) (sx q : Bool) (d : BitVec 5) (m : BitVec 3) (a b : BitVec 5) (rank : BitVec 2) (h : s.Inv) :
    NextInv (execLds k sz sx q d m a b rank s) :=
  runCmd_nextInv _ _ h fun _ => (ldReady_yields _).check fun _ => (liftF_yields _).check fun _ => (liftF_yields _).check fun _ =>
    issueLoad_yields _ _ _ _ _ _ _ _ (State.fillShard_inv _ _ h)

theorem stg_nextInv (k : Ctl) (sz : ESize) (d : BitVec 5) (m : BitVec 3) (a : BitVec 5) (buf : Bool) (b : BitVec 5) (am : AddrForm)
    (h : s.Inv) : NextInv (execStg k sz d m a buf b am s) :=
  runCmd_nextInv _ _ h fun _ => (stReady_yields _).check fun _ => (liftF_yields _).check fun _ => issueStore_yields _ _ _ _ _ _ _ _ _ _ h

theorem stf_nextInv (k : Ctl) (sz : ESize) (d : BitVec 5) (m : BitVec 3) (a : BitVec 5) (am : AddrForm) (h : s.Inv) :
    NextInv (execStf k sz d m a am s) :=
  runCmd_nextInv _ _ h fun _ => (stReady_yields _).check fun _ => (liftF_yields _).check fun _ => (liftF_yields _).check fun _ =>
    (need_yields _).check fun _ => .ok (State.requestAll_inv _ _ _ _ _ (State.upMe_inv _ h))

theorem stn4_nextInv (k : Ctl) (d : BitVec 5) (m : BitVec 3) (a : BitVec 5) (buf : Bool) (am : AddrForm) (h : s.Inv) :
    NextInv (execStn4 k d m a buf am s) :=
  runCmd_nextInv _ _ h fun _ => (stReady_yields _).check fun _ => issueStore_yields _ _ _ _ _ _ _ _ _ _ h

theorem vamo_nextInv (k : Ctl) (op : AmoOp) (t : ATy) (d : BitVec 5) (m : BitVec 3) (a b : BitVec 5) (c : BitVec 3) (buf : Bool)
    (am : AddrForm) (h : s.Inv) : NextInv (execVamo k op t d m a b c buf am s) :=
  runCmd_nextInv _ _ h fun _ => (stReady_yields _).check fun _ => (liftF_yields _).check fun _ => issueStore_yields _ _ _ _ _ _ _ _ _ _ h

theorem loadPerformed_nextInv (n : Nat) (lanes : Word) (h : s.Inv) : NextInv (execLoadPerformed n lanes s) :=
  .next (State.upMe_inv _ (State.performLoad_inv _ _ _ h))

theorem storePerformed_nextInv (n : Nat) (lanes : Word) (h : s.Inv) : NextInv (execStorePerformed n lanes s) :=
  .next (State.retireStoresOf_inv _ (State.performStore_inv _ _ _ h))

theorem loadDataHead_nextInv (h : s.Inv) : NextInv (execLoadDataHead s) := by
  refine .next ?_
  split
  · exact h
  · split
    · exact State.upMe_inv _ h
    · exact State.ite_inv h (State.raiseLate_inv _ _ _ _ (State.upMe_inv _ h))

theorem storeReplay_nextInv (h : s.Inv) : NextInv (execStoreReplay s) := by
  refine .next ?_
  split
  · exact h
  · exact State.replayFrom_inv _ _ _ _ h

/-! ### The vector unit -/

theorem vxLanes_nextInv (k : Ctl) (d : BitVec 5) (m : BitVec 3) (f : Slot → Entry → BitVec 2048) (h : s.Inv) :
    NextInv (vxLanes k d m f s) := runCmd_nextInv _ _ h fun _ => .ok h

theorem vx1_nextInv (k : Ctl) (d : BitVec 5) (m : BitVec 3) (a : BitVec 5) (f : W32 → W32) (h : s.Inv) : NextInv (vx1 k d m a f s) :=
  vxLanes_nextInv _ _ _ _ h

theorem vx2_nextInv (k : Ctl) (d : BitVec 5) (m : BitVec 3) (a b : BitVec 5) (f : W32 → W32 → W32) (h : s.Inv) :
    NextInv (vx2 k d m a b f s) := vxLanes_nextInv _ _ _ _ h

theorem vx3_nextInv (k : Ctl) (d : BitVec 5) (m : BitVec 3) (a b c : BitVec 5) (f : W32 → W32 → W32 → W32) (h : s.Inv) :
    NextInv (vx3 k d m a b c f s) := vxLanes_nextInv _ _ _ _ h

theorem vxShift_nextInv (k : Ctl) (d : BitVec 5) (m : BitVec 3) (a : BitVec 5) (n : VShift) (f : W32 → Nat → W32) (h : s.Inv) :
    NextInv (vxShift k d m a n f s) := by
  unfold vxShift
  split
  · exact vx2_nextInv _ _ _ _ _ _ h
  · exact vx1_nextInv _ _ _ _ _ h

theorem vxK_nextInv (k : Ctl) (d : BitVec 3) (f : Slot → Word) (h : s.Inv) : NextInv (vxK k d f s) := runCmd_nextInv _ _ h fun _ => .ok h

theorem vxAll_nextInv (k : Ctl) (d : BitVec 5) (f : Slot → BitVec 2048) (h : s.Inv) : NextInv (vxAll k d f s) :=
  runCmd_nextInv _ _ h fun _ => .ok h

theorem vspill_nextInv (k : Ctl) (a id : BitVec 5) (h : s.Inv) : NextInv (execVspill k a id s) :=
  runCmd_nextInv _ _ h fun _ => (spillTo_yields _ _ _ h).bind fun _ ht => .ok ht

theorem vfill_nextInv (k : Ctl) (d id : BitVec 5) (h : s.Inv) : NextInv (execVfill k d id s) := by
  refine runCmd_nextInv _ _ h fun en => ?_
  dsimp only
  split
  · exact .ok h
  · refine (spillRead_yields _ _ h).bind ?_
    rintro ⟨t, v, p⟩ ht
    exact .ite (.error ht) (.ok (State.spillFree_inv _ _ _ ht))

end Lanes

section Copies

variable {s : State}

/-! ### The copy engine and near-memory commands -/

theorem journalled_inv (i : Instr) (en : Entry) (xd xs : Word) (snap : List (Nat × Nat)) (pieces : Nat) (h : s.Inv) :
    (s.journalled i en xd xs snap pieces).s.Inv := State.upMe_inv _ (State.nameCounter_inv _ _ h)

theorem cpy_nextInv (k : Ctl) (dv cv sv : Bool) (d a n : BitVec 5) (id : BitVec 8) (inc : BitVec 4) (h : s.Inv) :
    NextInv (execCpy k dv cv sv d a n id inc s) :=
  runCmd_nextInv _ _ h fun _ => (lengthOk_yields _).check fun _ =>
    .iteCheck (cvChecks_yields _ _ _) (.ok trivial) fun _ => .ok (journalled_inv _ _ _ _ _ _ h)

theorem cpy2_nextInv (k : Ctl) (dv cv sv : Bool) (d a n m : BitVec 5) (id : BitVec 8) (inc : BitVec 4) (h : s.Inv) :
    NextInv (execCpy2 k dv cv sv d a n m id inc s) :=
  runCmd_nextInv _ _ h fun _ => .iteCheck (.foldl (fun _ _ hr => hr.check fun _ => cvChecks_yields _ _ _) (.ok trivial)) (.ok trivial)
    fun _ => .ok (journalled_inv _ _ _ _ _ _ h)

theorem cpys_nextInv (k : Ctl) (sz : ESize) (d a n f : BitVec 5) (id : BitVec 8) (inc : BitVec 4) (h : s.Inv) :
    NextInv (execCpys k sz d a n f id inc s) :=
  runCmd_nextInv _ _ h fun _ => (lengthOk_yields _).check fun _ => (need_yields _).check fun _ => (liftF_yields _).check fun _ =>
    (liftF_yields _).check fun _ => (liftF_yields _).check fun _ => (liftF_yields _).check fun _ =>
      .ok (journalled_inv _ _ _ _ _ _ (State.fillShard_inv _ _ (State.fillShard_inv _ _ h)))

theorem cpyf_nextInv (k : Ctl) (fs dv sv : Bool) (d a n : BitVec 5) (id : BitVec 8) (inc : BitVec 4) (h : s.Inv) :
    NextInv (execCpyf k fs dv sv d a n id inc s) :=
  runCmd_nextInv _ _ h fun _ => (lengthOk_yields _).check fun _ => .ok (journalled_inv _ _ _ _ _ _ h)

theorem fill_nextInv (k : Ctl) (dv : Bool) (d n v : BitVec 5) (id : BitVec 8) (inc : BitVec 4) (h : s.Inv) :
    NextInv (execFill k dv d n v id inc s) :=
  runCmd_nextInv _ _ h fun _ => (lengthOk_yields _).check fun _ => .ok (journalled_inv _ _ _ _ _ _ h)

theorem fillDiscard_nextInv (k : Ctl) (m : BitVec 5) (id : BitVec 8) (inc : BitVec 4) (h : s.Inv) :
    NextInv (execFillDiscard k m id inc s) := by
  refine runCmd_nextInv _ _ h fun _ => (liftF_yields _).check fun _ => ?_
  dsimp only
  split
  · exact .error trivial
  · exact .ok (journalled_inv _ _ _ _ _ _ h)

theorem copyUnit_nextInv (n : Nat) (h : s.Inv) : NextInv (execCopyUnit n s) := by
  refine .next ?_
  split
  · exact h
  next j _ =>
    have hu := nextUnit_yields s.cur j h
    refine State.ite_inv h ?_
    split
    · exact h
    · exact State.copyStops_inv _ _ _ h
    next e => exact State.copyStops_inv _ _ _ (hu.of_error e)
    next e => exact State.upMe_inv _ (hu.of_ok e)

theorem cpCompletion_nextInv (n : Nat) (h : s.Inv) : NextInv (execCpCompletion n s) := by
  refine .next ?_
  split
  · exact h
  · exact State.ite_inv h (State.upMe_inv _ (State.counterAdd_inv _ _ _ _ h))

theorem nmMap_yields (en : Entry) (i : Instr) (op : Nat) (dst : BitVec 5) (src : Option (BitVec 5)) (sc count : Word) (h : s.Inv) :
    Yields Stop.Inv (fun d => d.s.Inv) (s.nmMap en i op dst src sc count) := by
  unfold State.nmMap
  exact nmStart_yields _ _ _ _ _ _ _ h

theorem nmfill_nextInv (k : Ctl) (y v n : BitVec 5) (id : BitVec 8) (inc : BitVec 4) (h : s.Inv) : NextInv (execNmfill k y v n id inc s) :=
  runCmd_nextInv _ _ h fun _ => nmStart_yields _ _ _ _ _ _ _ h

theorem nmsum_nextInv (k : Ctl) (r x n : BitVec 5) (id : BitVec 8) (inc : BitVec 4) (h : s.Inv) : NextInv (execNmsum k r x n id inc s) :=
  runCmd_nextInv _ _ h fun _ => (nmStart_yields _ _ _ _ _ _ _ h).bind fun _ hd => .ok hd

theorem nmfence_nextInv (k : Ctl) (id : BitVec 8) (inc : BitVec 4) (h : s.Inv) : NextInv (execNmfence k id inc s) :=
  runCmd_nextInv _ _ h fun _ => (need_yields _).check fun _ => .ok (journalled_inv _ _ _ _ _ _ h)

theorem nmCommand_nextInv (n : Nat) (h : s.Inv) : NextInv (execNmCommand n s) := by
  refine .next ?_
  split
  · exact h
  · exact State.ite_inv h (State.pieces_inv _ (State.nmLostPart_inv _ (State.nmPerform_inv _ _ h)))

theorem nmStatus_nextInv (n : Nat) (h : s.Inv) : NextInv (execNmStatus n s) := by
  refine .next ?_
  split
  · exact h
  · exact State.ite_inv (State.upSlot_inv _ _ (State.pieces_inv _ h)) h

theorem nmsumPartialCombine_nextInv (n : Nat) (h : s.Inv) : NextInv (execNmsumPartialCombine n s) := by
  refine .next ?_
  split
  · exact h
  · split
    · exact h
    · split
      · exact h
      · exact State.ite_inv h (State.ite_inv h (State.nmResult_inv _ _ h))

end Copies

end Sys2Proof.Machine

/-! SUPPORT. Memory stays canonical (07 R182): the words that write and read tables, the synchronization words, and their events. -/
namespace Sys2Proof.Machine

section Tables

variable {s : State}

/-! ### Table words -/

theorem tbw_nextInv (d a b : BitVec 5) (code : BitVec 7) (h : s.Inv) : NextInv (execTbw d a b code s) := by
  unfold execTbw
  dsimp only
  split
  · refine directM_nextInv _ _ _ _ h ?_
    exact (liftF_yields _).check fun _ => (imageKeys_yields _ _ _ _).check fun _ => (ccRead_yields _ _ h).bind fun _ ht => .ok ht
  · refine tableWrite_nextInv _ _ _ _ _ (fun t i v ht => ?_) h
    split
    · exact putUnless_yields _ _ _ _ ht
    · exact putUnless_yields _ _ _ _ ht
    · exact putUnless_yields _ _ _ _ ht
    · exact .ok (State.itePair_inv (State.putSegment_inv _ _ ht) ht)
    · exact putUnless_yields _ _ _ _ ht
    · exact putBankFmt_yields _ _ ht
    · exact putCodebook_yields _ _ ht
    · exact putPolicy_yields _ _ ht
    · exact putUnless_yields _ _ _ _ ht
    · exact putUnless_yields _ _ _ _ ht

theorem shardw_nextInv (d a b : BitVec 5) (owner : Bool) (h : s.Inv) : NextInv (execShardw d a b owner s) := by
  unfold execShardw
  exact tableWrite_nextInv _ _ _ _ _ (fun _ _ _ ht => putUnless_yields _ _ _ _ ht) h

theorem fmmuw_nextInv (d a b : BitVec 5) (mmu : Bool) (h : s.Inv) : NextInv (execFmmuw d a b mmu s) := by
  unfold execFmmuw
  exact tableWrite_nextInv _ _ _ _ _ (fun _ _ _ ht => putUnless_yields _ _ _ _ ht) h

theorem keyw_nextInv (d a b : BitVec 5) (h : s.Inv) : NextInv (execKeyw d a b s) :=
  tableWrite_nextInv _ _ _ _ _ (fun _ _ _ ht => .pair (State.foldl_inv (fun _ _ h => State.ite_inv h (State.setEntry_inv _ _ _ h)) ht)) h

theorem protw_nextInv (d a b : BitVec 5) (h : s.Inv) : NextInv (execProtw d a b s) :=
  tableWrite_nextInv _ _ _ _ _ (fun _ _ _ ht => putUnless_yields _ _ _ _ ht) h

theorem curw_nextInv (d a b : BitVec 5) (h : s.Inv) : NextInv (execCurw d a b s) :=
  tableWrite_nextInv _ _ _ _ _ (fun _ _ _ ht => putUnless_yields _ _ _ _ ht) h

theorem ctxw_nextInv (d a b : BitVec 5) (queue : Bool) (h : s.Inv) : NextInv (execCtxw d a b queue s) := by
  refine .ite (directM_nextInv _ _ _ _ h ((liftF_yields _).check fun _ => (imageKeys_yields _ _ _ _).check fun _ =>
    (ccRead_yields _ _ h).bind ?_)) (tableWrite_nextInv _ _ _ _ _ (fun _ _ _ ht => putContext_yields _ _ ht) h)
  rintro ⟨t, v⟩ ht
  refine Yields.bind (P := fun r => r.1.Inv) ?_ fun _ hu => .ok (State.upMe_inv _ hu)
  split
  · exact .ok ht
  · exact putQueue_yields _ _ ht

theorem tbr_nextInv (d a b : BitVec 5) (code : BitVec 7) (h : s.Inv) : NextInv (execTbr d a b code s) := by
  refine directM_nextInv _ _ _ _ h ((liftF_yields _).check fun _ => (imageKeys_yields _ _ _ _).check fun _ => ?_)
  split
  · exact .ok (State.upMe_inv _ h)
  · exact .ok (State.upMe_inv _ (State.ccWrite_inv _ _ _ _ h))

theorem tlbi_nextInv (scope : TlbiScope) (a : BitVec 5) (h : s.Inv) : NextInv (execTlbi scope a s) :=
  directM_nextInv _ _ _ _ h ((liftF_yields _).check fun _ => .ok h)

theorem shardr_nextInv (d a b : BitVec 5) (h : s.Inv) : NextInv (execShardr d a b s) := by
  refine directM_nextInv _ _ _ _ h ((liftF_yields _).check fun _ => (imageKeys_yields _ _ _ _).check fun _ =>
    (liftF_yields _).check fun _ => (ccRead_yields _ _ h).bind ?_)
  rintro ⟨t, v⟩ ht
  refine .ite (.ok (State.upMe_inv _ ht)) ?_
  dsimp only
  split
  · exact .ok (State.upMe_inv _ (State.ccWrite_inv _ _ _ _ ht))
  · exact .ite (.ok (State.upMe_inv _ ht)) (.error trivial)

theorem tableWriteInForce_nextInv (n : Nat) (h : s.Inv) : NextInv (execTableWriteInForce n s) := by
  refine .next ?_
  split
  · exact h
  next p _ =>
    have hp := State.poolStep_inv (p.key % 2 ^ 44) h
    refine State.ite_inv ?_ (State.ite_inv h (State.ite_inv (State.comeInForce_inv _ _ h) h))
    split
    next u e =>
      have hu : u.Inv := State.inv_of_fst e hp
      exact hu
    next e => exact State.inv_of_fst e hp

/-! ### Seasons and holds -/

theorem seasonIdleExpiry_nextInv (u : SeasonUnit) (h : s.Inv) : NextInv (execSeasonIdleExpiry u s) := by
  refine .next ?_
  cases u with
  | bank tile bank => exact State.ite_inv (State.setBankSeason_inv _ _ _ h) h
  | region stack region => exact State.ite_inv (State.regionSleeps_inv _ _ h) h

theorem wakeComplete_nextInv (u : SeasonUnit) (h : s.Inv) : NextInv (execWakeComplete u s) := by
  refine .next ?_
  cases u with
  | bank tile bank => exact State.ite_inv (State.setTile_inv _ _ (State.setBankSeason_inv _ _ _ h)) h
  | region stack region => exact State.ite_inv (State.regionUse_inv _ (State.setRegionSeason_inv _ _ h)) h

theorem holdExpiry_nextInv (h : s.Inv) : NextInv (execHoldExpiry s) := by
  refine .next ?_
  split
  · split
    · exact State.ite_inv (State.endHold_inv _ h) h
    · exact h
  · exact h

theorem scrub_nextInv (key : Nat) (found : ScrubFind) (h : s.Inv) : NextInv (execScrub key found s) :=
  .next (State.ite_inv h (State.scrubUnit_inv _ _ h))

end Tables

section SyncWords

variable {s : State}

/-! ### Queues -/

theorem enq_nextInv (d : BitVec 3) (a b : BitVec 5) (ind : Bool) (h : s.Inv) : NextInv (execEnq d a b ind s) := by
  refine sync_nextInv _ _ _ h fun en => (syReady_yields _ _ _ _).check fun _ => (queueCheck_yields _ _).check fun _ =>
    Yields.bind (P := fun (r : State × BitVec 512) => r.1.Inv) (.ite ((indKeys_yields _ _ _ _ _).check fun ks => ?_) (.ok h)) ?_
  · have hl := State.loadKeys_inv s.me.y.ctx.toNat ks h
    have ht := State.ite_inv (c := ccIsVa (en.cap b).toNat = true) (State.heat_inv (en.cap b).toNat hl) hl
    dsimp only
    split
    · exact .error ht
    · exact .ok ht
  · rintro ⟨t, v⟩ ht
    exact .ite (.ok (State.wantP_inv _ _ ht)) (.ok (State.wantP_inv _ _ (State.nameActor_inv _ _ _ (State.qPush_inv _ _ ht))))

theorem deq_nextInv (d a b : BitVec 5) (ind : Bool) (p : BitVec 3) (h : s.Inv) : NextInv (execDeq d a b ind p s) :=
  sync_nextInv _ _ _ h fun _ => dequeue_yields _ _ _ _ _ _ _ h

theorem peek_nextInv (d a b : BitVec 5) (ind : Bool) (p : BitVec 3) (h : s.Inv) : NextInv (execPeek d a b ind p s) :=
  sync_nextInv _ _ _ h fun _ => dequeue_yields _ _ _ _ _ _ _ h

theorem qstat_nextInv (d a : BitVec 5) (h : s.Inv) : NextInv (execQstat d a s) :=
  sync_nextInv _ _ _ h fun _ => (syReady_yields _ _ _ _).check fun _ => (queueCheck_yields _ _).check fun _ => .ok h

theorem enqr_nextInv (d : BitVec 3) (a b : BitVec 5) (c : BitVec 4) (h : s.Inv) : NextInv (execEnqr d a b c s) :=
  sync_nextInv _ _ _ h fun _ => (need_yields _).check fun _ => (liftF_yields _).check fun _ => (liftF_yields _).check fun _ =>
    .ite (.ok (State.wantP_inv _ _ h)) ((need_yields _).check fun _ =>
      .ok (State.wantP_inv _ _ (State.request_inv _ _ _ _ _ _ _ _ _ h)))

/-! ### Tokens, rendezvous, phases and counters -/

theorem tokp_nextInv (eng fifo : BitVec 3) (out : Bool) (h : s.Inv) : NextInv (execTokp eng fifo out s) := by
  unfold execTokp
  split
  · refine .next ?_
    split
    · exact State.raiseWord_inv _ _ h
    · exact State.ite_inv (State.raiseWord_inv _ _ h) (State.ite_inv h (State.upMe_inv _ (State.submit_inv _ _ _ h)))
  · exact sync_nextInv _ _ _ h fun _ => .ok h

theorem rndv_nextInv (h : s.Inv) : NextInv (execRndv s) := by
  unfold execRndv
  split
  · exact .next (State.ite_inv h (State.upMe_inv _ (State.submit_inv _ _ _ h)))
  · exact sync_nextInv _ _ _ h fun _ => rndvBody_yields _ h

theorem rndvRetire_nextInv (h : s.Inv) : NextInv (execRndvRetire s) := by
  refine syEvent_nextInv h fun i f e en => ?_
  split at e
  · cases e
    exact rndvBody_yields _ h
  · cases e

theorem syncWord_nextInv (a : BitVec 5) (h : s.Inv) : NextInv (execSync a s) := by
  unfold execSync
  split
  · exact .next (State.submit_inv _ _ _ h)
  next en _ =>
    have hb := arriveBody_yields en a h
    refine .next (State.ite_inv h ?_)
    split
    · exact h
    · exact State.raiseEng_inv _ _ _ _ h
    next e => exact State.raiseEng_inv _ _ _ _ (hb.of_error e)
    next e => exact State.upMe_inv _ (hb.of_ok e)

theorem syncW_nextInv (h : s.Inv) : NextInv (execSyncW s) := by
  unfold execSyncW
  split
  · exact .next (State.submit_inv _ _ _ h)
  · exact .next (State.ite_inv h (State.ite_inv (State.upMe_inv _ h)
      (State.ite_inv (State.raiseEng_inv _ _ _ _ h) (State.upMe_inv _ h))))

theorem arrive_nextInv (a : BitVec 5) (h : s.Inv) : NextInv (execArrive a s) := sync_nextInv _ _ _ h fun _ => arriveBody_yields _ _ h

theorem phaseClose_nextInv (team : Nat) (h : s.Inv) : NextInv (execPhaseClose team s) :=
  .next (State.ite_inv h (State.foldl_inv (fun _ _ h => State.closeAt_inv _ _ h) h))

theorem waitc_nextInv (d : BitVec 3) (a : BitVec 5) (id : BitVec 8) (h : s.Inv) : NextInv (execWaitc d a id s) :=
  sync_nextInv _ _ _ h fun _ => waitcBody_yields _ _ _ _ h

theorem waitcSatisfied_nextInv (h : s.Inv) : NextInv (execWaitcSatisfied s) := by
  refine syEvent_nextInv h fun i f e en => ?_
  split at e
  · cases e
    exact waitcBody_yields _ _ _ _ h
  · cases e

/-! ### Tasks, futures, tickets and counters -/

theorem spawn_nextInv (d a : BitVec 5) (h : s.Inv) : NextInv (execSpawn d a s) := by
  refine sync_nextInv _ _ _ h fun en => (syReady_yields _ _ _ _).check fun _ => (liftF_yields _).check fun _ =>
    (liftF_yields _).check fun _ => (liftF_yields _).check fun _ => ?_
  split
  · exact .ok (State.wantS_inv _ _ h)
  next f _ =>
    have ht : (s.spawnTask en f (en.cap a)).1.Inv := h
    exact .ite (.ok (State.wantS_inv _ _ h)) (.ok (State.wantS_inv _ _ (State.setRefs_inv _ ht)))

theorem refF_nextInv (d : BitVec 3) (a : BitVec 5) (h : s.Inv) : NextInv (execRefF d a s) :=
  sync_nextInv _ _ _ h fun _ => (futReady_yields _ _ _).check fun _ => (futCheck_yields _ _).check fun _ => (liftF_yields _).check fun _ =>
    .ite (.ok (State.wantP_inv _ _ h)) (.ok (State.wantP_inv _ _ (State.setRefs_inv _ (State.setFuture_inv _ _ h))))

theorem dropF_nextInv (d : BitVec 3) (a : BitVec 5) (h : s.Inv) : NextInv (execDropF d a s) :=
  sync_nextInv _ _ _ h fun _ => (futReady_yields _ _ _).check fun _ => (futCheck_yields _ _).check fun _ =>
    .ite (.ok (State.wantP_inv _ _ (State.release_inv _ h))) (.ok (State.wantP_inv _ _ h))

theorem await_nextInv (d : BitVec 3) (a : BitVec 5) (h : s.Inv) : NextInv (execAwait d a s) :=
  sync_nextInv _ _ _ h fun _ => (futReady_yields _ _ _).check fun _ => (futCheck_yields _ _).check fun _ =>
    .ite (.ok (State.wantP_inv _ _ h)) (awaitEnd_yields _ _ h)

theorem awaitl_nextInv (d : BitVec 3) (a : BitVec 5) (h : s.Inv) : NextInv (execAwaitl d a s) := by
  unfold execAwaitl
  split
  · exact .next (State.submit_inv _ _ _ h)
  · exact .next (State.issueLend_inv _ _ (awaitlBody_yields _ _ h) h)

theorem awaitlEnd_nextInv (h : s.Inv) : NextInv (execAwaitlEnd s) := by
  refine lendEvent_nextInv h fun i en r e => ?_
  split at e
  · cases e
    exact awaitlBody_yields _ _ h
  · cases e

theorem yieldl_nextInv (kind : YKind) (a b : BitVec 5) (h : s.Inv) : NextInv (execYieldl kind a b s) := by
  unfold execYieldl
  split
  · exact .next (State.submit_inv _ _ _ h)
  · exact .next (State.issueLend_inv _ _ (yieldlBody_yields _ _ _ _ h) h)

theorem yieldlReady_nextInv (h : s.Inv) : NextInv (execYieldlReady s) := by
  refine lendEvent_nextInv h fun i en r e => ?_
  split at e
  · cases e
    exact yieldlBody_yields _ _ _ _ h
  · cases e

theorem rpoint_nextInv (h : s.Inv) : NextInv (execRpoint s) := by
  unfold execRpoint
  split
  · exact .next (State.submit_inv _ _ _ h)
  · exact .next (State.ite_inv (State.ite_inv (State.reclaimRunning_inv _ h) h) (State.upMe_inv _ h))

theorem tktset_nextInv (d a b : BitVec 5) (h : s.Inv) : NextInv (execTktset d a b s) :=
  sync_nextInv _ _ _ h fun _ => (syReady_yields _ _ _ _).check fun _ => (tktContext_yields _).check fun _ =>
    .ok (State.wantS_inv _ _ (State.setEntry_inv _ _ _ h))

theorem tktget_nextInv (d a : BitVec 5) (sel : TktSel) (h : s.Inv) : NextInv (execTktget d a sel s) :=
  sync_nextInv _ _ _ h fun _ => (syReady_yields _ _ _ _).check fun _ =>
    .ite ((tktContext_yields _).check fun _ => .ok (State.wantS_inv _ _ h))
      ((liftF_yields _).check fun _ => .ok (State.wantS_inv _ _ h))

theorem draw_nextInv (d a : BitVec 5) (h : s.Inv) : NextInv (execDraw d a s) :=
  sync_nextInv _ _ _ h fun _ => (syReadyAt_yields _ _ _ _).check fun _ => (liftF_yields _).check fun _ =>
    .ok (State.wantS_inv _ _ (State.upMe_inv _ h))

theorem ctrget_nextInv (d a : BitVec 5) (h : s.Inv) : NextInv (execCtrget d a s) :=
  sync_nextInv _ _ _ h fun _ => (ctrReady_yields _ _ _).check fun _ => (liftF_yields _).check fun _ => (liftF_yields _).check fun _ =>
    .ok (State.wantS_inv _ _ h)

theorem ctrset_nextInv (a b : BitVec 5) (h : s.Inv) : NextInv (execCtrset a b s) := by
  refine sync_nextInv _ _ _ h fun en => (ctrReady_yields _ _ _).check fun _ => (liftF_yields _).check fun _ => ?_
  split
  · exact .ok (State.nameCounter_inv _ _ (State.setCounter_inv _ _ _ h))
  · exact .ok (State.upMe_inv _ h)
  · exact (liftF_yields _).check fun _ => .ok (State.setCtxEvent_inv _ _ h)
  · exact (liftF_yields _).check fun _ => .ok h
  · exact .error trivial

theorem ctradd_nextInv (a b : BitVec 5) (h : s.Inv) : NextInv (execCtradd a b s) := by
  refine sync_nextInv _ _ _ h fun en => (ctrReady_yields _ _ _).check fun _ => (liftF_yields _).check fun _ => ?_
  split
  · exact .ok (State.nameCounter_inv _ _ (State.counterAdd_inv _ _ _ _ h))
  · exact (liftF_yields _).check fun _ => .ok (State.setCtxEvent_inv _ _ h)
  · exact .error trivial

end SyncWords

end Sys2Proof.Machine

/-! SUPPORT. Memory stays canonical (07 R182): events of the schedulers, of the links and of the fabric. -/
namespace Sys2Proof.Machine

section Schedulers

variable {s : State}

/-! ### Entry, placement and the end of jobs -/

theorem taskEntry_nextInv (die : BitVec 3) (h : s.Inv) : NextInv (execTaskEntry die s) := by
  refine .next (State.ite_inv h ?_)
  split
  next c t _ _ =>
    split
    · exact h
    next e rest _ =>
      have hr := fun x => State.recordAt_inv c e.record (State.taskQueues_inv (mput s.taskQ c rest) (State.setDie_inv die.toNat x h))
      dsimp only
      split
      next e' => exact State.refuseEntry_inv _ _ _ (State.inv_of_fst e' (hr _))
      next e' => exact State.enterTask_inv _ _ _ _ _ (State.inv_of_fst e' (hr _))
  · exact h

theorem predecessorFinish_nextInv (die : BitVec 3) (n : BitVec 11) (h : s.Inv) : NextInv (execPredecessorFinish die n s) := by
  refine .next ?_
  dsimp only
  split
  · exact h
  · exact State.ite_inv h (State.leaveSet_inv _ (State.dropFutPred_inv _ (State.tasks_inv _ h)))

theorem teamPlacement_nextInv (die : BitVec 3) (h : s.Inv) : NextInv (execTeamPlacement die s) := by
  refine .next (State.ite_inv h ?_)
  split
  · exact State.ite_inv (State.setPrecede_inv _ _ h) (State.ite_inv (State.drawVictim_inv _ _ h) (State.serveTeam_inv _ _ h))
  · split
    · exact h
    · exact State.serveTeam_inv _ _ (State.dieDraw_inv _ _ h)

theorem starvationExpiry_nextInv (die : BitVec 3) (h : s.Inv) : NextInv (execStarvationExpiry die s) := by
  refine .next ?_
  dsimp only
  split
  · exact State.ite_inv (State.setPrecede_inv _ _ h) h
  · exact h

theorem jobEnd_nextInv (h : s.Inv) : NextInv (execJobEnd s) := by
  refine .next (State.ite_inv h ?_)
  have he := State.endQuanta_inv s.cur h
  dsimp only
  split
  · exact State.finishTask_inv _ he
  · exact State.leaveSlot_inv _ he

theorem taskReclaim_nextInv (h : s.Inv) : NextInv (execTaskReclaim s) := .next (State.ite_inv (State.reclaimRunning_inv _ h) h)

/-! ### Preemption and swapping -/

theorem preemptionCut_nextInv (h : s.Inv) : NextInv (execPreemptionCut s) :=
  .next (State.ite_inv (State.upSlot_inv _ _ (State.preemptCut_inv _ h)) h)

theorem iterOverrun_nextInv (h : s.Inv) : NextInv (execIterOverrun s) :=
  .next (State.ite_inv (State.countCtx_inv _ _ (State.report_inv _ _ _ (State.preemptCut_inv _ h))) h)

theorem trapEntry_nextInv (h : s.Inv) : NextInv (execTrapEntry s) := by
  refine .next ?_
  dsimp only
  split
  · exact h
  · exact State.ite_inv (State.takeTrap_inv _ _ _ _ _ h) h

theorem contextSwitch_nextInv (incoming : Word) (h : s.Inv) : NextInv (execContextSwitch incoming s) := by
  have hs := State.saveSlot_inv s.cur h
  refine .next (State.ite_inv h ?_)
  dsimp only
  split
  next e => exact State.unsaved_inv _ (State.inv_of_fst e hs)
  next u e =>
    have hu : u.Inv := State.inv_of_fst e hs
    refine State.ite_inv (State.setTeam_inv _ _ (State.restoreSlot_inv _ _ ?moved)) (State.restoreSlot_inv _ _ ?moved)
    split
    · split
      · exact State.setTask_inv _ _ hu
      · exact hu
    · exact hu

theorem teamSwapIn_nextInv (team : Nat) (h : s.Inv) : NextInv (execTeamSwapIn team s) := by
  refine .next (State.ite_inv h (State.setPrecede_inv _ _ (State.foldl_inv (fun t p ht => ?_)
    (State.setTeam_inv _ _ (State.foldl_inv (fun _ _ h => State.putImage_inv _ _ _ h) h)))))
  split
  · exact State.restoreSlot_inv _ _ ht
  · exact ht

theorem queueSwapOut_nextInv (die : BitVec 3) (tenant : BitVec 8) (h : s.Inv) : NextInv (execQueueSwapOut die tenant s) := by
  refine .next ?_
  dsimp only
  split
  · exact h
  · exact State.ite_inv h (State.poolVictim_inv _ _ _ h)

theorem queueSwapIn_nextInv (die : BitVec 3) (h : s.Inv) : NextInv (execQueueSwapIn die s) := by
  refine .next ?_
  dsimp only
  split
  · exact h
  · exact State.countDev_inv _ _ (State.setEntry_inv _ _ _ (State.queueSwaps_inv _ h))

end Schedulers

section Links

variable {s : State}

/-! ### Links to the base dies -/

theorem data64_nextInv (stack : BitVec 4) (h : s.Inv) : NextInv (execData64 stack s) := by
  refine .next (State.arrive_inv _ (fun m t e => ?_) h)
  split at e
  · cases e
    exact h
  · cases e

theorem wack_nextInv (stack : BitVec 4) (h : s.Inv) : NextInv (execWack stack s) := by
  refine .next (State.arrive_inv _ (fun m t e => ?_) h)
  split at e
  · cases e
    exact h
  · cases e

theorem poisonReport_nextInv (stack : BitVec 4) (h : s.Inv) : NextInv (execPoisonReport stack s) := by
  refine .next (State.arrive_inv _ (fun m t e => ?_) h)
  split at e
  · cases e
    exact h
  · cases e

theorem capacityReport_nextInv (stack : BitVec 4) (r : CapReport) (h : s.Inv) : NextInv (execCapacityReport stack r s) :=
  .next (State.ite_inv h h)

theorem alert_nextInv (stack : BitVec 4) (pc : BitVec 6) (oldest : BitVec 5) (parityAgain : BitVec 3) (h : s.Inv) :
    NextInv (execAlert stack pc oldest parityAgain s) := by
  have hr := State.upTo_inv (n := min 4 (parityAgain.toNat + 1)) (f := fun _ (s : State) =>
    (s.countDev (stack.toNat / 2) (replayCounter stack.toNat pc.toNat)).upStack stack.toNat fun st =>
      (st.setDeaf pc.toNat true).replay s.dcc.toNat pc.toNat oldest.toNat)
    (fun _ _ h => State.upStack_inv _ _ (State.countDev_inv _ _ h)) h
  exact .next (State.ite_inv h (State.ite_inv (State.flushPc_inv _ _ (State.upStack_inv _ _ hr)) hr))

theorem channelRetrain_nextInv (stack : BitVec 4) (chan : BitVec 5) (temp : BitVec 8) (trains : Bool) (h : s.Inv) :
    NextInv (execChannelRetrain stack chan temp trains s) :=
  .next (State.ite_inv h (State.ite_inv (State.upStack_inv _ _ h)
    (State.flushPc_inv _ _ (State.flushPc_inv _ _ (State.upStack_inv _ _ h)))))

/-! ### The fabric -/

theorem slotGone_nextInv (station : BitVec 2) (r : SlotHdr) (h : s.Inv) : NextInv (execSlotGone station r s) :=
  .next (State.ite_inv h (State.upStation_inv _ _ h))

theorem slotAllow_nextInv (station : BitVec 2) (r : SlotHdr) (h : s.Inv) : NextInv (execSlotAllow station r s) :=
  .next (State.ite_inv h (State.upStation_inv _ _ h))

end Links

end Sys2Proof.Machine

/-! SUPPORT. Memory stays canonical (07 R182): a team's swap to its context image, the host's queues, interfaces and management. -/
namespace Sys2Proof.Machine

section SwapOut

variable {s : State}

/-- What one slot adds to the slots that a swap saves: nothing once a slot could not be saved. -/
theorem State.saveNext_inv {r : State × Option Nat} (n : Nat) (h : r.1.Inv) :
    ((match r.2 with
      | some _ => r
      | none => match r.1.saveSlot n with
        | (s, true) => (s, none)
        | (s, false) => (s, some n)) : State × Option Nat).1.Inv := by
  have hs := State.saveSlot_inv n h
  split
  · exact h
  · split
    next e => exact State.inv_of_fst e hs
    next e => exact State.inv_of_fst e hs

theorem teamSwapOut_nextInv (team : Nat) (h : s.Inv) : NextInv (execTeamSwapOut team s) := by
  refine .next (State.ite_inv h ?_)
  have hs := fun l => foldl_keeps (fun (r : State × Option Nat) => r.1.Inv) _ l (s, none) (fun _ n h => State.saveNext_inv n h) h
  split
  next e => exact State.unsaved_inv _ (State.inv_of_fst e (hs _))
  next u e =>
    have hu : u.Inv := State.inv_of_fst e (hs _)
    refine State.countCtx_inv _ _ (State.setTeam_inv _ _ (State.foldl_inv (fun _ _ h => State.leaveTile_inv _ _ h)
      (State.foldl_inv (fun t n ht => State.leaveSlot_inv _ ?_) (State.foldl_inv (fun _ _ h => State.meetGranules_inv _ _ h) hu))))
    split
    · split
      · exact State.setTask_inv _ _ ht
      · exact ht
    · exact ht

end SwapOut

section Host

variable {s : State}

/-! ### Host queues -/

theorem hostQueueCreate_nextInv (fn : Fn) (q : BitVec 4) (byPf : Bool) (rec : BitVec 128) (h : s.Inv) :
    NextInv (execHostQueueCreate fn q byPf rec s) := .next (State.ite_inv h h)

theorem stoppedClear_nextInv (fn : Fn) (q : BitVec 4) (h : s.Inv) : NextInv (execStoppedClear fn q s) :=
  .next (State.ite_inv h (State.queueWrite_inv _ _ _ h))

/-- The reader of launch descriptors stands as a variable, as in `State.takeLoad_inv`. -/
theorem invoke_nextInv (fn : Fn) (q : BitVec 4) (h : s.Inv) : NextInv (execInvoke fn q s) := by
  have hc := State.afterCommand_inv fn (s.hostQ (hqKey fn q)) h
  obtain ⟨launchAt, e⟩ : ∃ f, State.launchAt = f := ⟨_, rfl⟩
  have hl : ∀ i va, (launchAt (s.afterCommand fn (s.hostQ (hqKey fn q))) i va).1.Inv := fun i va => e ▸ State.launchAt_inv i va hc
  delta execInvoke
  rw [e]
  refine .next (State.ite_inv h ?_)
  extract_lets mk m u
  split
  · exact State.upHostQ_inv _ _ hc
  · split
    next v l e =>
      have hv : v.Inv := State.inv_of_fst e (hl _ _)
      split
      · exact State.upHostQ_inv _ _ hv
      · split
        next e => exact State.upHostQ_inv _ _ (State.inv_of_fst e (State.launch_inv _ _ _ _ hv))

theorem modelUnload_nextInv (fn : Fn) (q : BitVec 4) (h : s.Inv) : NextInv (execModelUnload fn q s) := by
  have hc := State.afterCommand_inv fn (s.hostQ (hqKey fn q)) h
  have hf := fun f => State.upHostQ_inv (hqKey fn q) f hc
  exact .next (State.ite_inv (State.endUnload_inv _ h) (State.ite_inv h (State.ite_inv (hf _) (State.ite_inv (hf _)
    (State.ite_inv (hf _) (State.endUnload_inv _ (State.upHostQ_inv _ _ (State.setModel_inv _ _ hc))))))))

theorem completionEntryWrite_nextInv (fn : Fn) (q : BitVec 4) (h : s.Inv) : NextInv (execCompletionEntryWrite fn q s) := by
  refine .next ?_
  dsimp only
  split
  · exact h
  · have hw := fun i va bs k f => State.upHostQ_inv k f (State.storeAs_inv i va bs h)
    exact State.ite_inv h (State.ite_inv (State.irqs_inv _ (hw _ _ _ _ _)) (hw _ _ _ _ _))

theorem hostWinMemAccess_nextInv (fn : Fn) (va : Word) (len : BitVec 4) (write : Bool) (data : Word) (h : s.Inv) :
    NextInv (execHostWinMemAccess fn va len write data s) := by
  have hw := State.writeVa_inv frontEnd (s.fnIssuer fn) va.toNat rW (leBytes len.toNat data.toNat) h
  have hr := State.readVa_inv frontEnd (s.fnIssuer fn) va.toNat len.toNat rR h
  refine .next (State.ite_inv h (State.ite_inv (State.ite_inv h (State.answer_inv _ _ h)) (State.ite_inv ?_ ?_)))
  · split
    next e => exact State.inv_of_fst e hw
    next e => exact State.countRefused_inv _ (State.inv_of_fst e hw)
  · split
    next e => exact State.answer_inv _ _ (State.inv_of_fst e hr)
    next e =>
      have ha := fun v => State.answer_inv hostRead v (State.inv_of_fst e hr)
      exact State.ite_inv (ha _) (State.countRefused_inv _ (ha _))

theorem semaphoreRequest_nextInv (portA portB : Bool) (n : BitVec 6) (h : s.Inv) : NextInv (execSemaphoreRequest portA portB n s) :=
  .next (State.ite_inv h (State.ite_inv h (State.ite_inv h (State.ite_inv h h))))

theorem semaphoreRelease_nextInv (portB : Bool) (n : BitVec 6) (h : s.Inv) : NextInv (execSemaphoreRelease portB n s) :=
  .next (State.ite_inv h h)

theorem queueReset_nextInv (fn : Fn) (q : BitVec 4) (h : s.Inv) : NextInv (execQueueReset fn q s) :=
  .next (State.ite_inv h (State.beginReset_inv _ _ h))

theorem queueResetComplete_nextInv (fn : Fn) (q : BitVec 4) (h : s.Inv) : NextInv (execQueueResetComplete fn q s) := by
  have hr := State.reclaimTagged_inv (hqKey fn q) h
  exact .next (State.ite_inv h (State.ite_inv (State.upHostQ_inv _ _ hr) hr))

/-! ### Interfaces and ports -/

theorem vfTeardown_nextInv (vf : BitVec 9) (h : s.Inv) : NextInv (execVfTeardown vf s) :=
  .next (State.ite_inv h (State.beginTeardown_inv _ h))

theorem teardownCircuitsComplete_nextInv (vf : BitVec 9) (h : s.Inv) : NextInv (execTeardownCircuitsComplete vf s) :=
  .next (State.ite_inv h (State.setVf_inv _ _ (State.hostTables_inv _ _ (State.noSlots_inv
    (fun _ h => State.beginTlbi_inv _ _ (State.putSegment_inv _ _ (State.sendSpans_inv _ _ h))) (State.stations_inv _ h)))))

theorem portLinkUp_nextInv (portB : Bool) (tenant : BitVec 8) (h : s.Inv) : NextInv (execPortLinkUp portB tenant s) :=
  .next (State.ite_inv (State.setPort_inv _ _ h) h)

theorem portLinkDown_nextInv (portB : Bool) (h : s.Inv) : NextInv (execPortLinkDown portB s) :=
  .next (State.foldl_inv (fun _ _ h => State.errorEvent_inv _ h) (State.sems_inv _ (State.setPort_inv _ _ h)))

theorem vfEnable_nextInv (portB : Bool) (h : s.Inv) : NextInv (execVfEnable portB s) := by
  refine .next (State.ite_inv h ?_)
  split
  · exact h
  · exact State.setVf_inv _ _ h

theorem lockInterfaceRequest_nextInv (vf : BitVec 9) (h : s.Inv) : NextInv (execLockInterfaceRequest vf s) :=
  .next (State.tdisp_inv _ (fun _ _ e => Option.some.inj (Option.ite_none_right_eq_some.mp e).2 ▸ h) h)

theorem startInterfaceRequest_nextInv (vf : BitVec 9) (nonce : BitVec 256) (h : s.Inv) : NextInv (execStartInterfaceRequest vf nonce s) :=
  .next (State.tdisp_inv _ (fun _ _ e => Option.some.inj (Option.ite_none_right_eq_some.mp e).2 ▸ h) h)

theorem stopInterfaceRequest_nextInv (vf : BitVec 9) (h : s.Inv) : NextInv (execStopInterfaceRequest vf s) :=
  .next (State.tdisp_inv _ (fun _ _ e => Option.some.inj e ▸ State.answer_inv _ _ (State.stopInterface_inv _ h)) h)

theorem getDeviceInterfaceReport_nextInv (vf : BitVec 9) (nonce : BitVec 256) (h : s.Inv) :
    NextInv (execGetDeviceInterfaceReport vf nonce s) :=
  .next (State.tdisp_inv _ (fun _ _ e => Option.some.inj (Option.ite_none_right_eq_some.mp e).2 ▸ h) h)

theorem tdispErrorEvent_nextInv (vf : BitVec 9) (cause : TdispCause) (h : s.Inv) : NextInv (execTdispErrorEvent vf cause s) := by
  refine .next ?_
  cases cause with
  | configWrite => exact State.errorEvent_inv _ h
  | sessionLoss => exact State.errorEvent_inv _ (State.setPort_inv _ _ h)
  | linkDown => exact State.ite_inv h (State.errorEvent_inv _ h)
  | fabricFailed => exact State.ite_inv (State.errorEvent_inv _ h) h

/-! ### Management -/

theorem packageReset_nextInv (failStep : BitVec 4) : NextInv (execPackageReset failStep s) :=
  .next (State.bringUp_inv _ State.afterReset_inv)

theorem reset_nextInv (portB : Bool) (h : s.Inv) : NextInv (execReset portB s) := .next (State.control_inv _ State.afterReset_inv h)

theorem fwupd_nextInv (portB verifies : Bool) (h : s.Inv) : NextInv (execFwupd portB verifies s) :=
  .next (State.control_inv _ (State.ite_inv h h) h)

theorem powerLimitWrite_nextInv (portB : Bool) (v : BitVec 16) (h : s.Inv) : NextInv (execPowerLimitWrite portB v s) :=
  .next (State.control_inv _ h h)

theorem registerWrite_nextInv (reg : MgmtReg) (v : W32) (h : s.Inv) : NextInv (execRegisterWrite reg v s) := by
  refine .next ?_
  cases reg with
  | refused => exact State.ite_inv h h
  | evtDie => exact h
  | evtIndex => exact h
  | readOnly => exact h

end Host

end Sys2Proof.Machine

/-! SUPPORT. Memory stays canonical (07 R182): every instruction and every event. -/
namespace Sys2Proof.Machine

/-- Every instruction and event, one case for each form of its meaning. -/
theorem exec_nextInv {s : State} (i : Instr) (h : s.Inv) : NextInv (exec i s) := by
  delta exec
  cases i with
  | add | sub | mul | mulh | mulhn | div | divn | rem | remn | and | or | xor | shl | shr | sha | min | max | minn | maxn | bufa =>
    exact alu_nextInv _ _ _ _ h
  | clz | ctz | popc | bswap | bufx | bufo | addi | andi | ori | xori | shli | shri | shai => exact alu1_nextInv _ _ _ h
  | sel | cmp | pand | por | pxor | pnot | cmpi | lui | nop => exact direct_nextInv _ _ _ h
  | br | jal | movxs | liw => exact .next (State.ite_inv h (State.upMe_inv _ h))
  | j | region | yieldQ | fence | mark | markRetire | enqrOutcome | coveredResultLanding => exact .next (State.upMe_inv _ h)
  | jalr => exact jalr_nextInv _ _ _ h
  | movx => exact movx_nextInv _ _ _ h
  | ldc | ldcLong => exact directM_nextInv _ _ _ _ h (ldcAt_yields _ _ _ h)
  | stc | stcLong => exact directM_nextInv _ _ _ _ h (stcAt_yields _ _ _ h)
  | amo => exact amo_nextInv _ _ _ _ _ _ h
  | regionResume => exact regionResume_nextInv h
  | sysr => exact sysr_nextInv _ _ _ h
  | sysw => exact sysw_nextInv _ _ _ h
  | arbModeTakeEffect => exact .next (State.arbTakes_inv _ h)
  | trap => exact .next (State.raise_inv _ _ _ _ _ (State.upMe_inv _ h))
  | eret => exact eret_nextInv h
  | endj => exact endj_nextInv h
  | tdef => exact tdef_nextInv _ _ _ h
  | tbw => exact tbw_nextInv _ _ _ _ h
  | tbr => exact tbr_nextInv _ _ _ _ h
  | tlbi => exact tlbi_nextInv _ _ h
  | shardw => exact shardw_nextInv _ _ _ _ h
  | shardr => exact shardr_nextInv _ _ _ h
  | curw => exact curw_nextInv _ _ _ h
  | ctxw => exact ctxw_nextInv _ _ _ _ h
  | fmmuw => exact fmmuw_nextInv _ _ _ _ h
  | keyw => exact keyw_nextInv _ _ _ h
  | protw => exact protw_nextInv _ _ _ h
  | tableWriteInForce => exact tableWriteInForce_nextInv _ h
  | enq => exact enq_nextInv _ _ _ _ h
  | deq => exact deq_nextInv _ _ _ _ _ h
  | peek => exact peek_nextInv _ _ _ _ _ h
  | enqr => exact enqr_nextInv _ _ _ _ h
  | qstat => exact qstat_nextInv _ _ h
  | tokp => exact tokp_nextInv _ _ _ h
  | rndv => exact rndv_nextInv h
  | rndvRetire => exact rndvRetire_nextInv h
  | sync => exact syncWord_nextInv _ h
  | syncW => exact syncW_nextInv h
  | arrive => exact arrive_nextInv _ h
  | phaseClose => exact phaseClose_nextInv _ h
  | waitc => exact waitc_nextInv _ _ _ h
  | waitcSatisfied => exact waitcSatisfied_nextInv h
  | spawn => exact spawn_nextInv _ _ h
  | refF => exact refF_nextInv _ _ h
  | dropF => exact dropF_nextInv _ _ h
  | await => exact await_nextInv _ _ h
  | awaitl => exact awaitl_nextInv _ _ h
  | awaitlEnd => exact awaitlEnd_nextInv h
  | rpoint => exact rpoint_nextInv h
  | yieldl => exact yieldl_nextInv _ _ _ h
  | yieldlReady => exact yieldlReady_nextInv h
  | tktset => exact tktset_nextInv _ _ _ h
  | tktget => exact tktget_nextInv _ _ _ h
  | draw => exact draw_nextInv _ _ h
  | ctrset => exact ctrset_nextInv _ _ h
  | ctrget => exact ctrget_nextInv _ _ h
  | ctradd => exact ctradd_nextInv _ _ h
  | patchWordDispatch => exact patchWordDispatch_nextInv _ _ _ _ _ _ _ h
  | vadd | vsub | vmul | vdiv | vmin | vmax | vand | vor | vxor | vmulh | vscale => exact vx2_nextInv _ _ _ _ _ _ h
  | vfma | vfms | vfnma => exact vx3_nextInv _ _ _ _ _ _ _ h
  | vsqrt | vexp2 | vlog2 | vabs | vneg => exact vx1_nextInv _ _ _ _ _ h
  | vshl | vshr | vsha => exact vxShift_nextInv _ _ _ _ _ _ h
  | vcmp | kand | kor | kxor | knot | kfirst => exact vxK_nextInv _ _ _ h
  | vsel | kpopc | vcvt | vpack | vunpack | vperm | vbcast | vget | viota | vmov | vmovi => exact vxLanes_nextInv _ _ _ _ h
  | vlut | vsort | vput | vrand => exact runCmd_nextInv _ _ h fun _ => .ok h
  | vredsum | vredmax | vredmin | vscan => exact vxAll_nextInv _ _ _ h
  | vspill => exact vspill_nextInv _ _ _ h
  | vfill => exact vfill_nextInv _ _ _ h
  | mma => exact mma_nextInv _ _ _ _ _ _ _ _ h
  | mmaz => exact mmaz_nextInv _ _ _ _ _ _ _ _ h
  | mmap => exact mmap_nextInv _ _ _ _ _ _ _ _ h
  | mret => exact mret_nextInv _ _ h
  | mdrain => exact mdrain_nextInv _ _ _ _ _ _ _ _ _ h
  | mzero => exact mzero_nextInv _ _ _ h
  | mldcb => exact mldcb_nextInv _ _ _ _ _ h
  | mstat => exact mstat_nextInv _ _ _ _ _ _ h
  | mpark => exact mpark_nextInv _ _ _ _ _ h
  | munpark => exact munpark_nextInv _ _ _ _ _ h
  | stampReached => exact .next (State.stampDueAt_inv _ h)
  | arbiterDraw => exact .next (State.drawEngine_inv _ _ h)
  | quantumEnd => exact .next (State.quantumEnds_inv _ _ (State.yieldEnds_inv _ _ h))
  | ld | ldb => exact runCmd_nextInv _ _ h fun _ => loadBody_yields _ _ _ _ _ _ _ _ _ h
  | ldg => exact ldg_nextInv _ _ _ _ _ _ _ _ _ _ h
  | ldf => exact ldf_nextInv _ _ _ _ _ _ _ _ h
  | lds => exact lds_nextInv _ _ _ _ _ _ _ _ _ h
  | st | stb => exact runCmd_nextInv _ _ h fun _ => storeBody_yields _ _ _ _ _ _ _ h
  | stg => exact stg_nextInv _ _ _ _ _ _ _ _ h
  | stf => exact stf_nextInv _ _ _ _ _ _ h
  | stn4 => exact stn4_nextInv _ _ _ _ _ _ h
  | vamo => exact vamo_nextInv _ _ _ _ _ _ _ _ _ _ h
  | loadDataHead => exact loadDataHead_nextInv h
  | storePerformed => exact storePerformed_nextInv _ _ h
  | loadPerformed => exact loadPerformed_nextInv _ _ h
  | storeReplay => exact storeReplay_nextInv h
  | cpy => exact cpy_nextInv _ _ _ _ _ _ _ _ _ h
  | cpy2 => exact cpy2_nextInv _ _ _ _ _ _ _ _ _ _ h
  | cpys => exact cpys_nextInv _ _ _ _ _ _ _ _ h
  | cpyf => exact cpyf_nextInv _ _ _ _ _ _ _ _ _ h
  | fill => exact fill_nextInv _ _ _ _ _ _ _ h
  | fillDiscard => exact fillDiscard_nextInv _ _ _ _ h
  | copyUnit => exact copyUnit_nextInv _ h
  | cpCompletion => exact cpCompletion_nextInv _ h
  | nmaxpy | nmscale | nmfade | nmchk => exact runCmd_nextInv _ _ h fun _ => nmMap_yields _ _ _ _ _ _ _ h
  | nmsum => exact nmsum_nextInv _ _ _ _ _ _ h
  | nmfill => exact nmfill_nextInv _ _ _ _ _ _ h
  | nmfence => exact nmfence_nextInv _ _ _ h
  | nmCommand => exact nmCommand_nextInv _ h
  | nmsumPartialCombine => exact nmsumPartialCombine_nextInv _ h
  | nmStatus => exact nmStatus_nextInv _ h
  | taskEntry => exact taskEntry_nextInv _ h
  | predecessorFinish => exact predecessorFinish_nextInv _ _ h
  | teamPlacement => exact teamPlacement_nextInv _ h
  | starvationExpiry => exact starvationExpiry_nextInv _ h
  | preemptRequest => exact .next (State.askPreempt_inv _ h)
  | preemptionCut => exact preemptionCut_nextInv h
  | iterOverrun => exact iterOverrun_nextInv h
  | teamSwapOut => exact teamSwapOut_nextInv _ h
  | teamSwapIn => exact teamSwapIn_nextInv _ h
  | jobEnd => exact jobEnd_nextInv h
  | taskReclaim => exact taskReclaim_nextInv h
  | trapEntry => exact trapEntry_nextInv h
  | contextSwitch => exact contextSwitch_nextInv _ h
  | queueSwapOut => exact queueSwapOut_nextInv _ _ h
  | queueSwapIn => exact queueSwapIn_nextInv _ h
  | seasonIdleExpiry => exact seasonIdleExpiry_nextInv _ h
  | wakeComplete => exact wakeComplete_nextInv _ h
  | holdExpiry => exact holdExpiry_nextInv h
  | hostKick | cqheadWrite => exact .next (State.queueWrite_inv _ _ _ h)
  | stoppedClear => exact stoppedClear_nextInv _ _ h
  | invoke => exact invoke_nextInv _ _ h
  | modelLoad | pluginTimeout => exact .next (State.takeLoad_inv _ _ _ h)
  | modelUnload => exact modelUnload_nextInv _ _ h
  | completionEntryWrite => exact completionEntryWrite_nextInv _ _ h
  | hostWinMemAccess => exact hostWinMemAccess_nextInv _ _ _ _ _ h
  | semaphoreRequest => exact semaphoreRequest_nextInv _ _ _ h
  | semaphoreRelease => exact semaphoreRelease_nextInv _ _ h
  | reset => exact reset_nextInv _ h
  | fwupd => exact fwupd_nextInv _ _ h
  | powerLimitWrite => exact powerLimitWrite_nextInv _ _ h
  | evtDataWrite | spareTileTakeover => exact .next (State.ite_inv h h)
  | registerWrite => exact registerWrite_nextInv _ _ h
  | portLinkDown => exact portLinkDown_nextInv _ h
  | lockInterfaceRequest => exact lockInterfaceRequest_nextInv _ h
  | startInterfaceRequest => exact startInterfaceRequest_nextInv _ _ h
  | stopInterfaceRequest => exact stopInterfaceRequest_nextInv _ h
  | getDeviceInterfaceReport => exact getDeviceInterfaceReport_nextInv _ _ h
  | tdispErrorEvent => exact tdispErrorEvent_nextInv _ _ h
  | getVersion | getCapabilities | negotiateAlgorithms | getDigests | getCertificate | challenge | getMeasurements | keyExchange
  | finish => exact .next (State.spdm_inv _ _ _ _ _ h)
  | packageReset => exact packageReset_nextInv _
  | queueReset => exact queueReset_nextInv _ _ h
  | queueResetComplete => exact queueResetComplete_nextInv _ _ h
  | vfTeardown => exact vfTeardown_nextInv _ h
  | teardownCircuitsComplete => exact teardownCircuitsComplete_nextInv _ h
  | slotCrcReplay | slotProtocolError | flitCrcFail | powerWindow => exact .next h
  | scrub => exact scrub_nextInv _ _ h
  | channelRetrain => exact channelRetrain_nextInv _ _ _ _ h
  | packageRingLinkDown | lockstepMismatch => exact .next (State.setDie_inv _ _ h)
  | read64 | write64 => exact .next (State.takeReq_inv _ h)
  | data64 => exact data64_nextInv _ h
  | wack => exact wack_nextInv _ h
  | seasonMapUpdate => exact .next (State.takeSeason_inv _ h)
  | poisonReport => exact poisonReport_nextInv _ h
  | capacityRequest | integrityTagFailure | stackLinkProtocolError | stackRingLinkDown => exact .next (State.upStack_inv _ _ h)
  | capacityReport => exact capacityReport_nextInv _ _ h
  | alert => exact alert_nextInv _ _ _ _ h
  | slotDrain | slotReinject | zozanPortFailure | rackRingLinkDown => exact .next (State.upStation_inv _ _ h)
  | slotWrite | slotRead | slotEnqr => exact .next (State.inRequest_inv _ _ h)
  | slotData | slotWack | slotOutcome | slotFault => exact .next (State.inResponse_inv _ _ h)
  | slotGone => exact slotGone_nextInv _ _ h
  | slotAllow => exact slotAllow_nextInv _ _ h
  | reservedEncoding | fetchFault => exact .next (State.raiseWord_inv _ _ h)
  | vfEnable => exact vfEnable_nextInv _ h
  | portLinkUp => exact portLinkUp_nextInv _ _ h
  | hostQueueCreate => exact hostQueueCreate_nextInv _ _ _ _ h

end Sys2Proof.Machine

/-! SUPPORT. Memory stays canonical (07 R182): what falls due, fetch and dispatch, issue, and every move of a step. -/
namespace Sys2Proof.Machine

section Due

variable {s : State}

theorem State.settle_inv (h : s.Inv) : s.settle.Inv :=
  State.ringsMove_inv (State.foldl_inv (fun _ _ h => State.stackClock_inv _ h) (State.foldl_inv (fun _ _ h => State.yieldsEnd_inv _ h)
    (State.foldl_inv (fun _ _ h => State.pairDueAt_inv _ h) (State.foldl_inv (fun _ _ h => State.stampDueAt_inv _ h)
      (State.foldl_inv (fun _ _ h => State.completeDueAt_inv _ h) (State.foldl_inv (fun _ _ h => State.landDueAt_inv _ h)
        (State.foldl_inv (fun _ _ h => State.teamStops_inv _ h) (State.foldl_inv (fun _ _ h => State.arbTakes_inv _ h)
          (State.foldl_inv (fun _ _ h => State.dropFences_inv _ h) h)))))))))

theorem ticked_nextInv {r : Res} (h : NextInv r) : NextInv (ticked r) := by
  cases r with
  | next t => exact .next (State.tick_inv (h t rfl))
  | fault f => exact fun _ e => nomatch e
  | refused r => exact fun _ e => nomatch e

/-- What a move out of turn keeps, a move in its turn keeps. -/
theorem inTurn_nextInv (arb limit : Nat) (slots : List Nat) {f : State → Res} (hf : NextInv (f s)) (h : s.Inv) :
    NextInv (s.inTurn arb limit slots f) := by
  refine .ite ?_ (.next h)
  split
  next t e => exact .ite (.next (hf t e)) (.next (State.setTile_inv _ _ (hf t e)))
  next => exact fun _ e => nomatch e
  next => exact fun _ e => nomatch e

end Due

section Dispatch

variable {s : State}

theorem State.fetchWord_inv (a : Word) (h : s.Inv) : (s.fetchWord a).1.Inv := by
  have hr := State.readVa_inv s.origin (s.issuer s.cur) a.toNat 4 rX h
  unfold State.fetchWord
  split
  next e => exact State.fillCore_inv _ _ (State.inv_of_fst e hr)
  next e => exact State.inv_of_fst e hr

theorem State.iteSnd_inv {α : Type} {c : Prop} [Decidable c] {p q : α × State} (hp : p.2.Inv) (hq : q.2.Inv) :
    (if c then p else q).2.Inv := by
  split
  · exact hp
  · exact hq

theorem State.fetchInstr_inv (h : s.Inv) : s.fetchInstr.2.Inv := by
  have h0 := State.fetchWord_inv s.me.pc h
  unfold State.fetchInstr
  dsimp only
  split
  next e => exact State.inv_of_fst e h0
  next t w0 e =>
    have ht : t.Inv := State.inv_of_fst e h0
    have h1 := State.fetchWord_inv (s.me.pc + 4#64) ht
    split
    · exact ht
    · refine State.iteSnd_inv ht ?_
      split
      next e => exact State.inv_of_fst e h1
      next u w1 e =>
        have hu : u.Inv := State.inv_of_fst e h1
        have h2 := State.fetchWord_inv (s.me.pc + 8#64) hu
        refine State.iteSnd_inv hu ?_
        split
        next e => exact State.inv_of_fst e h2
        next e => exact State.inv_of_fst e h2

theorem runFetched_nextInv (f : Fetched) (h : s.Inv) : NextInv (runFetched f s) := by
  cases f with
  | instr i => exact exec_nextInv i h
  | reserved w => exact .next (State.raiseWord_inv _ _ h)
  | fault c a => exact .next (State.raiseWord_inv _ _ h)

theorem taken_nextInv (u : State) {r : Res} (hr : NextInv r) (h : s.Inv) : NextInv (taken s u r) := by
  cases r with
  | next t => exact .ite (.next h) (.next (hr t rfl))
  | fault f => exact fun _ e => nomatch e
  | refused r => exact fun _ e => nomatch e

theorem takeWord_nextInv (h : s.Inv) : NextInv s.takeWord :=
  .ite (taken_nextInv _ (runFetched_nextInv _ (State.fetchInstr_inv h)) h) (.next h)

theorem dispatchWord_nextInv (h : s.Inv) : NextInv s.dispatchWord := inTurn_nextInv _ _ _ (takeWord_nextInv h) h

end Dispatch

section Issue

variable {s : State}

theorem State.askEngine_inv {t : State} (e : Engine) (h : s.Inv) (ht : s.askEngine e = .drawn t) : t.Inv := by
  unfold State.askEngine at ht
  dsimp only at ht
  split at ht
  · cases ht
  · split at ht
    · cases ht
    · split at ht
      · split at ht <;> cases ht
      · injection ht with ht
        exact ht ▸ State.drawEngine_inv _ _ h

theorem runSy_nextInv (en : Entry) (h : s.Inv) : NextInv (s.runSy en) := by
  unfold State.runSy
  split
  · exact exec_nextInv _ (State.setPhase_inv _ h)
  · exact .next h
  · exact .next h

theorem issueFirst_nextInv (e : Engine) (h : s.Inv) : NextInv (s.issueFirst e) := by
  unfold State.issueFirst
  split
  · split
    · exact .next (State.ite_inv h (State.upMe_inv _ h))
    · exact .ite (runSy_nextInv _ (State.upMe_inv _ h)) (.next h)
    · split
      · exact .next h
      · split
        · exact exec_nextInv _ (State.setPhase_inv _ h)
        · exact .next h
        next ht => exact .next (State.askEngine_inv _ h ht)
  · exact .next h

theorem issueHead_nextInv (e : Engine) (h : s.Inv) : NextInv (s.issueHead e) := by
  unfold State.issueHead
  split
  · exact .ite (runSy_nextInv _ h) (.next h)
  · split
    · exact inTurn_nextInv _ _ _ (issueFirst_nextInv _ h) h
    · exact issueFirst_nextInv _ h

end Issue

section Policy

variable {s : State}

theorem move_nextInv (m : Move) (h : s.Inv) : NextInv (s.move m) := by
  cases m with
  | dispatch n => exact dispatchWord_nextInv (State.setCur_inv n h)
  | issue n e => exact issueHead_nextInv e (State.setCur_inv n h)
  | event n i => exact exec_nextInv i (State.setCur_inv n h)
  | upset u k => exact .next (State.upsets_inv _ h)

/-- A list of acts each of which keeps memory canonical. -/
def ActsKeep (l : List (State → Res)) : Prop := ∀ f ∈ l, ∀ s : State, s.Inv → NextInv (f s)

theorem ActsKeep.append {l r : List (State → Res)} (hl : ActsKeep l) (hr : ActsKeep r) : ActsKeep (l ++ r) := fun f hf =>
  (List.mem_append.mp hf).elim (hl f) (hr f)

theorem ActsKeep.map {α : Type} (l : List α) {g : α → State → Res} (hg : ∀ a s, s.Inv → NextInv (g a s)) : ActsKeep (l.map g) := by
  intro f hf
  obtain ⟨a, _, rfl⟩ := List.mem_map.mp hf
  exact hg a

theorem ActsKeep.flatMap {α : Type} (l : List α) {g : α → List (State → Res)} (hg : ∀ a, ActsKeep (g a)) : ActsKeep (l.flatMap g) := by
  intro f hf
  obtain ⟨a, _, hf⟩ := List.mem_flatMap.mp hf
  exact hg a f hf

theorem ActsKeep.cons {f : State → Res} {l : List (State → Res)} (hf : ∀ s, s.Inv → NextInv (f s)) (hl : ActsKeep l) : ActsKeep (f :: l) :=
  List.forall_mem_cons.mpr ⟨hf, hl⟩

theorem ActsKeep.nil : ActsKeep [] := fun _ h => nomatch h

theorem ActsKeep.single {f : State → Res} (hf : ∀ s, s.Inv → NextInv (f s)) : ActsKeep [f] := .cons hf .nil

theorem linkActs_keep (s : State) : ActsKeep s.linkActs := by
  refine .flatMap _ fun e => .append ?_ ?_
  · split
    · exact .single fun _ h => data64_nextInv _ h
    · exact .single fun _ h => wack_nextInv _ h
    · exact .single fun _ h => poisonReport_nextInv _ h
    · exact .single fun _ h => capacityReport_nextInv _ _ h
    · exact .nil
    · exact .nil
  · split
    · exact .single fun _ h => .next (State.takeSeason_inv _ h)
    all_goals exact .nil

theorem frontActs_keep (s : State) : ActsKeep s.frontActs :=
  .flatMap _ fun _ => .cons (fun _ h => invoke_nextInv _ _ h) (.cons (fun _ h => .next (State.takeLoad_inv _ _ _ h))
    (.cons (fun _ h => modelUnload_nextInv _ _ h) (.cons (fun _ h => completionEntryWrite_nextInv _ _ h)
      (.single fun _ h => queueResetComplete_nextInv _ _ h))))

theorem acts_keep (s : State) : ActsKeep s.acts := by
  have hm : ActsKeep (s.tries.map fun m s => s.move m) := .map _ fun m _ h => move_nextInv m h
  have he := fun l : List Instr => ActsKeep.map l fun i _ h => exec_nextInv i h
  have hr := fun l => ((he l).append (linkActs_keep s)).append (frontActs_keep s)
  unfold State.acts
  dsimp only
  split
  · exact hm.append (hr _)
  · exact (hr _).append hm

theorem State.firstAct_inv {t : State} {l : List (State → Res)} (hl : ActsKeep l) (h : s.Inv) (e : s.firstAct l = some t) : t.Inv := by
  induction l with
  | nil => cases e
  | cons m r ih =>
    obtain ⟨hm, hr⟩ := List.forall_mem_cons.mp hl
    unfold State.firstAct at e
    split at e
    next u eu =>
      split at e
      · exact ih hr e
      · exact Option.some.inj e ▸ hm s h u eu
    · exact ih hr e
    · exact ih hr e

theorem State.auto_inv (h : s.Inv) : s.auto.Inv := by
  have hs : ((s.setMe s.me).setTile (tileOf s.cur) (s.tile (tileOf s.cur))).Inv := h
  refine State.setCur_inv _ ?_
  cases e : State.firstAct _ _ with
  | none => exact hs
  | some t => exact State.firstAct_inv (acts_keep _) hs e

theorem step_nextInv (h : s.Inv) : NextInv (step s) := by
  unfold step
  split
  next m r _ =>
    have hs : ({ s with agenda := r } : State).Inv := h
    exact .ite (ticked_nextInv (move_nextInv m (State.settle_inv hs))) fun _ e => nomatch e
  · exact .ite (.next (State.tick_inv (State.auto_inv (State.settle_inv h)))) fun _ e => nomatch e

end Policy

/-- Settles O55: the list of cells changes only by `State.putByte`, by the freshening of whole units and by reset, which leave it canonical;
every instruction, event and move is composed of operations that do so. -/
theorem stepKeepsMemoryCanonical : Obligations.StepKeepsMemoryCanonical := fun _ t h e => step_nextInv h t e

end Sys2Proof.Machine
